-- ==== Sys2Proof/Word.lean ====
section
/-! DEFINITION. The word types of the router: a byte of a frame, and a two-byte field (R178). -/

namespace Sys2Proof

/-- One byte as the link and the radio channels carry it (R178). -/
abbrev Byte := BitVec 8

/-- A two-byte field: aux flags, a slot pattern, a frame check, the time counter (R178, R152). -/
abbrev Half := BitVec 16

end Sys2Proof
end

