-- ==== Sys2Proof/Config.lean ====
section
/-! DEFINITION. What the part fixes for every run, and the one free value of the model. -/

namespace Sys2Proof

/-- The choice the manual leaves open where several things of ONE event may be taken in either order: which of two
latches the Fault Unit takes first (R151), where a reply falls among the ALERT frames of its own event (R164), which lost
member names a break (R94), and the byte index of a test that lost lock with eight bytes back but not all correct (R25).
It has no body, so nothing can evaluate it: a claim holds whatever order is taken. The machine applies it to
`State.freeCount` and advances that counter (assumption 1). -/
opaque Config.freeChoice : Nat → Nat

/-- The lock limit of R23, in milliseconds. -/
def Config.lockLimit : Nat := 50

/-- The relock limit of R26, in milliseconds. -/
def Config.relockLimit : Nat := 50

/-- The send limit of R40, in milliseconds. -/
def Config.sendLimit : Nat := 500

end Sys2Proof
end

