-- ==== Sys2Proof/Syntax.lean ====
section
/-! DEFINITION. The commands of the block: one constructor for each row of spec/opcode_table.json, with the operands that
the row's event brings from outside (the table gives its rows no bit fields). A management command takes no operand here:
its arguments stand in the Management Queue, whose head the step executes (R166). -/

namespace Sys2Proof

/-- The four radio channels (conventions of chapter 0). -/
inductive Channel
  | A
  | B
  | C
  | D
deriving DecidableEq, Repr

/-- V0 to V63. -/
abbrev VehicleId := Fin 64

/-- C0 to C11. -/
abbrev ConvoyId := Fin 12

/-- B0 to B31. -/
abbrev BindingId := Fin 32

/-- Z0 to Z31. -/
abbrev RangeId := Fin 32

/-- A slot number of a cycle, 0 to 15 (R29). -/
abbrev SlotNo := Fin 16

/-- The levels of the router's own pins besides the link and the radio ports ("The way in", chapter 0). -/
structure Pins where
  /-- The three node-address straps, 0 to 7 (R161). -/
  straps : BitVec 3
  /-- The THROUGH/END strap: true is END (R51). -/
  endStrap : Bool
  /-- The level of the E-stop input: true is asserted (R156). -/
  estop : Bool
  /-- The level of the supply-monitor input: true is asserted (R156). -/
  supply : Bool
deriving DecidableEq, Repr

/-- The header of a link frame as its four bytes are received (R179). -/
structure LinkHeader where
  destination : Byte
  source : Byte
  /-- The class code. -/
  cls : Byte
  /-- The payload length that the header gives. -/
  length : Byte
deriving DecidableEq, Repr

/-- The commands: what can be done to the block, or what it does whole (spec/95_what_each_step_holds.md). -/
inductive Instr
  /-- POWER_ON_RESET (R20): the operand is the level of each pin at the end of the reset. -/
  | powerOnReset (pins : Pins)
  /-- FRAME_CHECK_FAILURE (R162): the bytes of a link frame that fails its frame check. -/
  | frameCheckFailure (bytes : List Byte)
  /-- DRIVE (R49): a received link frame, its header, payload and frame check as R179 lays them out, that passes its frame
  check and whose class code is DRIVE. -/
  | drive (header : LinkHeader) (payload : List Byte) (check : Half)
  /-- AUX (R49): a received link frame, as of DRIVE, whose class code is AUX. -/
  | aux (header : LinkHeader) (payload : List Byte) (check : Half)
  /-- MGMT (R165): a received link frame, as of DRIVE, whose class code is MGMT. -/
  | mgmt (header : LinkHeader) (payload : List Byte) (check : Half)
  /-- OUTPUT_FRAME_SEND (R164): the router finds the link idle. -/
  | outputFrameSend
  /-- UNKNOWN_COMMAND (R167): the head names no command or is too short. -/
  | unknownCommand
  /-- NOP (R175), executed at the head of the Management Queue, as the twenty after it are. -/
  | nop
  /-- STATUS (R174). -/
  | status
  /-- READ (R170). -/
  | read
  /-- WRITE of the VEHICLE table (R5, R171). -/
  | vehicleWrite
  /-- WRITE of the BINDING table (R47, R171). -/
  | bindingWrite
  /-- WRITE of the ZONE table (R115, R171). -/
  | zoneWrite
  /-- WRITE of the LIMITS table (R172, R171). -/
  | limitsWrite
  /-- CONVOY_FORM (R84). -/
  | convoyForm
  /-- CONVOY_ADD (R85). -/
  | convoyAdd
  /-- CONVOY_REMOVE (R86, R87). -/
  | convoyRemove
  /-- CONVOY_HOLD (R88). -/
  | convoyHold
  /-- CONVOY_RESUME (R89). -/
  | convoyResume
  /-- CONVOY_DISBAND (R90). -/
  | convoyDisband
  /-- ZONE_RELEASE (R135). -/
  | zoneRelease
  /-- COUPLE_CONFIRM (R148). -/
  | coupleConfirm
  /-- COUPLE_REJECT (R148). -/
  | coupleReject
  /-- DIRECT_SEND (R40). -/
  | directSend
  /-- CHANNEL_RESTART (R28). -/
  | channelRestart
  /-- FAULT_READ (R157). -/
  | faultRead
  /-- FAULT_CLEAR (R158). -/
  | faultClear
  /-- STOP_ALL (R56, R175). -/
  | stopAll
  /-- RESTART (R176). -/
  | restart
  /-- LOCK_ACHIEVED (R23): the module of the channel reports lock. -/
  | lockAchieved (channel : Channel)
  /-- LOCK_LIMIT_EXPIRY (R23). -/
  | lockLimitExpiry (channel : Channel)
  /-- LOOPBACK_WINDOW_END (R24): the bytes the receiver returned in the window. -/
  | loopbackWindowEnd (channel : Channel) (returned : List Byte)
  /-- LOCK_LOST (R26, R25): the bytes returned so far in an open loopback window (none are, outside a self-test or when
  no window is open). -/
  | lockLost (channel : Channel) (returned : List Byte)
  /-- RELOCK (R26): the module of the channel reports lock. -/
  | relock (channel : Channel)
  /-- RELOCK_LIMIT_EXPIRY (R26). -/
  | relockLimitExpiry (channel : Channel)
  /-- CYCLE_START (R29). -/
  | cycleStart (channel : Channel)
  /-- FRAME_BUILD (R32): the start of a drive slot, 1 to 15. -/
  | frameBuild (channel : Channel) (slot : SlotNo)
  /-- RADIO_FRAME_RECEIVE (R34, R39, R41): the bytes of a frame the module receives in a response window. -/
  | radioFrameReceive (channel : Channel) (bytes : List Byte)
  /-- RESPONSE_WINDOW_END (R35). -/
  | responseWindowEnd (channel : Channel)
  /-- HOUSEKEEPING_WINDOW_END (R39, R41). -/
  | housekeepingWindowEnd (channel : Channel)
  /-- SEND_LIMIT_EXPIRY (R42). -/
  | sendLimitExpiry (channel : Channel)
  /-- SILENCE_EXPIRY (R54). -/
  | silenceExpiry (binding : BindingId)
  /-- ESTOP_ASSERTION_EDGE (R55, R156). -/
  | estopAssertionEdge
  /-- ESTOP_RELEASE (R156). -/
  | estopRelease
  /-- SUPPLY_MONITOR_ASSERTION_EDGE (R156). -/
  | supplyMonitorAssertionEdge
  /-- SUPPLY_MONITOR_RELEASE (R156). -/
  | supplyMonitorRelease
  /-- TIME_COUNTER_TICK (R152). -/
  | timeCounterTick
deriving DecidableEq, Repr

end Sys2Proof
end

