-- ==== Sys2Proof/WellFormed.lean ====
section
/-! DEFINITION. The commands that can be meant: the operands the constructors' types leave too wide are checked here. -/

namespace Sys2Proof

/-- A link frame carries 0 to 128 bytes of payload (R160), and a drive slot is one of 1 to 15 (R32). Every other operand's
type holds exactly its values: the bytes of a frame that fails its frame check may be any (R162). -/
def Instr.wellFormed : Instr → Bool
  | .powerOnReset _ => true
  | .frameCheckFailure _ => true
  | .drive _ payload _ => payload.length ≤ 128
  | .aux _ payload _ => payload.length ≤ 128
  | .mgmt _ payload _ => payload.length ≤ 128
  | .outputFrameSend => true
  | .unknownCommand => true
  | .nop => true
  | .status => true
  | .read => true
  | .vehicleWrite => true
  | .bindingWrite => true
  | .zoneWrite => true
  | .limitsWrite => true
  | .convoyForm => true
  | .convoyAdd => true
  | .convoyRemove => true
  | .convoyHold => true
  | .convoyResume => true
  | .convoyDisband => true
  | .zoneRelease => true
  | .coupleConfirm => true
  | .coupleReject => true
  | .directSend => true
  | .channelRestart => true
  | .faultRead => true
  | .faultClear => true
  | .stopAll => true
  | .restart => true
  | .lockAchieved _ => true
  | .lockLimitExpiry _ => true
  | .loopbackWindowEnd _ _ => true
  | .lockLost _ _ => true
  | .relock _ => true
  | .relockLimitExpiry _ => true
  | .cycleStart _ => true
  | .frameBuild _ slot => slot ≠ 0
  | .radioFrameReceive _ _ => true
  | .responseWindowEnd _ => true
  | .housekeepingWindowEnd _ => true
  | .sendLimitExpiry _ => true
  | .silenceExpiry _ => true
  | .estopAssertionEdge => true
  | .estopRelease => true
  | .supplyMonitorAssertionEdge => true
  | .supplyMonitorRelease => true
  | .timeCounterTick => true

end Sys2Proof
end

