-- ==== Sys2Proof/Decode.lean ====
section
/-! DEFINITION. The command that a word of spec/opcode_table.json's bits spells. No row of the table gives bits (its
"fields" are all empty), so no word spells a command. The byte layouts of the frames, which are the block's real input
and output forms, stand in Machine/Wire.lean, and LinkFrame.ofClass there reads a received frame's class byte. -/

namespace Sys2Proof

/-- No row of the table has bits, so every word is rejected. -/
def decodeTableWord (_nbits _w : Nat) : Option Instr := none

end Sys2Proof
end

