-- ==== Sys2Proof/Machine/State.lean ====
section
/-! DEFINITION. Everything the block holds, as plain data, and the block right after reset. Each block of the router
("Blocks of the router", chapter 0) has a record of its own, and each field names the rule that gives it. -/

namespace Sys2Proof.Machine

/-! ## Words of the manual -/

/-- A segment number, 0 to 1023: road × 64 + position (R1). -/
abbrev Segment := Fin 1024

/-- A time of the 16-bit millisecond counter (R152). -/
abbrev Time := Half

/-- Turn codes (R33, R45), in the coding order of R178. -/
inductive Turn
  | ahead
  | left
  | right
deriving DecidableEq, Repr

/-- Tractors are driven, trailers are carried (R3). -/
inductive Kind
  | tractor
  | trailer
deriving DecidableEq, Repr

/-- A vehicle's link state (R4). -/
inductive LinkState
  | off
  | waiting
  | acquiring
  | online
  | lost
deriving DecidableEq, Repr

/-- Direction memory (R4), coded as R178 gives. -/
inductive Direction
  | neutral
  | forward
  | reverse
deriving DecidableEq, Repr

/-- Forward-stop reasons (R4), coded from 1 in this order (R180). -/
inductive StopReason
  | entryClosed
  | exitClosed
  | marshalOnly
  | laneWait
  | trailFull
  | trailMiss
deriving DecidableEq, Repr

/-- The state of an attachment (R138). -/
inductive AttachState
  | tentative
  | confirmed
deriving DecidableEq, Repr

/-- The class of a binding (R45). -/
inductive DriverClass
  | driver
  | marshal
deriving DecidableEq, Repr

/-- A binding's target (R45) and a movement unit of the lanes (R82, R125) are named alike: a convoy or a vehicle. -/
inductive MoveUnit
  | convoy (c : ConvoyId)
  | vehicle (v : VehicleId)
deriving DecidableEq, Repr

/-! ## Vehicle Table (chapter 1) -/

/-- The five fields that together form a vehicle's assignment (R3). -/
structure Assignment where
  channel : Channel
  /-- Slot period P, 1 to 16. -/
  period : Nat
  /-- Slot pattern: flag k in bit k, clear at P and above. -/
  pattern : Half
  /-- Cycle divisor d: 1, 2 or 4. -/
  divisor : Nat
  /-- Cycle phase, 0 to d − 1. -/
  phase : Nat
deriving DecidableEq, Repr

/-- One entry of the Vehicle Table: the configuration fields of R3 and the state fields of R4. -/
structure Vehicle where
  valid : Bool
  kind : Kind
  /-- The active assignment. -/
  active : Assignment
  /-- The radio address, 1 to 254. -/
  address : Byte
  /-- A_up, 1 to 32. -/
  accelUp : Nat
  /-- A_down, 1 to 64. -/
  accelDown : Nat
  /-- Reversal dwell, 1 to 15 frames. -/
  dwell : Nat
  /-- Pulse span, 200 to 500 µs. -/
  span : Nat
  /-- Trim, −64 to +63 µs. -/
  trim : Int
  /-- Load class, 0 to 3. -/
  loadClass : Nat
  link : LinkState
  /-- Consecutive-miss count, 0 to 15. -/
  misses : Nat
  inTransit : Bool
  staged : Option Assignment
  current : Option Segment
  ahead : Option Segment
  battery : Option Byte
  fifthWheel : Bool
  kingpin : Bool
  rearHitch : Bool
  /-- Output speed O, −127 to +127. -/
  speed : Int
  direction : Direction
  /-- Zero-frame count z, 0 to 15. -/
  zeroFrames : Nat
  lastTurn : Turn
  stopReason : Option StopReason
  attachedBehind : Option (VehicleId × AttachState)
  convoy : Option ConvoyId
deriving DecidableEq, Repr

/-! ## Channel Units (chapter 2) -/

/-- The state of a channel (R22), in the coding order of R178. -/
inductive ChannelState
  | locking
  | testing
  | serving
  | relocking
  | failed
deriving DecidableEq, Repr

/-- The self-test result (R22). -/
inductive TestResult
  | notRun
  | pass
  | fail
deriving DecidableEq, Repr

/-- The self-test failure detail (R22, R25). -/
structure TestDetail where
  /-- Frame number, 1 to 8. -/
  frame : Nat
  /-- Byte index, 0 to 7. -/
  index : Nat
  expected : Byte
  received : Option Byte
deriving DecidableEq, Repr

/-- A direct frame in the housekeeping list (R22, R40). -/
structure DirectEntry where
  address : Byte
  /-- 1 to 8 bytes. -/
  payload : List Byte
  expectReply : Bool
  owned : Bool
deriving DecidableEq, Repr

/-- A poll subject: the channel and radio address of the vehicle whose coupler closed (R38). -/
structure PollSubject where
  channel : Channel
  address : Byte
deriving DecidableEq, Repr

/-- The telemetry of an acknowledgement (R34). -/
structure Ack where
  current : Option Segment
  ahead : Option Segment
  battery : Option Byte
  fifthWheel : Bool
  kingpin : Bool
  rearHitch : Bool
deriving DecidableEq, Repr

/-- A slot in flight on a channel (R32, R37). -/
inductive SlotFlight
  /-- A drive slot: the vehicle, the radio address and kind of its frame build, and the ack kept so far (R34). -/
  | drive (vehicle : VehicleId) (address : Byte) (kind : Kind) (ack : Option Ack)
  /-- An identification poll: the valid replies kept (at most two), whether a garbled frame was seen (R39), and whether its
  report still counts (R38: the report of a cancelled identification is discarded). -/
  | poll (subject : PollSubject) (replies : List Byte) (garbled : Bool) (counted : Bool)
  /-- A direct frame and the first valid response (R41). -/
  | direct (entry : DirectEntry) (response : Option (List Byte))
deriving DecidableEq, Repr

/-- What the Channel Unit last told its module (R23, R24, R25). -/
inductive ModuleCommand
  | acquire
  | loopback
  | run
deriving DecidableEq, Repr

/-- One Channel Unit: the channel record of R22 and what its rules keep between events. -/
structure ChannelUnit where
  state : ChannelState
  /-- Cycle counter, 0 to 3. -/
  counter : Nat
  /-- Lock attempt count, 0 to 255. -/
  attempts : Nat
  result : TestResult
  detail : Option TestDetail
  /-- Housekeeping direct frames, oldest first, at most two. -/
  direct : List DirectEntry
  pendingPoll : Option PollSubject
  /-- The lock limit in LOCKING or the relock limit in RELOCKING, when running: its expiry time (R23, R26). -/
  limit : Option Time
  /-- The send limit of the owned direct frame, when running: its expiry time (R40). -/
  sendLimit : Option Time
  /-- The loopback frame whose window is open in TESTING, 1 to 8 (R24); 0 before the first test. -/
  testFrame : Nat
  /-- The slot of the cycle in progress (R29). -/
  slot : SlotNo
  flight : Option SlotFlight
  moduleCommand : ModuleCommand
  /-- The bytes of the frame last sent on the port (R33, R181); none sent is the empty list. -/
  sent : List Byte
deriving DecidableEq, Repr

/-! ## Binding Table (chapter 3) -/

/-- The arming state of a binding (R45). -/
inductive BindState
  | empty
  | disarmed
  | armed
deriving DecidableEq, Repr

/-- The key, class and target of a binding, which are present together (R45, R48). -/
structure BindingTie where
  /-- The handset node, 16 to 63. -/
  node : Byte
  /-- The lever group, 0 to 3. -/
  group : Nat
  cls : DriverClass
  target : MoveUnit
deriving DecidableEq, Repr

/-- One entry of the Binding Table (R45). -/
structure Binding where
  state : BindState
  tie : Option BindingTie
  /-- Latest throttle, −127 to +127. -/
  throttle : Int
  turn : Turn
  aux : Half
  /-- The silence timer: none is STOPPED, some t is RUNNING with expiry time t (R53). -/
  timer : Option Time
deriving DecidableEq, Repr

/-! ## Convoy Engine (chapters 5 and 6) -/

/-- The state of a convoy (R79), in the coding order of R178. -/
inductive ConvoyState
  | free
  | forming
  | rolling
  | holdPending
  | holding
  | broken
deriving DecidableEq, Repr

/-- A measured gap (R80). -/
inductive Gap
  | absent
  | unknown
  | known (positions : Nat)
deriving DecidableEq, Repr

/-- One entry of a member list (R80). -/
structure Member where
  tractor : VehicleId
  gmin : Nat
  gmax : Nat
  gap : Gap
  cursor : Nat
deriving DecidableEq, Repr

/-- One entry of a route trail (R98). -/
structure TrailEntry where
  segment : Segment
  turn : Turn
deriving DecidableEq, Repr

/-- The break cause of a BROKEN convoy (R79). -/
inductive BreakCause
  | lost (v : VehicleId)
  | trailMiss (v : VehicleId)
deriving DecidableEq, Repr

/-- One convoy record (R79). -/
structure Convoy where
  state : ConvoyState
  /-- Lead first, at most eight. -/
  members : List Member
  /-- Oldest first, at most sixteen. -/
  trail : List TrailEntry
  holdRef : Option Segment
  cause : Option BreakCause
deriving DecidableEq, Repr

/-! ## Zone Map and Lane Arbiter (chapters 7 and 8) -/

/-- The road rules that a range, or the open road, gives its segments (R110, R111). -/
structure RoadRules where
  /-- Speed cap, 0 to 127. -/
  cap : Nat
  entry : Bool
  exit : Bool
  marshalOnly : Bool
  junction : Bool
  /-- Lane capacity, 0 to 3. -/
  capacity : Nat
deriving DecidableEq, Repr

/-- One zone range record (R110). -/
structure Range where
  valid : Bool
  first : Segment
  last : Segment
  rules : RoadRules
deriving DecidableEq, Repr

/-- A holder of a single-lane range (R125). -/
structure Holder where
  unit : MoveUnit
  entered : Bool
deriving DecidableEq, Repr

/-- The two lists of one range (R125). -/
structure Lane where
  /-- Oldest admission first, at most four. -/
  holders : List Holder
  /-- Oldest request first, at most eight. -/
  waiting : List MoveUnit
deriving DecidableEq, Repr

/-! ## Coupling Identifier (chapter 9) -/

/-- The identification in flight (R143, R144). -/
structure Identification where
  subject : VehicleId
  /-- Round number, 1 to 3. -/
  round : Nat
  /-- The polled channels that have not yet reported. -/
  awaiting : List Channel
  /-- The valid replies reported so far: the reporting channel and the replying address. -/
  replies : List (Channel × Byte)
  garbled : Bool
deriving DecidableEq, Repr

/-- The Coupling Identifier: its queue (the entry in flight keeps its place) and the identification in flight (R143). -/
structure Coupler where
  queue : List VehicleId
  ident : Option Identification
deriving DecidableEq, Repr

/-! ## Fault Unit (chapter 10) -/

/-- The fourteen fault classes in the order of their numbers (R151). -/
inductive FaultClass
  | linkCheck
  | unboundDrive
  | bindingSilent
  | vehicleLost
  | batteryLow
  | trailFull
  | trailMiss
  | couplePending
  | coupleUnresolved
  | zoneOverfull
  | channelUnlock
  | selftestFail
  | supplyLow
  | estop
deriving DecidableEq, Repr

/-- A latch's subject (R151). -/
inductive Subject
  | none
  | node (n : Byte)
  | binding (b : BindingId)
  | vehicle (v : VehicleId)
  | convoy (c : ConvoyId)
  | range (r : RangeId)
  | channel (c : Channel)
deriving DecidableEq, Repr

/-- What a block reports to the Fault Unit (R151). -/
structure Latch where
  cls : FaultClass
  subject : Subject
  segment : Option Segment
deriving DecidableEq, Repr

/-- The contents of a locked first-fault record (R154). -/
structure FaultRecord where
  latch : Latch
  time : Time
deriving DecidableEq, Repr

/-- The Fault Unit (R151 to R154). -/
structure FaultUnit where
  /-- Summary flags: flag k in bit k. -/
  summary : BitVec 14
  /-- The first-fault record: some is locked, none is unlocked and blank. -/
  record : Option FaultRecord
  multiple : Bool
  /-- The time counter (R152). -/
  time : Time
deriving DecidableEq, Repr

/-! ## LIMITS, Link Port and Management Queue (chapter 11) -/

/-- The capture filter (R154). -/
inductive CaptureFilter
  | all
  | severe
deriving DecidableEq, Repr

/-- The LIMITS record (R172). -/
structure Limits where
  reverseCap : Nat
  crawlCap : Nat
  unknownCap : Nat
  openCap : Nat
  /-- Silence timeout in milliseconds. -/
  silence : Nat
  /-- The lost threshold K. -/
  lostThreshold : Nat
  batteryFloor : Nat
  neutralBand : Nat
  alertNode : Nat
  /-- Alert enable: class k in bit k. -/
  alertEnable : BitVec 14
  filter : CaptureFilter
deriving DecidableEq, Repr

/-- A link frame without its frame check, which is computed when it is sent (R160, R179). -/
structure LinkFrame where
  destination : Byte
  source : Byte
  /-- The class code of R179. -/
  cls : Byte
  payload : List Byte
deriving DecidableEq, Repr

/-- The sampled claiming mode (R50, R51), in the coding order of R179. -/
inductive ClaimMode
  | through
  | last
deriving DecidableEq, Repr

/-- The Link Port (R161, R164). -/
structure LinkPort where
  /-- The sampled node address, 8 to 15. -/
  address : Byte
  mode : ClaimMode
  /-- The output queue, oldest first, at most eight. -/
  queue : List LinkFrame
  /-- The bytes of the frame whose sending began last, its frame check among them (R177, R179). -/
  sending : List Byte
deriving DecidableEq, Repr

/-- One entry of the Management Queue: the payload holds the command code, the tag and the arguments as received (R165). -/
structure MgmtEntry where
  source : Byte
  payload : List Byte
  broadcast : Bool
deriving DecidableEq, Repr

/-- The Management Queue (R165, R166). -/
structure MgmtQueue where
  /-- Oldest first, at most four. -/
  entries : List MgmtEntry
  /-- The head is in flight, and a reply place is reserved for it (R164). -/
  inFlight : Bool
deriving DecidableEq, Repr

/-! ## The whole block -/

/-- The state of the block. `freeCount` and `pending` are the model's own: how many free choices have been consulted, and
the commands that wait to be taken, first in, first out. -/
structure State where
  pins : Pins
  link : LinkPort
  mgmt : MgmtQueue
  bindings : Vector Binding 32
  vehicles : Vector Vehicle 64
  channels : Vector ChannelUnit 4
  convoys : Vector Convoy 12
  zones : Vector Range 32
  lanes : Vector Lane 32
  coupler : Coupler
  limits : Limits
  fault : FaultUnit
  freeCount : Nat
  pending : List Instr
deriving DecidableEq, Repr

/-- The ways a step can stop with a fault. The manual gives the block none: every condition is latched in the Fault Unit
and the block goes on, so no command of the model answers a fault. -/
inductive Fault
deriving DecidableEq, Repr

/-- The ways a step can be refused. -/
inductive Refusal
  /-- A row of the table that has no meaning yet; raised by an arm of `exec` alone, and safe. No arm raises it now. -/
  | notModelled (mnemonic : String)
deriving DecidableEq, Repr

/-! ## Values after a power-on reset -/

/-- The blank assignment: an empty slot set (R20). -/
def Assignment.blank : Assignment := ⟨.A, 1, 0, 1, 0⟩

/-- R20: every entry of the Vehicle Table after a power-on reset. -/
def Vehicle.blank : Vehicle where
  valid := false
  kind := .tractor
  active := .blank
  address := 1
  accelUp := 1
  accelDown := 1
  dwell := 1
  span := 200
  trim := 0
  loadClass := 0
  link := .off
  misses := 0
  inTransit := false
  staged := none
  current := none
  ahead := none
  battery := none
  fifthWheel := false
  kingpin := false
  rearHitch := false
  speed := 0
  direction := .neutral
  zeroFrames := 15
  lastTurn := .ahead
  stopReason := none
  attachedBehind := none
  convoy := none

/-- R60: every binding after a power-on reset; these are also the blank values of R48. -/
def Binding.blank : Binding := ⟨.empty, none, 0, .ahead, 0, none⟩

/-- R97: every convoy after a power-on reset, and every FREE convoy (R79). -/
def Convoy.blank : Convoy := ⟨.free, [], [], none, none⟩

/-- R124: every zone range after a power-on reset. -/
def Range.blank : Range := ⟨false, 0, 0, ⟨0, true, true, false, false, 0⟩⟩

/-- R137: both lists of every range after a power-on reset. -/
def Lane.blank : Lane := ⟨[], []⟩

/-- R44 and R23: every channel after a power-on reset has entered LOCKING at time 0, with the lock limit started and the
acquire command given. -/
def ChannelUnit.blank : ChannelUnit where
  state := .locking
  counter := 0
  attempts := 1
  result := .notRun
  detail := none
  direct := []
  pendingPoll := none
  limit := some (BitVec.ofNat 16 Config.lockLimit)
  sendLimit := none
  testFrame := 0
  slot := 0
  flight := none
  moduleCommand := .acquire
  sent := []

/-- R172, R173: the defaults of the LIMITS record. -/
def Limits.default : Limits := ⟨48, 24, 16, 100, 500, 6, 150, 4, 0, 0, .all⟩

/-- R159: the Fault Unit after a power-on reset. -/
def FaultUnit.blank : FaultUnit := ⟨0, none, false, 0⟩

/-- Every table, queue, channel and fault record at its power-on value with the given pin levels, the straps sampled
(R161, R51, R177). The assertion edges found at the end of the reset (R156) are not yet latched. -/
def State.powerOn (pins : Pins) : State where
  pins := pins
  link :=
    { address := 8 + pins.straps.setWidth 8
      mode := if pins.endStrap then .last else .through
      queue := []
      sending := [] }
  mgmt := ⟨[], false⟩
  bindings := Vector.replicate 32 .blank
  vehicles := Vector.replicate 64 .blank
  channels := Vector.replicate 4 .blank
  convoys := Vector.replicate 12 .blank
  zones := Vector.replicate 32 .blank
  lanes := Vector.replicate 32 .blank
  coupler := ⟨[], none⟩
  limits := .default
  fault := .blank
  freeCount := 0
  pending := []

/-- The pin levels that the model's reset state stands at: straps 0, THROUGH, both inputs released. The manual gives none
(assumption 2); POWER_ON_RESET takes every other level as its operand. -/
def resetPins : Pins := ⟨0, false, false, false⟩

/-- The block right after a power-on reset. -/
def State.reset : State := .powerOn resetPins

end Sys2Proof.Machine
end

