-- ==== Sys2Proof/Machine/Wire.lean ====
section
/-! DEFINITION. The codes, frame checks and byte layouts of chapter 12: what every value looks like on the link and on a
radio channel (R178 to R181). -/

namespace Sys2Proof.Machine

/-! ## Values and codes (R178) -/

/-- A two-byte value, high byte first (R178). -/
def twoBytes (h : Half) : List Byte := [h.extractLsb' 8 8, h.setWidth 8]

/-- The two-byte value of a high and a low byte (R178). -/
def halfOf (high low : Byte) : Half := high ++ low

/-- A count or an index as one byte. -/
def byteOf (n : Nat) : Byte := BitVec.ofNat 8 n

/-- A count as two bytes (R178). -/
def twoBytesOf (n : Nat) : List Byte := twoBytes (BitVec.ofNat 16 n)

/-- A speed, a throttle or a trim in two's complement (R178). -/
def signedByte (x : Int) : Byte := BitVec.ofInt 8 x

/-- A flag or yes/no byte as the router sends it: 0 is no. R178 lets any other value read as yes; that 1 is sent is the
model's choice (assumption 27). -/
def flagByte (b : Bool) : Byte := if b then 1 else 0

/-- A flag or yes/no byte as received: 0 is no, any other value yes (R178). -/
def flagOf (b : Byte) : Bool := b ≠ 0

/-- Flags packed from bit 0 up. The bits of a packed byte that no rule names are sent as 0, which is the model's choice
(assumption 28). -/
def packFlags : List Bool → Byte
  | [] => 0
  | b :: bs => flagByte b ||| (packFlags bs <<< 1)

/-- A segment as two bytes; 65535 stands for an absent one (R178). -/
def segmentBytes : Option Segment → List Byte
  | some s => twoBytesOf s.val
  | none => [255, 255]

/-- A received segment value: a segment, the absent value, or (none) neither (R34, R181). -/
def segmentOf (high low : Byte) : Option (Option Segment) :=
  let n := (halfOf high low).toNat
  if h : n < 1024 then some (some ⟨n, h⟩)
  else if n = 65535 then some none else none

/-- A segment value that must be present (R180: above 1023 is BAD_VALUE). -/
def presentSegmentOf (high low : Byte) : Option Segment :=
  let n := (halfOf high low).toNat
  if h : n < 1024 then some ⟨n, h⟩ else none

/-- The road of a segment, 0 to 15 (R1). -/
def Segment.road (s : Segment) : Nat := s.val / 64

/-- The position of a segment on its road, 0 to 63 (R1). -/
def Segment.position (s : Segment) : Nat := s.val % 64

/-- A channel index, 0 to 3 for A to D (R179). -/
def channelIndex : Channel → Fin 4
  | .A => 0
  | .B => 1
  | .C => 2
  | .D => 3

/-- The channels in index order. -/
def allChannels : List Channel := [.A, .B, .C, .D]

/-- The channel code byte. -/
def channelCode (c : Channel) : Byte := byteOf (channelIndex c).val

/-- The channel a code byte names (R3, R28). -/
def channelOf (b : Byte) : Option Channel := allChannels.find? (fun c => channelCode c = b)

/-- Turn codes (R178). -/
def Turn.code : Turn → Byte
  | .ahead => 0
  | .left => 1
  | .right => 2

/-- Kind codes (R178). -/
def Kind.code : Kind → Byte
  | .tractor => 0
  | .trailer => 1

/-- The kind a code byte names (R3). -/
def kindOf (b : Byte) : Option Kind :=
  if b = 0 then some .tractor else if b = 1 then some .trailer else none

/-- Link state codes (R178). -/
def LinkState.code : LinkState → Byte
  | .off => 0
  | .waiting => 1
  | .acquiring => 2
  | .online => 3
  | .lost => 4

/-- Direction memory codes (R178). -/
def Direction.code : Direction → Byte
  | .neutral => 0
  | .forward => 1
  | .reverse => 2

/-- Forward-stop reason codes, from 1 (R180); an absent reason is sent as 0. -/
def StopReason.code : StopReason → Byte
  | .entryClosed => 1
  | .exitClosed => 2
  | .marshalOnly => 3
  | .laneWait => 4
  | .trailFull => 5
  | .trailMiss => 6

/-- Attachment state codes (R180). -/
def AttachState.code : AttachState → Byte
  | .tentative => 0
  | .confirmed => 1

/-- Class codes of a binding (R178). -/
def DriverClass.code : DriverClass → Byte
  | .driver => 0
  | .marshal => 1

/-- The class a code byte names (R47). -/
def driverClassOf (b : Byte) : Option DriverClass :=
  if b = 0 then some .driver else if b = 1 then some .marshal else none

/-- The kind byte of a target or a movement unit: CONVOY 0, VEHICLE 1 (R178). -/
def MoveUnit.kindCode : MoveUnit → Byte
  | .convoy _ => 0
  | .vehicle _ => 1

/-- The index byte of a target or a movement unit. -/
def MoveUnit.indexByte : MoveUnit → Byte
  | .convoy c => byteOf c.val
  | .vehicle v => byteOf v.val

/-- The vehicle an index byte names (R83, R148). -/
def vehicleOf (b : Byte) : Option VehicleId :=
  if h : b.toNat < 64 then some ⟨b.toNat, h⟩ else none

/-- The convoy an index byte names (R83). -/
def convoyOf (b : Byte) : Option ConvoyId :=
  if h : b.toNat < 12 then some ⟨b.toNat, h⟩ else none

/-- The range an index byte names (R135). -/
def rangeOf (b : Byte) : Option RangeId :=
  if h : b.toNat < 32 then some ⟨b.toNat, h⟩ else none

/-- The target or unit that a kind byte and an index byte name (R47, R135). -/
def moveUnitOf (kind index : Byte) : Option MoveUnit :=
  if kind = 0 then (convoyOf index).map .convoy
  else if kind = 1 then (vehicleOf index).map .vehicle
  else none

/-- Binding state codes, in list order (R178). -/
def BindState.code : BindState → Byte
  | .empty => 0
  | .disarmed => 1
  | .armed => 2

/-- Convoy state codes (R178). -/
def ConvoyState.code : ConvoyState → Byte
  | .free => 0
  | .forming => 1
  | .rolling => 2
  | .holdPending => 3
  | .holding => 4
  | .broken => 5

/-- Channel state codes (R178). -/
def ChannelState.code : ChannelState → Byte
  | .locking => 0
  | .testing => 1
  | .serving => 2
  | .relocking => 3
  | .failed => 4

/-- Self-test result codes, in list order (R178). -/
def TestResult.code : TestResult → Byte
  | .notRun => 0
  | .pass => 1
  | .fail => 2

/-- A gap byte: 0–63, 254 UNKNOWN, 255 absent (R180). -/
def Gap.byte : Gap → Byte
  | .known n => byteOf n
  | .unknown => 254
  | .absent => 255

/-- Claiming mode codes (R179). -/
def ClaimMode.code : ClaimMode → Byte
  | .through => 0
  | .last => 1

/-- Capture filter codes (R180). -/
def CaptureFilter.code : CaptureFilter → Byte
  | .all => 0
  | .severe => 1

/-- The reply statuses of R167, coded in that order (R179). -/
inductive ReplyStatus
  | ok
  | part
  | refused
  | retry
  | unknownCommand
  | malformed
  | timeout
  | failed
  | notReady
deriving DecidableEq, Repr

/-- Reply status codes (R179). -/
def ReplyStatus.code : ReplyStatus → Byte
  | .ok => 0
  | .part => 1
  | .refused => 2
  | .retry => 3
  | .unknownCommand => 4
  | .malformed => 5
  | .timeout => 6
  | .failed => 7
  | .notReady => 8

/-- The refusal reasons of R167; `none` where a reply names no reason. -/
inductive Reason
  | none
  | outOfRange
  | inUse
  | notReady
  | duplicate
  | overlap
  | collision
  | badValue
  | wrongState
  | full
  | notFound
deriving DecidableEq, Repr

/-- Reason codes (R179). -/
def Reason.code : Reason → Byte
  | .none => 0
  | .outOfRange => 1
  | .inUse => 2
  | .notReady => 3
  | .duplicate => 4
  | .overlap => 5
  | .collision => 6
  | .badValue => 7
  | .wrongState => 8
  | .full => 9
  | .notFound => 10

/-- The number of a fault class (R151). -/
def FaultClass.number : FaultClass → Fin 14
  | .linkCheck => 0
  | .unboundDrive => 1
  | .bindingSilent => 2
  | .vehicleLost => 3
  | .batteryLow => 4
  | .trailFull => 5
  | .trailMiss => 6
  | .couplePending => 7
  | .coupleUnresolved => 8
  | .zoneOverfull => 9
  | .channelUnlock => 10
  | .selftestFail => 11
  | .supplyLow => 12
  | .estop => 13

/-- A subject's kind byte and index byte (R179). -/
def Subject.bytes : Subject → List Byte
  | .none => [0, 0]
  | .node n => [1, n]
  | .binding b => [2, byteOf b.val]
  | .vehicle v => [3, byteOf v.val]
  | .convoy c => [4, byteOf c.val]
  | .range r => [5, byteOf r.val]
  | .channel c => [6, channelCode c]

/-! ## Link frames (R179) -/

/-- Class codes of link frames (R179). -/
def classDrive : Byte := 1
@[inherit_doc classDrive] def classAux : Byte := 2
@[inherit_doc classDrive] def classMgmt : Byte := 3
@[inherit_doc classDrive] def classReply : Byte := 4
@[inherit_doc classDrive] def classAlert : Byte := 5
@[inherit_doc classDrive] def classUnbound : Byte := 6

/-- One bit of the link frame check: shift left, and combine with 4129 when the bit shifted out differs from the data bit
(R179). -/
def linkCheckBit (check : Half) (bit : Bool) : Half :=
  if check.msb ≠ bit then (check <<< 1) ^^^ 4129 else check <<< 1

/-- The bits of a byte, high bit first (R179, R181). -/
def bitsHighFirst (b : Byte) : List Bool := [7, 6, 5, 4, 3, 2, 1, 0].map b.getLsbD

/-- The link frame check over header and payload, starting from 65535 (R179). -/
def linkCheck (bytes : List Byte) : Half :=
  bytes.foldl (fun check b => (bitsHighFirst b).foldl linkCheckBit check) 65535

/-- Header and payload of a link frame (R179). -/
def LinkFrame.body (f : LinkFrame) : List Byte :=
  [f.destination, f.source, f.cls, byteOf f.payload.length] ++ f.payload

/-- A link frame as its bytes go out on the link (R179). -/
def LinkFrame.encode (f : LinkFrame) : List Byte := f.body ++ twoBytes (linkCheck f.body)

/-- The frame that received bytes hold, or none when they fail their frame check by one of the four cases of R162. -/
def LinkFrame.parse (bytes : List Byte) : Option LinkFrame :=
  match bytes with
  | d :: s :: c :: n :: rest =>
    let payload := rest.take (rest.length - 2)
    if rest.length < 2 ∨ payload.length ≠ n.toNat ∨ 128 < n.toNat then none
    else if rest.drop (rest.length - 2) = twoBytes (linkCheck (d :: s :: c :: n :: payload)) then
      some ⟨d, s, c, payload⟩
    else none
  | _ => none

/-- The bytes of a link frame as received: its header, its payload and its frame check, high byte first (R179). -/
def linkBytes (header : LinkHeader) (payload : List Byte) (check : Half) : List Byte :=
  [header.destination, header.source, header.cls, header.length] ++ payload ++ twoBytes check

/-- The frame that received bytes hold, where they pass their frame check and its class byte is the given code (R163, R179). -/
def LinkFrame.ofClass (cls : Byte) (bytes : List Byte) : Option LinkFrame :=
  (LinkFrame.parse bytes).filter (fun f => f.cls = cls)

/-- The subject of a LINK_CHECK latch: the source node when the header is readable and names one, else NONE (R162). -/
def linkCheckSubject (bytes : List Byte) : Subject :=
  match bytes with
  | _ :: s :: _ :: _ :: _ => if s.toNat ≤ 63 then .node s else .none
  | _ => .none

/-! ## Radio frames (R181) -/

/-- One bit of the radio frame check (R181). -/
def radioCheckBit (check : Byte) (bit : Bool) : Byte :=
  if check.msb ≠ bit then (check <<< 1) ^^^ 7 else check <<< 1

/-- The radio frame check, starting from 0 (R181). -/
def radioCheck (bytes : List Byte) : Byte :=
  bytes.foldl (fun check b => (bitsHighFirst b).foldl radioCheckBit check) 0

/-- The radio frames of R181. -/
inductive RadioFrame
  | drive (address : Byte) (pulse : Half) (turn : Byte) (aux : Half)
  | ack (address marker : Byte) (current ahead : Option Segment) (coupler battery : Byte)
  | identPoll (channel address : Byte)
  | identReply (channel address own : Byte)
  | direct (address : Byte) (payload : List Byte)
  | directResponse (source : Byte) (payload : List Byte)
deriving DecidableEq, Repr

/-- The bytes of a radio frame before its check (R181). -/
def RadioFrame.body : RadioFrame → List Byte
  | .drive a p t x => [1, a] ++ twoBytes p ++ [t] ++ twoBytes x
  | .ack a m c h k b => [2, a, m] ++ segmentBytes c ++ segmentBytes h ++ [k, b]
  | .identPoll c a => [3, c, a]
  | .identReply c a o => [4, c, a, o]
  | .direct a p => [5, a, byteOf p.length] ++ p
  | .directResponse a p => [6, a, byteOf p.length] ++ p

/-- A radio frame as its bytes go out on the channel (R181). -/
def RadioFrame.encode (f : RadioFrame) : List Byte := f.body ++ [radioCheck f.body]

/-- The frame that bytes before the check spell: type, length and segment values must agree (R181, R34). -/
def RadioFrame.ofBody : List Byte → Option RadioFrame
  | [] => none
  | t :: rest =>
    if t = 1 then
      match rest with
      | [a, ph, pl, turn, xh, xl] => some (.drive a (halfOf ph pl) turn (halfOf xh xl))
      | _ => none
    else if t = 2 then
      match rest with
      | [a, m, ch, cl, ah, al, k, b] =>
        match segmentOf ch cl, segmentOf ah al with
        | some c, some h => some (.ack a m c h k b)
        | _, _ => none
      | _ => none
    else if t = 3 then
      match rest with
      | [c, a] => some (.identPoll c a)
      | _ => none
    else if t = 4 then
      match rest with
      | [c, a, o] => some (.identReply c a o)
      | _ => none
    else if t = 5 then
      match rest with
      | a :: n :: p => if p.length = n.toNat ∧ 1 ≤ n.toNat ∧ n.toNat ≤ 8 then some (.direct a p) else none
      | _ => none
    else if t = 6 then
      match rest with
      | a :: n :: p => if p.length = n.toNat ∧ n.toNat ≤ 8 then some (.directResponse a p) else none
      | _ => none
    else none

/-- The frame that received bytes hold when they pass the radio frame check and agree in type and length (R181). -/
def RadioFrame.parse (bytes : List Byte) : Option RadioFrame :=
  match bytes.getLast? with
  | some c => if radioCheck bytes.dropLast = c then RadioFrame.ofBody bytes.dropLast else none
  | none => none

/-- The telemetry of an acknowledgement sent by a vehicle of the given kind: coupler bits that the kind does not report
are not read, and the battery byte is read only when bit 3 is set (R181). -/
def ackTelemetry (kind : Kind) (current ahead : Option Segment) (coupler battery : Byte) : Ack where
  current := current
  ahead := ahead
  battery := if coupler.getLsbD 3 then some battery else none
  fifthWheel := kind = .tractor && coupler.getLsbD 0
  kingpin := kind = .trailer && coupler.getLsbD 1
  rearHitch := kind = .trailer && coupler.getLsbD 2

/-- Loopback frame k carries the bytes 8·(k−1) + i, with neither type nor check (R24, R181). -/
def loopbackFrame (k : Nat) : List Byte := (List.range 8).map (fun i => byteOf (8 * (k - 1) + i))

end Sys2Proof.Machine
end

