-- ==== Sys2Proof/Machine/Ops.lean ====
section
/-! DEFINITION. The named operations over the block's tables and queues: one accessor and one update for each table, the
output queue with its reserved place (R164), and the Management Queue's head and its replies (R165 to R168). -/

namespace Sys2Proof.Machine

/-! ## Tables -/

/-- The indices of a table of n entries, in order. -/
def indices (n : Nat) : List (Fin n) := List.finRange n

/-- Entry V of the Vehicle Table. -/
def State.vehicle (s : State) (v : VehicleId) : Vehicle := s.vehicles[v]

/-- Entry B of the Binding Table. -/
def State.binding (s : State) (b : BindingId) : Binding := s.bindings[b]

/-- Entry C of the Convoy Engine. -/
def State.convoy (s : State) (c : ConvoyId) : Convoy := s.convoys[c]

/-- Entry Z of the Zone Map. -/
def State.zone (s : State) (r : RangeId) : Range := s.zones[r]

/-- The lists of range Z. -/
def State.lane (s : State) (r : RangeId) : Lane := s.lanes[r]

/-- The Channel Unit of a channel. -/
def State.channel (s : State) (c : Channel) : ChannelUnit := s.channels[channelIndex c]

def State.setVehicle (s : State) (v : VehicleId) (x : Vehicle) : State := { s with vehicles := s.vehicles.set v x }

def State.setBinding (s : State) (b : BindingId) (x : Binding) : State := { s with bindings := s.bindings.set b x }

def State.setConvoy (s : State) (c : ConvoyId) (x : Convoy) : State := { s with convoys := s.convoys.set c x }

def State.setZone (s : State) (r : RangeId) (x : Range) : State := { s with zones := s.zones.set r x }

def State.setLane (s : State) (r : RangeId) (x : Lane) : State := { s with lanes := s.lanes.set r x }

def State.setChannel (s : State) (c : Channel) (x : ChannelUnit) : State :=
  { s with channels := s.channels.set (channelIndex c) x }

/-- Every vehicle record changed by a function of its own index and record. -/
def State.mapVehicles (s : State) (f : VehicleId → Vehicle → Vehicle) : State :=
  { s with vehicles := s.vehicles.mapFinIdx (fun i x h => f ⟨i, h⟩ x) }

/-- Every binding changed by a function of its record. -/
def State.mapBindings (s : State) (f : Binding → Binding) : State :=
  { s with bindings := s.bindings.mapFinIdx (fun _ x _ => f x) }

/-- Every convoy changed by a function of its record. -/
def State.mapConvoys (s : State) (f : Convoy → Convoy) : State :=
  { s with convoys := s.convoys.mapFinIdx (fun _ x _ => f x) }

/-- Every range's lists changed by a function of its index and lists. -/
def State.mapLanes (s : State) (f : RangeId → Lane → Lane) : State :=
  { s with lanes := s.lanes.mapFinIdx (fun i x h => f ⟨i, h⟩ x) }

/-- Every Channel Unit changed by a function of its record. -/
def State.mapChannels (s : State) (f : ChannelUnit → ChannelUnit) : State :=
  { s with channels := s.channels.mapFinIdx (fun _ x _ => f x) }

/-- The channel is SERVING (R22). -/
def State.serving (s : State) (c : Channel) : Bool := (s.channel c).state = .serving

/-- The time counter's value a number of milliseconds from now (R53, R23; assumption 5). -/
def State.after (s : State) (ms : Nat) : Time := s.fault.time + BitVec.ofNat 16 ms

/-- The time counter has come to a time or passed it: it lies less than half the counter's range ahead of that time, and no
timer runs longer than 2000 ms (R152, R53; assumption 5). -/
def State.reached (s : State) (t : Time) : Bool := (s.fault.time - t).toNat < 32768

/-- The expiry time of a running timer or limit has been reached (R23, R26, R42, R54; assumption 5). -/
def State.expired (s : State) : Option Time → Bool
  | some t => s.reached t
  | none => false

/-! ## Output queue (R164) -/

/-- The places reserved: one while the head of the Management Queue is in flight (R164). -/
def State.reserved (s : State) : Nat := if s.mgmt.inFlight then 1 else 0

/-- The frames the output queue holds, a reserved place counted as one (R164). -/
def State.outCount (s : State) : Nat := s.link.queue.length + s.reserved

/-- A frame joins the end of the output queue. -/
def State.appendFrame (s : State) (f : LinkFrame) : State :=
  { s with link := { s.link with queue := s.link.queue ++ [f] } }

/-- A frame joins the output queue unless that, with the given number of reserved places, holds eight: then it is dropped
(R164, R155). -/
def State.offerFrame (reserved : Nat) (s : State) (f : LinkFrame) : State :=
  if s.link.queue.length + reserved < 8 then s.appendFrame f else s

/-! ## Management Queue (R165 to R168) -/

/-- The command code a payload carries, or 0 when it is empty (R167). -/
def codeOf (payload : List Byte) : Byte := payload.headD 0

/-- The tag a payload carries, or 0 when it holds no whole code and tag (R167). -/
def tagOf (payload : List Byte) : Byte :=
  match payload with
  | _ :: t :: _ => t
  | _ => 0

/-- What a command is answered: status, reason and reply data (R167, R168). -/
structure Answer where
  status : ReplyStatus
  reason : Reason := .none
  data : List Byte := []
deriving DecidableEq, Repr

/-- The REPLY frame of a payload from a source, with the router's own address as source (R168, R179). -/
def State.replyTo (s : State) (source : Byte) (payload : List Byte) (a : Answer) : LinkFrame where
  destination := source
  source := s.link.address
  cls := classReply
  payload := [codeOf payload, tagOf payload, a.status.code, a.reason.code] ++ a.data

/-- The head of the Management Queue when it can be executed: it is not in flight, and the output queue holds fewer than
eight frames or the head is broadcast (R166). -/
def State.ready (s : State) : Option MgmtEntry :=
  match s.mgmt.entries with
  | [] => none
  | e :: _ => if s.mgmt.inFlight = false ∧ (s.outCount < 8 ∨ e.broadcast = true) then some e else none

/-- The executable head and its argument bytes, when its whole command code is the given one. -/
def State.readyFor (s : State) (code : Byte) : Option (MgmtEntry × List Byte) :=
  match s.ready with
  | some e =>
    match e.payload with
    | c :: _ :: args => if c = code then some (e, args) else none
    | _ => none
  | none => none

/-- The head leaves the Management Queue. -/
def State.popHead (s : State) : State := { s with mgmt := { s.mgmt with entries := s.mgmt.entries.tail } }

/-- The head goes in flight, and a reply place is reserved (R166, R164). -/
def State.headGoesInFlight (s : State) : State := { s with mgmt := { s.mgmt with inFlight := true } }

/-- The result of an event before its latches are taken: the state, a reply that is due, and the latches each block makes,
in the order that block makes them. -/
structure Work where
  state : State
  reply : Option LinkFrame := none
  latches : List (List Latch) := []
deriving DecidableEq, Repr

/-- The head in flight is a command of the given code. -/
def State.inFlightCode (s : State) (code : Byte) : Bool :=
  s.mgmt.inFlight && (match s.mgmt.entries with
    | e :: _ => codeOf e.payload = code
    | [] => false)

/-- The command in flight is answered: its reservation ends, it leaves the queue, and its reply is made (R164, R166).
Nothing happens where the head in flight has another code. -/
def State.answerInFlight (s : State) (code : Byte) (a : Answer) : Work :=
  match s.mgmt.entries with
  | e :: rest =>
    if s.inFlightCode code then
      { state := { s with mgmt := ⟨rest, false⟩ }, reply := some (s.replyTo e.source e.payload a) }
    else { state := s }
  | [] => { state := s }

/-- What a command that is answered at once has done. None of them latches anything itself (R56, R83, R135, R148, R158,
R159, R171); the latches are those of an identification that starts and fails within it (R146, assumption 11). -/
structure Done where
  state : State
  answer : Answer
  latches : List Latch := []
deriving DecidableEq, Repr

/-- Answered OK with reply data. -/
def Done.ok (s : State) (data : List Byte := []) : Done := { state := s, answer := { status := .ok, data := data } }

/-- REFUSED with a reason: nothing changes (R167). -/
def Done.refused (s : State) (r : Reason) : Done := { state := s, answer := { status := .refused, reason := r } }

/-- MALFORMED: nothing changes (R167). -/
def Done.malformed (s : State) : Done := { state := s, answer := { status := .malformed } }

/-- A command answered at once leaves the queue with its reply; a broadcast one leaves with no reply (R166). -/
def Done.finish (e : MgmtEntry) (d : Done) : Work where
  state := d.state.popHead
  reply := if e.broadcast then none else some (d.state.replyTo e.source e.payload d.answer)
  latches := [d.latches]

/-! ## Command codes (R179) -/

/-- Command codes of R179. -/
def codeNop : Byte := 0
@[inherit_doc codeNop] def codeStatus : Byte := 1
@[inherit_doc codeNop] def codeRead : Byte := 2
@[inherit_doc codeNop] def codeWrite : Byte := 3
@[inherit_doc codeNop] def codeConvoyForm : Byte := 16
@[inherit_doc codeNop] def codeConvoyAdd : Byte := 17
@[inherit_doc codeNop] def codeConvoyRemove : Byte := 18
@[inherit_doc codeNop] def codeConvoyHold : Byte := 19
@[inherit_doc codeNop] def codeConvoyResume : Byte := 20
@[inherit_doc codeNop] def codeConvoyDisband : Byte := 21
@[inherit_doc codeNop] def codeZoneRelease : Byte := 24
@[inherit_doc codeNop] def codeCoupleConfirm : Byte := 26
@[inherit_doc codeNop] def codeCoupleReject : Byte := 27
@[inherit_doc codeNop] def codeDirectSend : Byte := 32
@[inherit_doc codeNop] def codeChannelRestart : Byte := 33
@[inherit_doc codeNop] def codeFaultRead : Byte := 48
@[inherit_doc codeNop] def codeFaultClear : Byte := 49
@[inherit_doc codeNop] def codeStopAll : Byte := 62
@[inherit_doc codeNop] def codeRestart : Byte := 63

/-- The codes that name a command (R179). -/
def commandCodes : List Byte :=
  [codeNop, codeStatus, codeRead, codeWrite, codeConvoyForm, codeConvoyAdd, codeConvoyRemove, codeConvoyHold,
   codeConvoyResume, codeConvoyDisband, codeZoneRelease, codeCoupleConfirm, codeCoupleReject, codeDirectSend,
   codeChannelRestart, codeFaultRead, codeFaultClear, codeStopAll, codeRestart]

end Sys2Proof.Machine
end

