-- ==== Sys2Proof/Machine/Flags.lean ====
section
/-! DEFINITION. Every flag computation of the Fault Unit: a latch's effect on the summary flags, the first-fault record and
the multiple flag (R153, R154), the alert it may send (R155), and how the latches of one event are taken one after
another (R151). -/

namespace Sys2Proof.Machine

/-- The class is marked severe (R151). -/
def FaultClass.severe : FaultClass → Bool
  | .linkCheck => false
  | .unboundDrive => false
  | .bindingSilent => false
  | .vehicleLost => true
  | .batteryLow => false
  | .trailFull => false
  | .trailMiss => true
  | .couplePending => false
  | .coupleUnresolved => false
  | .zoneOverfull => false
  | .channelUnlock => true
  | .selftestFail => true
  | .supplyLow => true
  | .estop => true

/-- The class passes the capture filter (R154). -/
def CaptureFilter.passes (f : CaptureFilter) (k : FaultClass) : Bool :=
  match f with
  | .all => true
  | .severe => k.severe

/-- The class's bit in a set of classes (R178). -/
def FaultClass.bit (k : FaultClass) : BitVec 14 := BitVec.twoPow 14 k.number.val

/-- The summary flag of the class is set. -/
def FaultUnit.flag (u : FaultUnit) (k : FaultClass) : Bool := u.summary.getLsbD k.number.val

/-- A latch in the Fault Unit: its summary flag becomes set (R153); an unlocked record captures a class that passes the
filter, and a locked record is kept while the multiple flag becomes set (R154). -/
def FaultUnit.take (u : FaultUnit) (filter : CaptureFilter) (l : Latch) : FaultUnit where
  summary := u.summary ||| l.cls.bit
  record :=
    match u.record with
    | some r => some r
    | none => if filter.passes l.cls then some ⟨l, u.time⟩ else none
  multiple := u.multiple || u.record.isSome
  time := u.time

/-- A latch of this class is to send an alert: its flag was clear, its alert enable is on and the alert node is not 0
(R153). -/
def State.alertDue (s : State) (k : FaultClass) : Bool :=
  !s.fault.flag k && s.limits.alertEnable.getLsbD k.number.val && (s.limits.alertNode != 0)

/-- The summary flags as two bytes (R179). -/
def summaryBytes (summary : BitVec 14) : List Byte := twoBytes (summary.setWidth 16)

/-- The ALERT frame of a latch, with the summary flags as they stand after R153 (R155). -/
def State.alertFrame (s : State) (l : Latch) : LinkFrame where
  destination := byteOf s.limits.alertNode
  source := s.link.address
  cls := classAlert
  payload := [byteOf l.cls.number.val] ++ l.subject.bytes ++ summaryBytes (s.fault.summary ||| l.cls.bit)

/-- One latch taken whole by the Fault Unit; the alert frame, if any, is handed out (R151, R153, R154). -/
def State.takeLatch (s : State) (l : Latch) : State × Option LinkFrame :=
  ({ s with fault := s.fault.take s.limits.filter l }, if s.alertDue l.cls then some (s.alertFrame l) else none)

/-- Latches taken one after another, with the alert frames in the order of their latches (R155). -/
def takeLatches : List Latch → State → State × List LinkFrame
  | [], s => (s, [])
  | l :: ls, s =>
    let (s1, a) := s.takeLatch l
    let (s2, as) := takeLatches ls s1
    (s2, a.toList ++ as)

/-- The blocks of latches that are not empty. -/
def liveBlocks (blocks : List (List Latch)) : List (List Latch) := blocks.filter (fun b => !b.isEmpty)

/-- One order in which the latches of an event may be taken: each block's own order is kept, and between blocks the next
one is a free choice (R151, assumption 1). Where one block alone has latches there is nothing to choose. The second
component counts the choices consulted. -/
def orderLatches : Nat → Nat → List (List Latch) → List Latch × Nat
  | 0, count, blocks => (blocks.flatten, count)
  | fuel + 1, count, blocks =>
    match liveBlocks blocks with
    | [] => ([], count)
    | [b] => (b, count)
    | b :: bs =>
      let all := b :: bs
      let k := Config.freeChoice count % all.length
      match all[k]? with
      | some (l :: rest) =>
        let (ls, n) := orderLatches fuel (count + 1) (all.set k rest)
        (l :: ls, n)
      | _ => (all.flatten, count)

/-- The alerts of an event, and its reply if one is due, join the output queue. An alert that finds it full is dropped
(R155); a reply has its place kept (R164), and where it falls among the alerts of its own event is a free choice
(assumption 1). -/
def State.emit (s : State) (reply : Option LinkFrame) (alerts : List LinkFrame) : State :=
  match reply, alerts with
  | none, alerts => alerts.foldl (State.offerFrame s.reserved) s
  | some r, [] => s.appendFrame r
  | some r, a :: as =>
    let alerts := a :: as
    let k := Config.freeChoice s.freeCount % (alerts.length + 1)
    let before := (alerts.take k).foldl (State.offerFrame (s.reserved + 1)) { s with freeCount := s.freeCount + 1 }
    (alerts.drop k).foldl (State.offerFrame s.reserved) (before.appendFrame r)

/-- The end of an event: its latches are taken, and its frames join the output queue. -/
def Work.settle (w : Work) : State :=
  let (ls, n) := orderLatches w.latches.flatten.length w.state.freeCount w.latches
  let (s, alerts) := takeLatches ls { w.state with freeCount := n }
  s.emit w.reply alerts

/-- One pick among n ≥ 1 things of one event that may be taken in any order; no choice is consulted for one thing
(assumption 1). -/
def State.pick (s : State) (n : Nat) : Nat × State :=
  if n ≤ 1 then (0, s) else (Config.freeChoice s.freeCount % n, { s with freeCount := s.freeCount + 1 })

/-- A command answered at once: it is executed when it is the executable head, and otherwise this step changes nothing
(R166, assumption 4). -/
def atOnce (code : Byte) (run : List Byte → State → Done) (s : State) : State :=
  match s.readyFor code with
  | some (e, args) => ((run args s).finish e).settle
  | none => s

end Sys2Proof.Machine
end

