-- ==== Sys2Proof/Machine/Zones.lean ====
section
/-! DEFINITION. The Zone Map's answers (chapter 7): lookup, zone cap terms and crossing reasons. It keeps no state of its
own, and answering changes nothing (R113, R114). -/

namespace Sys2Proof.Machine

/-- The range covers the segment (R110, R112). -/
def Range.covers (r : Range) (s : Segment) : Bool := r.valid && r.first.val ≤ s.val && s.val ≤ r.last.val

/-- The range is single-lane (R110). -/
def Range.singleLane (r : Range) : Bool := r.valid && 1 ≤ r.rules.capacity

/-- The range of a segment: the valid range that covers it, or none for OPEN (R112). -/
def State.lookup (s : State) (seg : Segment) : Option RangeId :=
  (indices 32).find? (fun r => (s.zone r).covers seg)

/-- The open-road record: everything permitted, with the LIMITS open-road cap (R111). -/
def State.openRoad (s : State) : RoadRules := ⟨s.limits.openCap, true, true, false, false, 0⟩

/-- The rules of a lookup result (R111, R113). -/
def State.rulesOf (s : State) : Option RangeId → RoadRules
  | some r => (s.zone r).rules
  | none => s.openRoad

/-- The lookup result of a segment that may be absent: an absent one counts as OPEN (R119). -/
def State.lookupOf (s : State) (seg : Option Segment) : Option RangeId := seg.bind s.lookup

/-- The segment is present and is a junction segment (R98). -/
def State.isJunction (s : State) : Option Segment → Bool
  | some g => (s.rulesOf (s.lookup g)).junction
  | none => false

/-- The segment is present and lies in range r (R112); an absent segment lies in no range. -/
def State.liesIn (s : State) (seg : Option Segment) (r : RangeId) : Bool := s.lookupOf seg = some r

/-- The single-lane range that the segment lies in, if any (R113). -/
def State.laneRangeOf (s : State) (seg : Option Segment) : Option RangeId :=
  match s.lookupOf seg with
  | some r => if (s.zone r).singleLane then some r else none
  | none => none

/-- The holders that a grant may bring the range to (R129): its lane capacity while it is valid. -/
def State.laneCapacity (s : State) (r : RangeId) : Nat := if (s.zone r).valid then (s.zone r).rules.capacity else 0

/-- The zone cap of a frame (R69, R118). -/
def State.zoneCap (s : State) (current ahead : Option Segment) : Nat :=
  let here :=
    match current with
    | some c => (s.rulesOf (s.lookup c)).cap
    | none => s.limits.unknownCap
  match ahead with
  | some a => min here (s.rulesOf (s.lookup a)).cap
  | none => here

/-- The ahead segment is present and lies in another range than the current one, an absent current segment counting as
OPEN: a crossing is judged (R119, R68). -/
def State.crosses (s : State) (current ahead : Option Segment) : Bool :=
  ahead.isSome && s.lookupOf ahead ≠ s.lookupOf current

/-- The Zone Map's reason for the crossing from the current to the ahead segment, under a controlling class (R119, R120). -/
def State.crossingReason (s : State) (current ahead : Option Segment) (cls : DriverClass) : Option StopReason :=
  if s.crosses current ahead then
    let a := s.rulesOf (s.lookupOf ahead)
    let c := s.rulesOf (s.lookupOf current)
    if !a.entry then some .entryClosed
    else if !c.exit then some .exitClosed
    else if a.marshalOnly && !c.marshalOnly && cls = .driver then some .marshalOnly
    else none
  else none

end Sys2Proof.Machine
end

