-- ==== Sys2Proof/Machine/Demand.lean ====
section
/-! DEFINITION. Units, chains and what the Binding Table hands to the Speed Shaper (R57 to R59, R65, R82, R138). -/

namespace Sys2Proof.Machine

/-! ## Units (R82) -/

/-- The unit of a tractor: its convoy when it is a member, else the tractor itself (R82). -/
def State.unitOf (s : State) (v : VehicleId) : MoveUnit :=
  match (s.vehicle v).convoy with
  | some c => .convoy c
  | none => .vehicle v

/-- The tractors of a unit (R82). -/
def State.unitMembers (s : State) : MoveUnit → List VehicleId
  | .convoy c => (s.convoy c).members.map Member.tractor
  | .vehicle v => [v]

/-- The vehicle is the lead of a convoy's member list (R80). -/
def Convoy.isLead (c : Convoy) (v : VehicleId) : Bool := (c.members.head?.map Member.tractor) = some v

/-- The vehicle is its unit's lead, or is solo (R126). -/
def State.leadsUnit (s : State) (v : VehicleId) : Bool :=
  match (s.vehicle v).convoy with
  | some c => (s.convoy c).isLead v
  | none => true

/-- The member entry of a vehicle in a convoy. -/
def Convoy.member? (c : Convoy) (v : VehicleId) : Option Member := c.members.find? (fun m => m.tractor = v)

/-! ## Strings and chains (R138) -/

/-- The vehicle attached behind a vehicle, if any (R4: read from the other record). -/
def State.behind (s : State) (v : VehicleId) : Option VehicleId :=
  (indices 64).find? (fun w => ((s.vehicle w).attachedBehind.map Prod.fst) = some v)

/-- The foremost vehicle of the string, by at most n links forward. -/
def State.foremostBy (s : State) : Nat → VehicleId → VehicleId
  | 0, v => v
  | n + 1, v =>
    match (s.vehicle v).attachedBehind with
    | some (f, _) => s.foremostBy n f
    | none => v

/-- The foremost vehicle of the vehicle's string (R138): it is attached behind nothing. -/
def State.foremost (s : State) (v : VehicleId) : VehicleId := s.foremostBy 64 v

/-- The vehicle and those it is attached behind, followed forward by at most n links (R145). -/
def State.forwardBy (s : State) : Nat → VehicleId → List VehicleId
  | 0, v => [v]
  | n + 1, v =>
    match (s.vehicle v).attachedBehind with
    | some (f, _) => v :: s.forwardBy n f
    | none => [v]

/-- The vehicles attached behind a vehicle and behind those, by at most n links back (R141). -/
def State.rearBy (s : State) : Nat → VehicleId → List VehicleId
  | 0, _ => []
  | n + 1, v =>
    match s.behind v with
    | some w => w :: s.rearBy n w
    | none => []

/-- Every vehicle attached behind the vehicle in its string (R141). -/
def State.rear (s : State) (v : VehicleId) : List VehicleId := s.rearBy 64 v

/-- The vehicles of a tractor's chain: the tractor, the trailer behind it and the one behind that (R65). -/
def State.chain (s : State) (v : VehicleId) : List VehicleId := v :: s.rearBy 2 v

/-- n of stage C: the sum of the load classes of the trailers in the chain (R65). -/
def State.chainLoad (s : State) (v : VehicleId) : Nat := ((s.rearBy 2 v).map (fun w => (s.vehicle w).loadClass)).sum

/-! ## Bindings (R46, R57 to R59) -/

/-- The binding that matches a source node and a lever group (R46). -/
def State.bindingWithKey (s : State) (node : Byte) (group : Nat) : Option BindingId :=
  (indices 32).find? (fun b =>
    (s.binding b).state ≠ .empty && (match (s.binding b).tie with
      | some t => t.node = node && t.group = group
      | none => false))

/-- The non-empty binding that targets a convoy or a vehicle (R46). -/
def State.bindingOn (s : State) (target : MoveUnit) : Option Binding :=
  ((indices 32).find? (fun b =>
    (s.binding b).state ≠ .empty && (match (s.binding b).tie with
      | some t => t.target = target
      | none => false))).map s.binding

/-- The unit binding of a tractor (section 3.5). -/
def State.unitBinding (s : State) (v : VehicleId) : Option Binding := s.bindingOn (s.unitOf v)

/-- The own binding of a vehicle (section 3.5). -/
def State.ownBinding (s : State) (v : VehicleId) : Option Binding := s.bindingOn (.vehicle v)

/-- The controlling class of a tractor's unit (R58). -/
def State.controllingClass (s : State) (v : VehicleId) : DriverClass :=
  match s.unitBinding v with
  | some b =>
    match b.tie with
    | some t => t.cls
    | none => .driver
  | none => .driver

/-- The demand D of a tractor (R57). -/
def State.demand (s : State) (v : VehicleId) : Int :=
  let driven :=
    match (s.vehicle v).convoy with
    | some c => (s.convoy c).state = .rolling || (s.convoy c).state = .holdPending
    | none => true
  match s.unitBinding v with
  | some b => if b.state = .armed && driven then b.throttle else 0
  | none => 0

/-- The turn request of a solo tractor or a lead (R58). -/
def State.turnRequest (s : State) (v : VehicleId) : Turn :=
  match s.unitBinding v with
  | some b => b.turn
  | none => .ahead

/-- The aux flags of a tractor: its own binding's, else those of its convoy's binding, else clear (R59). -/
def State.tractorAux (s : State) (v : VehicleId) : Half :=
  match s.ownBinding v with
  | some b => b.aux
  | none =>
    match (s.vehicle v).convoy with
    | some _ =>
      match s.unitBinding v with
      | some b => b.aux
      | none => 0
    | none => 0

/-- The aux flags of any vehicle: a trailer without an own binding takes the light flags 0–3 of its chain tractor, and none
where its string has no tractor (R59). -/
def State.auxFlags (s : State) (v : VehicleId) : Half :=
  match (s.vehicle v).kind with
  | .tractor => s.tractorAux v
  | .trailer =>
    match s.ownBinding v with
    | some b => b.aux
    | none =>
      let t := s.foremost v
      if (s.vehicle t).kind = .tractor then s.tractorAux t &&& 15 else 0

end Sys2Proof.Machine
end

