-- ==== Sys2Proof/Machine/Lanes.lean ====
section
/-! DEFINITION. The Lane Arbiter (chapter 8): grant, request, withdrawal, entry, release and presence admission. -/

namespace Sys2Proof.Machine

/-- The unit is in the holder list. -/
def Lane.holds (l : Lane) (u : MoveUnit) : Bool := l.holders.any (fun h => h.unit = u)

/-- The unit is in the waiting list. -/
def Lane.waits (l : Lane) (u : MoveUnit) : Bool := l.waiting.any (fun w => w = u)

/-- The unit leaves the holder list; the others keep their order (R131). -/
def Lane.dropHolder (l : Lane) (u : MoveUnit) : Lane := { l with holders := l.holders.filter (fun h => h.unit ≠ u) }

/-- The unit leaves the waiting list; the others keep their order (R128). -/
def Lane.dropWaiting (l : Lane) (u : MoveUnit) : Lane := { l with waiting := l.waiting.filter (fun w => w ≠ u) }

/-- While there are fewer holders than the capacity, the oldest waiting unit is appended to the holders with entered no
(R129). -/
def grantFrom (capacity : Nat) : List Holder → List MoveUnit → Lane
  | holders, [] => ⟨holders, []⟩
  | holders, w :: ws =>
    if holders.length < capacity then grantFrom capacity (holders ++ [⟨w, false⟩]) ws else ⟨holders, w :: ws⟩

/-- The grant judgement on the two lists of a range (R129). -/
def Lane.grant (capacity : Nat) (l : Lane) : Lane := grantFrom capacity l.holders l.waiting

/-- A grant is judged for a range (R129). -/
def State.grant (s : State) (r : RangeId) : State := s.setLane r ((s.lane r).grant (s.laneCapacity r))

/-- The unit is in the holder list of some range. -/
def State.holdsAny (s : State) (u : MoveUnit) : Bool := (indices 32).any (fun r => (s.lane r).holds u)

/-- The unit is in the waiting list of some range. -/
def State.waitsAny (s : State) (u : MoveUnit) : Bool := (indices 32).any (fun r => (s.lane r).waits u)

/-- The unit is withdrawn from every waiting list that holds it, and each such range is judged for a grant (R128, R129). -/
def State.withdrawEverywhere (s : State) (u : MoveUnit) : State :=
  s.mapLanes (fun r l => if l.waits u then (l.dropWaiting u).grant (s.laneCapacity r) else l)

/-- Step 1 of R126 on the lists of range r: a holder becomes entered (R130); a unit that is no holder is admitted while
there are fewer than four (R132). -/
def Lane.enterHolder (l : Lane) (u : MoveUnit) : Lane :=
  if l.holds u then { l with holders := l.holders.map (fun h => if h.unit = u then { h with entered := true } else h) }
  else if l.holders.length < 4 then
    { holders := l.holders ++ [⟨u, true⟩], waiting := (l.dropWaiting u).waiting }
  else l

/-- Step 1 of R126 for tractor v of unit u: entry or presence admission in the single-lane range of its current segment,
or ZONE_OVERFULL where four holders leave no room (R130, R132). -/
def State.laneEnter (s : State) (u : MoveUnit) (v : VehicleId) : State × List Latch :=
  match s.laneRangeOf (s.vehicle v).current with
  | some r =>
    let l := s.lane r
    (s.setLane r (l.enterHolder u),
      if l.holds u || l.holders.length < 4 then [] else [⟨.zoneOverfull, .range r, (s.vehicle v).current⟩])
  | none => (s, [])

/-- Some member of the unit has its current segment in the range, as the Vehicle Table holds it (R131). -/
def State.unitInside (s : State) (u : MoveUnit) (r : RangeId) : Bool :=
  (s.unitMembers u).any (fun m => s.liesIn (s.vehicle m).current r)

/-- The vehicle's current and ahead segments both lie outside the range (R128, R131). -/
def State.clearOf (s : State) (v : VehicleId) (r : RangeId) : Bool :=
  !s.liesIn (s.vehicle v).current r && !s.liesIn (s.vehicle v).ahead r

/-- A holder is released at an ack of v: when entered, once no member is inside; when not, once the lead has turned away
(R131). -/
def State.releases (s : State) (u : MoveUnit) (v : VehicleId) (r : RangeId) (h : Holder) : Bool :=
  h.unit = u && (if h.entered then !s.unitInside u r else s.leadsUnit v && s.clearOf v r)

/-- Step 2 of R126: release of the unit from each range that it holds (R131). -/
def State.laneRelease (s : State) (u : MoveUnit) (v : VehicleId) : State :=
  s.mapLanes (fun r l => { l with holders := l.holders.filter (fun h => !s.releases u v r h) })

/-- Step 3 of R126: withdrawal from each range whose waiting list names the unit and whose segments the lead has left
(R128). -/
def State.laneWithdraw (s : State) (u : MoveUnit) (v : VehicleId) : State :=
  s.mapLanes (fun r l => if l.waits u && s.clearOf v r then l.dropWaiting u else l)

/-- A request for range r is due at an ack of the lead v of unit u (R127). -/
def State.requests (s : State) (u : MoveUnit) (v : VehicleId) (r : RangeId) : Bool :=
  let x := s.vehicle v
  !s.liesIn x.current r && !(s.lane r).holds u && !(s.lane r).waits u &&
    (s.crossingReason x.current x.ahead (s.controllingClass v)).isNone

/-- Step 4 of R126: a request for the single-lane range of the ahead segment, appended while fewer than eight wait
(R127). -/
def State.laneRequest (s : State) (u : MoveUnit) (v : VehicleId) : State :=
  match s.laneRangeOf (s.vehicle v).ahead with
  | some r =>
    if s.requests u v r && (s.lane r).waiting.length < 8 then
      s.setLane r { s.lane r with waiting := (s.lane r).waiting ++ [u] }
    else s
  | none => s

/-- Step 5 of R126: a grant for each range whose lists differ from those before the ack (R129). -/
def State.laneGrants (s : State) (before : Vector Lane 32) : State :=
  s.mapLanes (fun r l => if before[r] = l then l else l.grant (s.laneCapacity r))

/-- The Lane Arbiter at a valid ack of tractor v, whole and in the order of R126. Its telemetry is already written. -/
def State.laneAck (s : State) (v : VehicleId) : State × List Latch :=
  if (s.vehicle v).kind = .tractor then
    let u := s.unitOf v
    let (s1, ls) := s.laneEnter u v
    let s2 := s1.laneRelease u v
    let s3 := if s.leadsUnit v then s2.laneWithdraw u v else s2
    let s4 := if s.leadsUnit v then s3.laneRequest u v else s3
    (s4.laneGrants s.lanes, ls)
  else (s, [])

end Sys2Proof.Machine
end

