-- ==== Sys2Proof/Machine/Coupling.lean ====
section
/-! DEFINITION. The Coupling Identifier (chapter 9): coupler events, the identification queue, rounds and their outcomes,
and the dissolving of attachments. -/

namespace Sys2Proof.Machine

/-! ## Attachments -/

/-- The vehicle's attached-behind field becomes absent. -/
def State.detach (s : State) (v : VehicleId) : State := s.setVehicle v { s.vehicle v with attachedBehind := none }

/-- The named vehicles are detached. -/
def State.detachAll (s : State) (vs : List VehicleId) : State := vs.foldl State.detach s

/-- Every attachment behind the vehicle in its string is dissolved (R141). -/
def State.dissolveBehind (s : State) (v : VehicleId) : State := s.detachAll (s.rear v)

/-- The vehicle is attached behind another as TENTATIVE. -/
def State.isTentative (s : State) (v : VehicleId) : Bool :=
  match (s.vehicle v).attachedBehind with
  | some (_, .tentative) => true
  | _ => false

/-- A queued entry is blocked while its string holds a TENTATIVE attachment (R143). -/
def State.blocked (s : State) (x : VehicleId) : Bool :=
  (indices 64).any (fun w => s.isTentative w && s.foremost w = s.foremost x)

/-! ## Rounds -/

/-- The channels that are SERVING. -/
def State.servingChannels (s : State) : List Channel := allChannels.filter s.serving

/-- A poll is placed on each of the channels (R144, R38). -/
def State.placePolls (s : State) (cs : List Channel) (p : PollSubject) : State :=
  cs.foldl (fun s c => s.setChannel c { s.channel c with pendingPoll := some p }) s

/-- A round of the identification of x begins: its active channel and radio address go as poll subject to each channel
that is SERVING (R144). -/
def State.beginRound (s : State) (x : VehicleId) (round : Nat) : State :=
  let cs := s.servingChannels
  { s.placePolls cs ⟨(s.vehicle x).active.channel, (s.vehicle x).address⟩ with
    coupler := { s.coupler with ident := some ⟨x, round, cs, [], false⟩ } }

/-- An entry leaves the queue, with the identification in flight if it is that entry's (R146, R147). -/
def State.leaveIdentQueue (s : State) (x : VehicleId) : State :=
  { s with coupler :=
    { queue := s.coupler.queue.filter (fun y => y ≠ x)
      ident :=
        match s.coupler.ident with
        | some i => if i.subject = x then none else some i
        | none => none } }

/-- The latch of an identification that failed, or of a closure that cannot be identified (R140, R146). -/
def State.unresolved (s : State) (x : VehicleId) : Latch := ⟨.coupleUnresolved, .vehicle x, (s.vehicle x).current⟩

/-- A start is judged (R143): with none in flight, the oldest entry that is not blocked starts round 1. With no channel
SERVING each of its three rounds ends as it begins, with no reply, so it fails and the next entry is judged (R144, R146).
The bound n is the queue's length: each failure takes an entry out. -/
def startIdent : Nat → State → State × List Latch
  | 0, s => (s, [])
  | n + 1, s =>
    if s.coupler.ident.isSome then (s, [])
    else
      match s.coupler.queue.find? (fun x => !s.blocked x) with
      | none => (s, [])
      | some x =>
        if s.servingChannels.isEmpty then
          let (s', ls) := startIdent n (s.leaveIdentQueue x)
          (s', s.unresolved x :: ls)
        else (s.beginRound x 1, [])

/-- R143's judgement of a start, at the end of an event. At the end of a decision or a WRITE too an identification that fails
as it begins latches COUPLE_UNRESOLVED, as R146 gives: that those commands latch nothing (R148, R149, R171) is read as said of
the commands themselves (assumption 11). -/
def State.judgeStart (s : State) : State × List Latch := startIdent s.coupler.queue.length s

/-- The valid vehicle that occupies a channel with a radio address (R7, R145): its active assignment is there and it is not
in transit, or its staged assignment is there. -/
def State.occupant (s : State) (c : Channel) (address : Byte) : Option VehicleId :=
  (indices 64).find? (fun v =>
    let x := s.vehicle v
    x.valid && x.address = address &&
      ((x.active.channel = c && !x.inTransit) || (x.staged.map Assignment.channel) = some c))

/-- The number of trailers among some vehicles. -/
def State.trailerCount (s : State) (vs : List VehicleId) : Nat :=
  (vs.filter (fun v => (s.vehicle v).kind = .trailer)).length

/-- The candidate may be attached behind x (R145). -/
def State.suitable (s : State) (x y : VehicleId) : Bool :=
  let c := s.vehicle y
  let forward := s.forwardBy 64 x
  c.kind = .trailer && c.attachedBehind.isNone && c.kingpin && !(forward.contains y) &&
    s.trailerCount forward + s.trailerCount (y :: s.rear y) ≤ 2

/-- The candidate of a round that succeeds (R145). -/
def State.roundCandidate (s : State) (i : Identification) : Option VehicleId :=
  if i.garbled then none
  else
    match i.replies with
    | [(c, address)] =>
      match s.occupant c address with
      | some y => if s.suitable i.subject y then some y else none
      | none => none
    | _ => none

/-- The end of a round (R145, R146). -/
def State.roundEnd (s : State) (i : Identification) : State × List Latch :=
  match s.roundCandidate i with
  | some y =>
    let s1 := s.setVehicle y { s.vehicle y with attachedBehind := some (i.subject, .tentative) }
    let pending : Latch := ⟨.couplePending, .vehicle (s1.foremost i.subject), (s.vehicle i.subject).current⟩
    let (s2, ls) := (s1.leaveIdentQueue i.subject).judgeStart
    (s2, pending :: ls)
  | none =>
    if i.round < 3 && !s.servingChannels.isEmpty then (s.beginRound i.subject (i.round + 1), [])
    else
      let (s1, ls) := (s.leaveIdentQueue i.subject).judgeStart
      (s1, s.unresolved i.subject :: ls)

/-- A polled channel's report (R39, R27): the round is judged at the last of them (R144). -/
def State.pollReport (s : State) (c : Channel) (replies : List Byte) (garbled : Bool) : State × List Latch :=
  match s.coupler.ident with
  | some i =>
    if i.awaiting.contains c then
      let i' : Identification :=
        { i with
          awaiting := i.awaiting.filter (fun d => d ≠ c)
          replies := i.replies ++ replies.map (fun a => (c, a))
          garbled := i.garbled || garbled }
      if i'.awaiting.isEmpty then s.roundEnd i'
      else ({ s with coupler := { s.coupler with ident := some i' } }, [])
    else (s, [])
  | none => (s, [])

/-- A channel's part in withdrawing a poll: a pending one is removed, and one in its slot runs on with its report discarded
(R38, R147). -/
def ChannelUnit.withdrawPoll (u : ChannelUnit) : ChannelUnit :=
  { u with
    pendingPoll := none
    flight :=
      match u.flight with
      | some (.poll p rs g _) => some (.poll p rs g false)
      | f => f }

/-- An entry is cancelled: it leaves the queue, and its polls are withdrawn when it is in flight (R147). -/
def State.cancelEntry (s : State) (x : VehicleId) : State :=
  let inFlight : Bool := match s.coupler.ident with
    | some i => i.subject = x
    | none => false
  (if inFlight then s.mapChannels ChannelUnit.withdrawPoll else s).leaveIdentQueue x

/-! ## Coupler events (R139 to R142) -/

/-- The front-side coupler of a vehicle: a tractor's fifth wheel, a trailer's rear hitch. -/
def Vehicle.frontCoupler (x : Vehicle) : Bool :=
  match x.kind with
  | .tractor => x.fifthWheel
  | .trailer => x.rearHitch

/-- A kingpin release of trailer y: it and everything behind it are detached, and a start is judged; a trailer attached
behind nothing changes nothing (R142). R143 names a TENTATIVE attachment dissolved; that a start is judged where only a
CONFIRMED one is dissolved is the model's choice (assumption 25). -/
def State.kingpinRelease (s : State) (y : VehicleId) : State × List Latch :=
  if (s.vehicle y).attachedBehind.isSome then ((s.dissolveBehind y).detach y).judgeStart else (s, [])

/-- An opening of x (R141): everything behind it is detached, its queue entry is cancelled, and a start is judged, also
where only CONFIRMED attachments were dissolved (assumption 25). -/
def State.opening (s : State) (x : VehicleId) : State × List Latch :=
  ((s.dissolveBehind x).cancelEntry x).judgeStart

/-- X is a trailer attached behind a trailer (R140). -/
def State.secondTrailer (s : State) (x : VehicleId) : Bool :=
  (s.vehicle x).kind = .trailer && (match (s.vehicle x).attachedBehind with
    | some (f, _) => (s.vehicle f).kind = .trailer
    | none => false)

/-- A closure of x (R140): the first case of its table that applies. -/
def State.closure (s : State) (x : VehicleId) : State × List Latch :=
  if (s.behind x).isSome then (s, [])
  else if s.secondTrailer x || 4 ≤ s.coupler.queue.length then (s, [s.unresolved x])
  else ({ s with coupler := { s.coupler with queue := s.coupler.queue ++ [x] } } : State).judgeStart

/-- The Coupling Identifier at a valid ack of x, given the record before the ack; the kingpin release comes first (R139). -/
def State.couplerAck (s : State) (x : VehicleId) (before : Vehicle) : State × List Latch :=
  let now := s.vehicle x
  let (s1, ls1) :=
    if now.kind = .trailer && before.kingpin && !now.kingpin then s.kingpinRelease x else (s, [])
  let (s2, ls2) :=
    if before.frontCoupler && !now.frontCoupler then s1.opening x
    else if !before.frontCoupler && now.frontCoupler then s1.closure x
    else (s1, [])
  (s2, ls1 ++ ls2)

/-! ## Invalidation (R149) -/

/-- The attachments that name v are dissolved: the vehicle behind it is detached, and so is v itself (R149). -/
def State.dissolveNaming (s : State) (v : VehicleId) : State :=
  let s1 :=
    match s.behind v with
    | some w => s.detach w
    | none => s
  s1.detach v

end Sys2Proof.Machine
end

