-- ==== Sys2Proof/Machine/Convoys.lean ====
section
/-! DEFINITION. The Convoy Engine at telemetry and at the loss of a member: gaps (R91, R92), the hold reference (R93),
breaks (R94, R95) and route trails (chapter 6). -/

namespace Sys2Proof.Machine

/-! ## Gaps -/

/-- The gap of a follower from its predecessor's and its own current segment (R91). -/
def gapBetween (predecessor follower : Option Segment) : Gap :=
  match predecessor, follower with
  | some p, some q =>
    if Segment.road p = Segment.road q ∧ Segment.position q ≤ Segment.position p then
      .known (Segment.position p - Segment.position q)
    else .unknown
  | _, _ => .unknown

/-- The followers after a predecessor, with the gap of each one computed afresh that `due` names by its predecessor and
itself; the others keep theirs (R92). -/
def State.measureAfter (s : State) (due : VehicleId → VehicleId → Bool) : VehicleId → List Member → List Member
  | _, [] => []
  | p, m :: ms =>
    (if due p m.tractor then { m with gap := gapBetween (s.vehicle p).current (s.vehicle m.tractor).current } else m)
      :: s.measureAfter due m.tractor ms

/-- A member list with the gaps that `due` names computed afresh; the lead's is left alone (R92). -/
def State.measure (s : State) (due : VehicleId → VehicleId → Bool) : List Member → List Member
  | [] => []
  | m :: ms => m :: s.measureAfter due m.tractor ms

/-! ## Trails -/

/-- The entry at a cursor (R98). -/
def Convoy.entryAt (c : Convoy) (cursor : Nat) : Option TrailEntry := c.trail[cursor]?

/-- While every cursor is 1 or more, the oldest entry is removed and every cursor falls by 1 (R104). -/
def dropPassed : List TrailEntry → List Member → List TrailEntry × List Member
  | [], ms => ([], ms)
  | e :: t, ms =>
    if ms.all (fun m => 1 ≤ m.cursor) then dropPassed t (ms.map (fun m => { m with cursor := m.cursor - 1 }))
    else (e :: t, ms)

/-- The judgement of R104 on a convoy. -/
def Convoy.dropOldest (c : Convoy) : Convoy :=
  { c with trail := (dropPassed c.trail c.members).1, members := (dropPassed c.trail c.members).2 }

/-- The cursor of one member rises by 1 (R99, R102). -/
def Convoy.raiseCursor (c : Convoy) (v : VehicleId) : Convoy :=
  { c with members := c.members.map (fun m => if m.tractor = v then { m with cursor := m.cursor + 1 } else m) }

/-- The lead's passage is appended with its cursor, and R104 then applies (R99). -/
def Convoy.append (c : Convoy) (lead : VehicleId) (e : TrailEntry) : Convoy :=
  ({ c with trail := c.trail ++ [e] }.raiseCursor lead).dropOldest

/-- The vehicle's ack changed its current segment to a present one; an absent value before counts as different (R99,
R102). -/
def arrivedAt (before now : Option Segment) : Option Segment :=
  match now with
  | some g => if before = some g then none else some g
  | none => none

/-- The lead's part of an ack: recording a junction (R99, R100). -/
def State.recordJunction (s : State) (c : Convoy) (v : VehicleId) (before : Option Segment) : Convoy × Bool :=
  match arrivedAt before (s.vehicle v).current with
  | some g =>
    if s.isJunction (some g) && (c.state = .rolling || c.state = .holdPending || c.state = .holding || c.state = .broken) then
      if c.trail.length < 16 then (c.append v ⟨g, (s.vehicle v).lastTurn⟩, false) else (c, true)
    else (c, false)
  | none => (c, false)

/-- A follower's part of an ack: its cursor passes the entry that names the segment it has entered, and R104 then applies
(R102). -/
def State.advanceCursor (s : State) (c : Convoy) (v : VehicleId) (before : Option Segment) : Convoy :=
  match arrivedAt before (s.vehicle v).current, c.member? v with
  | some g, some m =>
    match c.entryAt m.cursor with
    | some e => if e.segment = g then (c.raiseCursor v).dropOldest else c
    | none => c
  | _, _ => c

/-- A follower's ahead segment is a junction segment, and the entry at its cursor does not exist or names another segment
(R103, R101). -/
def State.trailMissed (s : State) (c : Convoy) (v : VehicleId) : Bool :=
  match (s.vehicle v).ahead, c.member? v with
  | some a, some m =>
    s.isJunction (some a) && (match c.entryAt m.cursor with
      | some e => e.segment ≠ a
      | none => true)
  | _, _ => false

/-- The end of a wait in HOLD_PENDING at the lead's ack (R93). -/
def Convoy.endHold (c : Convoy) (leadCurrent : Option Segment) : Convoy :=
  if c.state = .holdPending && (leadCurrent.isNone || leadCurrent ≠ c.holdRef) then
    { c with state := .holding, holdRef := none }
  else c

/-- A break (R94, R95): the convoy is BROKEN with a cause, and the hold reference becomes absent. -/
def Convoy.break (c : Convoy) (cause : BreakCause) : Convoy :=
  { c with state := .broken, cause := some cause, holdRef := none }

/-- The convoy's record after an ack of its member v, with a trail fault if one is to be latched: TRAIL_FULL for a refused
append (R100), TRAIL_MISS for a mismatch that breaks a moving convoy (R95). The ack is taken whole: R99 or R102, R104,
then R103 (R107). -/
def State.convoyAfterAck (s : State) (c : Convoy) (v : VehicleId) (before : Option Segment) :
    Convoy × Option FaultClass :=
  let measured := { c with members := s.measure (fun p m => p = v || m = v) c.members }
  if measured.isLead v then
    let (recorded, full) := s.recordJunction (measured.endHold (s.vehicle v).current) v before
    (recorded, if full then some .trailFull else none)
  else
    let advanced := s.advanceCursor measured v before
    if s.trailMissed advanced v && (advanced.state = .rolling || advanced.state = .holdPending) then
      (advanced.break (.trailMiss v), some .trailMiss)
    else (advanced, none)

/-- The Convoy Engine at a valid ack of v, whose telemetry is already written; `before` is its current segment before the
ack (R92, R93, R99 to R104). -/
def State.convoyAck (s : State) (v : VehicleId) (before : Option Segment) : State × List Latch :=
  match (s.vehicle v).convoy with
  | some c =>
    let (conv, fault) := s.convoyAfterAck (s.convoy c) v before
    (s.setConvoy c conv, fault.toList.map (fun k => ⟨k, .convoy c, (s.vehicle v).current⟩))
  | none => (s, [])

/-- The Convoy Engine's forward-stop reason (R101). -/
def State.trailReason (s : State) (v : VehicleId) : Option StopReason :=
  match (s.vehicle v).convoy with
  | some c =>
    let conv := s.convoy c
    if conv.isLead v then
      if conv.trail.length = 16 && s.isJunction (s.vehicle v).ahead then some .trailFull else none
    else if s.trailMissed conv v then some .trailMiss else none
  | none => none

/-! ## Loss of members (R94) -/

/-- The convoy breaks when a member goes LOST (R94). -/
def Convoy.breaksOnLoss (c : Convoy) : Bool := c.state = .rolling || c.state = .holdPending || c.state = .holding

/-- The vehicles of one event that went LOST are handed to the Convoy Engine for convoy c. The first it takes names the
cause; which one that is among several members is a free choice (R94, assumption 1). -/
def State.loseMembersOf (s : State) (lost : List VehicleId) (c : ConvoyId) : State :=
  let gone := lost.filter (fun v => (s.vehicle v).convoy = some c)
  if (s.convoy c).breaksOnLoss && !gone.isEmpty then
    let (k, s1) := s.pick gone.length
    match gone[k]? with
    | some v => s1.setConvoy c ((s.convoy c).break (.lost v))
    | none => s1
  else s

/-- The vehicles of one event that went LOST are handed to the Convoy Engine (R18, R94). -/
def State.loseMembers (s : State) (lost : List VehicleId) : State :=
  (indices 12).foldl (fun s c => s.loseMembersOf lost c) s

end Sys2Proof.Machine
end

