-- ==== Sys2Proof/Machine/Shaper.lean ====
section
/-! DEFINITION. The Speed Shaper (chapter 4): the stages of one frame's computation, each a function of its inputs, and
what it writes into the vehicle record. -/

namespace Sys2Proof.Machine

/-- To clamp is to replace a value outside its range by the nearer limit (R2). -/
def clampInt (low high x : Int) : Int := max low (min high x)

/-- A number clamped into a range (R2). -/
def clampNat (low high n : Nat) : Nat := max low (min high n)

/-- The sign of a speed (R2). -/
def directionOf (speed : Int) : Direction :=
  if speed > 0 then .forward else if speed < 0 then .reverse else .neutral

/-- The gap factor F in sixteenths (R64). -/
def gapFactor (demand : Int) (gap : Gap) (gmin gmax : Nat) : Int :=
  if demand ≤ 0 then 16
  else
    match gap with
    | .known g =>
      if g < gmin then max 0 (16 - 6 * ((gmin : Int) - g))
      else if gmax < g then min 20 (16 + 2 * ((g : Int) - gmax))
      else 16
    | .unknown => 16
    | .absent => 16

/-- Stage B: D1 = D·F/16, truncated and clamped (R64). -/
def applyGap (demand factor : Int) : Int := clampInt (-127) 127 ((demand * factor).tdiv 16)

/-- Stage C: T = D1·(32 − 2n)/32, truncated (R65). -/
def applyLoad (d1 : Int) (n : Nat) : Int := (d1 * (32 - 2 * (n : Int))).tdiv 32

/-- Stage D when the vehicle is at rest with a wish to move (R67). -/
def startSpeed (target : Int) (accelUp dwell : Nat) (direction : Direction) (zeroFrames : Nat) : Int :=
  if direction = .neutral || direction = directionOf target || dwell ≤ zeroFrames then
    target.sign * min (target.natAbs : Int) accelUp
  else 0

/-- Stage D: the ramped speed R from the target and the previous output speed (R66, R67). -/
def rampSpeed (target previous : Int) (accelUp accelDown dwell : Nat) (direction : Direction) (zeroFrames : Nat) : Int :=
  let t : Int := target.natAbs
  let o : Int := previous.natAbs
  if previous = 0 ∧ target ≠ 0 then startSpeed target accelUp dwell direction zeroFrames
  else if target ≠ 0 ∧ target.sign = previous.sign then
    if o ≤ t then target.sign * min t (o + accelUp) else previous.sign * max t (o - accelDown)
  else previous.sign * max 0 (o - accelDown)

/-- The forward and the reverse cap (R71). -/
def forwardCap (zoneCap : Nat) (crawl : Option Nat) (stopped : Bool) : Nat :=
  if stopped then 0 else min zoneCap (crawl.getD zoneCap)

@[inherit_doc forwardCap]
def backwardCap (zoneCap reverseCap : Nat) (crawl : Option Nat) : Nat :=
  min (min zoneCap reverseCap) (crawl.getD zoneCap)

/-- Stage E without the hard zero: R clamped to −cap_rev…+cap_fwd (R71). -/
def applyCaps (ramped : Int) (capFwd capRev : Nat) : Int := clampInt (-(capRev : Int)) capFwd ramped

/-- The pulse offset O·span/127, rounded to the nearest integer with halves away from zero (R73). -/
def pulseOffset (speed : Int) (span : Nat) : Int :=
  speed.sign * (((2 * speed.natAbs * span + 127) / 254 : Nat) : Int)

/-- Stage F: the pulse value (R73). -/
def pulseValue (speed : Int) (span : Nat) (trim : Int) : Int := clampInt 1000 2000 (1500 + pulseOffset speed span + trim)

/-- What a frame build computes for a vehicle (R61, R62). -/
structure Shaped where
  speed : Int
  pulse : Int
  turn : Turn
  aux : Half
  stopReason : Option StopReason
deriving DecidableEq, Repr

/-- The follower's entry in its convoy, for a follower only (R64). -/
def State.followerEntry (s : State) (v : VehicleId) : Option Member :=
  match (s.vehicle v).convoy with
  | some c => if (s.convoy c).isLead v then none else (s.convoy c).member? v
  | none => none

/-- The gap factor of a tractor: 16 for a solo tractor and for a lead (R64). -/
def State.gapFactorOf (s : State) (v : VehicleId) : Int :=
  match s.followerEntry v with
  | some m => gapFactor (s.demand v) m.gap m.gmin m.gmax
  | none => 16

/-- The target T of a tractor, by stages A to C (R63 to R65). -/
def State.targetSpeed (s : State) (v : VehicleId) : Int :=
  applyLoad (applyGap (s.demand v) (s.gapFactorOf v)) (s.chainLoad v)

/-- The forward-stop reason judged at a frame build (R68). -/
def State.forwardStop (s : State) (v : VehicleId) : Option StopReason :=
  let x := s.vehicle v
  match s.crossingReason x.current x.ahead (s.controllingClass v) with
  | some r => some r
  | none =>
    let waits :=
      s.crosses x.current x.ahead && (match s.laneRangeOf x.ahead with
        | some r => !(s.lane r).holds (s.unitOf v)
        | none => false)
    if waits then some .laneWait else s.trailReason v

/-- The crawl term: present while any vehicle of the chain reports no battery or one below the floor (R70). -/
def State.crawlTerm (s : State) (v : VehicleId) : Option Nat :=
  if (s.chain v).any (fun w => match (s.vehicle w).battery with
      | some b => b.toNat < s.limits.batteryFloor
      | none => true)
  then some s.limits.crawlCap else none

/-- The hard zero: the E-stop input is asserted, or the vehicle is not ONLINE (R72). -/
def State.hardZero (s : State) (v : VehicleId) : Bool := s.pins.estop || (s.vehicle v).link ≠ .online

/-- The ramped speed of a tractor (stage D). -/
def State.ramped (s : State) (v : VehicleId) : Int :=
  let x := s.vehicle v
  rampSpeed (s.targetSpeed v) x.speed x.accelUp x.accelDown x.dwell x.direction x.zeroFrames

/-- cap_fwd of a tractor's frame (R71). -/
def State.capForward (s : State) (v : VehicleId) : Nat :=
  forwardCap (s.zoneCap (s.vehicle v).current (s.vehicle v).ahead) (s.crawlTerm v) (s.forwardStop v).isSome

/-- cap_rev of a tractor's frame (R71). -/
def State.capReverse (s : State) (v : VehicleId) : Nat :=
  backwardCap (s.zoneCap (s.vehicle v).current (s.vehicle v).ahead) s.limits.reverseCap (s.crawlTerm v)

/-- The output speed of a tractor (stage E, R71, R72). -/
def State.outputSpeed (s : State) (v : VehicleId) : Int :=
  if s.hardZero v then 0 else applyCaps (s.ramped v) (s.capForward v) (s.capReverse v)

/-- The turn code of a tractor's frame (R74). -/
def State.turnCode (s : State) (v : VehicleId) : Turn :=
  match (s.vehicle v).convoy with
  | none => s.turnRequest v
  | some c =>
    let conv := s.convoy c
    if conv.isLead v then s.turnRequest v
    else
      match (s.vehicle v).ahead, conv.member? v with
      | some a, some m =>
        if s.isJunction (some a) then
          match conv.entryAt m.cursor with
          | some e => if e.segment = a then e.turn else .ahead
          | none => .ahead
        else .ahead
      | _, _ => .ahead

/-- The frame of a vehicle (R61 for a tractor, R62 for a trailer). -/
def State.shape (s : State) (v : VehicleId) : Shaped :=
  let x := s.vehicle v
  match x.kind with
  | .tractor =>
    { speed := s.outputSpeed v
      pulse := pulseValue (s.outputSpeed v) x.span x.trim
      turn := s.turnCode v
      aux := s.auxFlags v
      stopReason := s.forwardStop v }
  | .trailer => { speed := 0, pulse := 1500, turn := .ahead, aux := s.auxFlags v, stopReason := none }

/-- The shaping state written at a frame build (R76, R62). -/
def Vehicle.withFrame (x : Vehicle) (f : Shaped) : Vehicle :=
  { x with
    speed := f.speed
    direction := if f.speed = 0 then x.direction else directionOf f.speed
    zeroFrames := if f.speed = 0 then min 15 (x.zeroFrames + 1) else 0
    lastTurn := f.turn
    stopReason := f.stopReason }

/-- The drive frame sent for a vehicle (R75, R33). -/
def driveFrame (x : Vehicle) (f : Shaped) : RadioFrame :=
  .drive x.address (BitVec.ofInt 16 f.pulse) f.turn.code f.aux

end Sys2Proof.Machine
end

