-- ==== Sys2Proof/Machine/Vehicles.lean ====
section
/-! DEFINITION. The Vehicle Table's link states (section 1.5): valid ack, miss, loss and OFF. -/

namespace Sys2Proof.Machine

/-- The record with every state field at its blank value of R20 and the configuration kept (R9, R14). -/
def Vehicle.blankState (x : Vehicle) : Vehicle :=
  { Vehicle.blank with
    valid := x.valid
    kind := x.kind
    active := x.active
    address := x.address
    accelUp := x.accelUp
    accelDown := x.accelDown
    dwell := x.dwell
    span := x.span
    trim := x.trim
    loadClass := x.loadClass }

/-- The vehicle reaches OFF (R14). -/
def Vehicle.reachOff (x : Vehicle) : Vehicle := x.blankState

/-- Entry to LOST: O, direction memory and z are reset, and everything else is kept (R18). -/
def Vehicle.goLost (x : Vehicle) : Vehicle := { x with link := .lost, speed := 0, direction := .neutral, zeroFrames := 15 }

/-- A vehicle at rest after RESTART (R21). -/
def Vehicle.atRest (x : Vehicle) : Vehicle := { x with speed := 0, direction := .neutral, zeroFrames := 15 }

/-- The telemetry of a valid ack: link state ONLINE, miss count 0, and the values reported for the vehicle's kind (R16);
the flags that its kind does not report are held at no (R4). -/
def Vehicle.withAck (x : Vehicle) (a : Ack) : Vehicle :=
  { x with
    link := .online
    misses := 0
    current := a.current
    ahead := a.ahead
    battery := a.battery
    fifthWheel := x.kind = .tractor && a.fifthWheel
    kingpin := x.kind = .trailer && a.kingpin
    rearHitch := x.kind = .trailer && a.rearHitch }

/-- BATTERY_LOW is due: the ack reports a battery below the floor, and the field before it was absent or not below (R16). -/
def State.batteryFalls (s : State) (before : Vehicle) (a : Ack) : Bool :=
  match a.battery with
  | some b =>
    b.toNat < s.limits.batteryFloor && (match before.battery with
      | some o => s.limits.batteryFloor ≤ o.toNat
      | none => true)
  | none => false

/-- A valid ack of v (R16): its telemetry is written, and then the Convoy Engine, the Lane Arbiter and the Coupling
Identifier each act on it; the Zone Map has no work of its own (R114). The latches of the four blocks have no order among
them (R16, assumption 1). -/
def State.validAck (s : State) (v : VehicleId) (a : Ack) : Work :=
  let before := s.vehicle v
  let s0 := s.setVehicle v (before.withAck a)
  let battery : List Latch := if s.batteryFalls before a then [⟨.batteryLow, .vehicle v, a.current⟩] else []
  let (s1, convoy) := s0.convoyAck v before.current
  let (s2, lane) := s1.laneAck v
  let (s3, couple) := s2.couplerAck v before
  { state := s3, latches := [battery, convoy, lane, couple] }

/-- A miss of v (R17): the count rises by 1, saturating at 15, and an ACQUIRING or ONLINE vehicle whose count reaches K goes
LOST, with VEHICLE_LOST latched if it was ONLINE. -/
def State.miss (s : State) (v : VehicleId) : Work :=
  let x := s.vehicle v
  let counted := { x with misses := min 15 (x.misses + 1) }
  if (x.link = .acquiring || x.link = .online) && s.limits.lostThreshold ≤ counted.misses then
    { state := (s.setVehicle v counted.goLost).loseMembers [v]
      latches := [if x.link = .online then [⟨.vehicleLost, .vehicle v, x.current⟩] else []] }
  else { state := s.setVehicle v counted }

end Sys2Proof.Machine
end

