-- ==== Sys2Proof/Machine/Channels.lean ====
section
/-! DEFINITION. What the Channel Units do at the events that several commands share (chapter 2): cycles, slot 0, entry to
and departure from SERVING, entry to LOCKING, and the end of a self-test. -/

namespace Sys2Proof.Machine

/-! ## Slots and cycles -/

/-- The slot is in the assignment's slot set: it is not slot 0, and the flag at s mod P is set (R30). -/
def Assignment.inSlotSet (a : Assignment) (slot : Nat) : Bool :=
  1 ≤ slot && slot ≤ 15 && a.pattern.getLsbD (slot % a.period)

/-- The assignment's slot set (R30). -/
def Assignment.slotSet (a : Assignment) : List Nat := (List.range 16).filter a.inSlotSet

/-- Two assignments collide (R31). -/
def Assignment.collides (a b : Assignment) : Bool :=
  a.channel = b.channel && (List.range 16).any (fun k => a.inSlotSet k && b.inSlotSet k) &&
    a.phase % min a.divisor b.divisor = b.phase % min a.divisor b.divisor

/-- The vehicle is served, as far as its own record goes (R15). -/
def Vehicle.served (x : Vehicle) : Bool :=
  x.valid && !x.inTransit && (x.link = .acquiring || x.link = .online || x.link = .lost)

/-- The vehicle whose drive slot this is (R32, R30). -/
def State.slotOwner (s : State) (c : Channel) (slot : SlotNo) : Option VehicleId :=
  (indices 64).find? (fun v =>
    let x := s.vehicle v
    x.served && x.active.channel = c && x.active.inSlotSet slot.val &&
      (s.channel c).counter % x.active.divisor = x.active.phase)

/-- Departure: the vehicle goes in transit (R11). -/
def Vehicle.depart (x : Vehicle) : Vehicle := { x with inTransit := true }

/-- Arrival: the staged assignment becomes active. On a new channel the vehicle becomes ACQUIRING with miss count 0; on an
unchanged channel its link state and count are kept (R12, assumption 9). -/
def Vehicle.arrive (x : Vehicle) (a : Assignment) : Vehicle :=
  if a.channel = x.active.channel then { x with active := a, staged := none, inTransit := false }
  else { x with active := a, staged := none, inTransit := false, link := .acquiring, misses := 0 }

/-- The staging events that a cycle start of channel c brings to one vehicle: arrival, departure, or both as one event when
the channel is unchanged (R11, R12, R29). -/
def Vehicle.stagingAt (x : Vehicle) (c : Channel) : Vehicle :=
  match x.staged with
  | some a =>
    if x.inTransit then (if a.channel = c then x.arrive a else x)
    else if x.active.channel = c then (if a.channel = c then x.arrive a else x.depart)
    else x
  | none => x

/-- A WAITING vehicle on channel c that is not in transit becomes ACQUIRING (R15). -/
def Vehicle.acquireAt (x : Vehicle) (c : Channel) : Vehicle :=
  if x.link = .waiting && !x.inTransit && x.active.channel = c then { x with link := .acquiring } else x

/-- What a cycle start of channel c does to one valid vehicle: departures and arrivals, then acquisition (R29, assumption
8). -/
def Vehicle.cycleStart (x : Vehicle) (c : Channel) : Vehicle :=
  if x.valid then (x.stagingAt c).acquireAt c else x

/-- The housekeeping slot's frame is chosen and sent: the pending poll, else the oldest direct frame, whose send limit
stops, else none (R37, R41). -/
def ChannelUnit.startSlotZero (u : ChannelUnit) : ChannelUnit :=
  match u.pendingPoll with
  | some p =>
    { u with
      slot := 0
      pendingPoll := none
      flight := some (.poll p [] false true)
      sent := (RadioFrame.identPoll (channelCode p.channel) p.address).encode }
  | none =>
    match u.direct with
    | e :: rest =>
      { u with
        slot := 0
        direct := rest
        sendLimit := if e.owned then none else u.sendLimit
        flight := some (.direct e none)
        sent := (RadioFrame.direct e.address e.payload).encode }
    | [] => { u with slot := 0, flight := none }

/-- A cycle start of a serving channel with the given counter value: staging and acquisition, then slot 0 (R29, R37). -/
def State.beginCycle (s : State) (c : Channel) (counter : Nat) : State :=
  (s.setChannel c { s.channel c with counter := counter }.startSlotZero).mapVehicles (fun _ x => x.cycleStart c)

/-! ## CHANNEL_RESTART in flight -/

/-- The head in flight is CHANNEL_RESTART of this channel. -/
def State.restarting (s : State) (c : Channel) : Bool :=
  s.inFlightCode codeChannelRestart && (match s.mgmt.entries with
    | e :: _ => e.payload[2]? = some (channelCode c)
    | [] => false)

/-- CHANNEL_RESTART in flight is answered when its channel reaches SERVING or FAILED (R28). -/
def State.answerRestart (s : State) (c : Channel) (status : ReplyStatus) : Work :=
  if s.restarting c then s.answerInFlight codeChannelRestart { status := status } else { state := s }

/-! ## Lock, self-test and failure -/

/-- The lock attempt count rises by 1, saturating at 255 (R23, R26). -/
def ChannelUnit.countAttempt (u : ChannelUnit) : ChannelUnit := { u with attempts := min 255 (u.attempts + 1) }

/-- Entry to LOCKING: a fresh acquire command, a new lock limit, one more attempt (R23). -/
def State.enterLocking (s : State) (c : Channel) : State :=
  s.setChannel c
    { (s.channel c).countAttempt with
      state := .locking
      limit := some (s.after Config.lockLimit)
      moduleCommand := .acquire }

/-- Entry to TESTING: the limit stops, the result becomes NOT_RUN, the module is switched to loopback, and the first
loopback frame is sent (R23, R24). -/
def State.enterTesting (s : State) (c : Channel) : State :=
  s.setChannel c
    { s.channel c with
      state := .testing
      limit := none
      result := .notRun
      detail := none
      testFrame := 1
      moduleCommand := .loopback
      sent := loopbackFrame 1 }

/-- Relock: back to SERVING without a self-test; the first cycle start comes at once and advances the counter (R26, R29). -/
def State.relock (s : State) (c : Channel) : State :=
  let u := s.channel c
  (s.setChannel c { u with state := .serving, limit := none }).beginCycle c ((u.counter + 1) % 4)

/-- The module's report of lock, by the channel's state: lock achieved in LOCKING, relock in RELOCKING, and nothing in
TESTING, SERVING and FAILED (R23, R26; assumption 7). -/
def State.lockReport (s : State) (c : Channel) : State :=
  match (s.channel c).state with
  | .locking => s.enterTesting c
  | .relocking => s.relock c
  | .testing => s
  | .serving => s
  | .failed => s

/-- Entry to FAILED, with a latch, and the answer to CHANNEL_RESTART in flight for the channel (R23, R25, R26, R28). -/
def State.enterFailed (s : State) (c : Channel) (latches : List Latch) : Work :=
  { s.answerRestart c .failed with latches := [latches] }

/-- The self-test passes: the module leaves loopback and the channel enters SERVING, whose first cycle has counter 0 (R25,
R29); CHANNEL_RESTART in flight is answered OK (R28). -/
def State.passTest (s : State) (c : Channel) : Work :=
  let u := { s.channel c with state := .serving, result := .pass, testFrame := 0, moduleCommand := .run }
  ((s.setChannel c u).beginCycle c 0).answerRestart c .ok

/-- The self-test fails with a detail: the channel goes to FAILED and SELFTEST_FAIL is latched once (R25). -/
def State.failTest (s : State) (c : Channel) (d : TestDetail) : Work :=
  (s.setChannel c { s.channel c with state := .failed, result := .fail, detail := some d, testFrame := 0 }).enterFailed c
    [⟨.selftestFail, .channel c, none⟩]

/-- The first index, at or after i, whose byte is not among the returned bytes as sent (R25). -/
def firstMismatch : Nat → List Byte → List Byte → Option (Nat × Byte × Option Byte)
  | _, [], _ => none
  | i, e :: _, [] => some (i, e, none)
  | i, e :: es, r :: rs => if e = r then firstMismatch (i + 1) es rs else some (i, e, some r)

/-- The module reports lock lost during the test (R25): the frame under test, the first index not yet returned, and no
received byte; index 7 when all eight were returned correctly. With eight bytes back and not all correct the manual gives
no index, which is then a free choice (assumption 15). -/
def State.lockLostInTest (s : State) (c : Channel) (returned : List Byte) : Work :=
  let k := (s.channel c).testFrame
  let bytes := loopbackFrame k
  if returned.length < 8 then
    s.failTest c ⟨k, returned.length, bytes.getD returned.length 0, none⟩
  else if (firstMismatch 0 bytes returned).isNone then s.failTest c ⟨k, 7, bytes.getD 7 0, none⟩
  else
    let (i, s1) := s.pick 8
    s1.failTest c ⟨k, i, bytes.getD i 0, none⟩

/-! ## Leaving SERVING (R27, R19, R11) -/

/-- The vehicle goes LOST when its channel c leaves SERVING (R19). -/
def Vehicle.losesChannel (x : Vehicle) (c : Channel) : Bool :=
  x.valid && !x.inTransit && x.active.channel = c &&
    (x.link = .waiting || x.link = .acquiring || x.link = .online)

/-- The vehicle departs when its channel c leaves SERVING: it has a staged assignment on another channel and has not yet
departed (R11). A vehicle already LOST departs too; R18's 'unchanged' is read as speaking of the link state (assumption
22). -/
def Vehicle.departsWith (x : Vehicle) (c : Channel) : Bool :=
  x.valid && !x.inTransit && x.active.channel = c && (match x.staged with
    | some a => a.channel ≠ c
    | none => false)

/-- What a channel leaving SERVING, or restarted, does to one vehicle: LOST, and departure when it leaves SERVING (R19,
R11). -/
def Vehicle.channelLost (x : Vehicle) (c : Channel) (leaves : Bool) : Vehicle :=
  let y := if x.losesChannel c then x.goLost else x
  if leaves && x.departsWith c then y.depart else y

/-- The vehicles of the channel go LOST, and those staged to another channel depart when it leaves SERVING; the LOST entries
are handed to the Convoy Engine (R18, R19, R11). -/
def State.vehiclesLoseChannel (s : State) (c : Channel) (leaves : Bool) : State :=
  let lost := (indices 64).filter (fun v => (s.vehicle v).losesChannel c)
  (s.mapVehicles (fun _ x => x.channelLost c leaves)).loseMembers lost

/-- A leaving vehicle whose slot ends reaches OFF (R13, R27). -/
def State.endVehicleSlot (s : State) (f : Option SlotFlight) : State :=
  match f with
  | some (.drive v _ _ _) => if (s.vehicle v).valid then s else s.setVehicle v (s.vehicle v).reachOff
  | _ => s

/-- The channel holds an owned direct frame, in its list or in slot 0 (R27). -/
def ChannelUnit.ownsDirect (u : ChannelUnit) : Bool :=
  u.direct.any (fun e => e.owned) || (match u.flight with
    | some (.direct e _) => e.owned
    | _ => false)

/-- The channel's part of a round is open: a pending poll, or a poll in slot 0 whose report counts (R27). -/
def ChannelUnit.pollOpen (u : ChannelUnit) : Bool :=
  u.pendingPoll.isSome || (match u.flight with
    | some (.poll _ _ _ counted) => counted
    | _ => false)

/-- The housekeeping queue is emptied, and the slot in flight ends (R27). -/
def ChannelUnit.clearSlots (u : ChannelUnit) : ChannelUnit :=
  { u with direct := [], sendLimit := none, pendingPoll := none, flight := none }

/-- The effects of leaving SERVING (R27), for a channel whose record has already taken its new state: the slot in flight
ends, the vehicles go LOST, direct frames are dropped, an open poll is reported closed with no response, and the command of
an owned direct frame is answered NOT_READY. `old` is the channel's record before the event. -/
def State.leaveServing (s : State) (c : Channel) (old : ChannelUnit) : Work :=
  let s1 := (s.setChannel c (s.channel c).clearSlots).endVehicleSlot old.flight
  let s2 := s1.vehiclesLoseChannel c true
  let (s3, ls) := if old.pollOpen then s2.pollReport c [] false else (s2, [])
  let w : Work := if old.ownsDirect then s3.answerInFlight codeDirectSend { status := .notReady } else { state := s3 }
  { w with latches := [ls] }

/-- Lock lost in SERVING: the channel goes to RELOCKING, CHANNEL_UNLOCK is latched, the relock limit starts, and the effects
of leaving SERVING follow (R26, R27). -/
def State.lockLostServing (s : State) (c : Channel) : Work :=
  let old := s.channel c
  let s1 := s.setChannel c { old.countAttempt with state := .relocking, limit := some (s.after Config.relockLimit) }
  let w := s1.leaveServing c old
  { w with latches := [⟨.channelUnlock, .channel c, none⟩] :: w.latches }

/-- The module's report of lock lost, by the channel's state (R23, R25, R26). -/
def State.lockLostReport (s : State) (c : Channel) (returned : List Byte) : Work :=
  match (s.channel c).state with
  | .serving => s.lockLostServing c
  | .testing => s.lockLostInTest c returned
  | .locking => { state := s }
  | .relocking => { state := s }
  | .failed => { state := s }

/-- CHANNEL_RESTART's effect on its channel (R28): LOCKING at once, counter 0, the housekeeping queue emptied; from SERVING
with the effects of R27, and from any other state with the change of R19 to its vehicles. -/
def State.restartChannel (s : State) (c : Channel) : Work :=
  let old := s.channel c
  let s1 := s.enterLocking c
  let s2 := s1.setChannel c { s1.channel c with counter := 0, testFrame := 0 }
  if old.state = .serving then s2.leaveServing c old
  else { state := (s2.setChannel c (s2.channel c).clearSlots).vehiclesLoseChannel c false }

end Sys2Proof.Machine
end

