-- ==== Sys2Proof/Machine/Operands.lean ====
section
/-! DEFINITION. Every operand form of the commands: the argument bytes of R179, the WRITE entries of R180 with the value
checks and clamps of R3, R6, R47, R115, R116 and R172, and the statuses of a WRITE (R171). -/

namespace Sys2Proof.Machine

/-! ## Table codes (R179) -/

def tableBinding : Byte := 0
def tableVehicle : Byte := 1
def tableConvoy : Byte := 2
def tableZone : Byte := 3
def tableLane : Byte := 4
def tableChannel : Byte := 5
def tableLimits : Byte := 6

/-- The tables that WRITE may name (R169). -/
def writableTables : List Byte := [tableBinding, tableVehicle, tableZone, tableLimits]

/-! ## WRITE commands (R171, R179) -/

/-- The status of one entry of a WRITE (R171). -/
inductive EntryStatus
  | ok
  | clamped
  | outOfRange
  | refused (r : Reason)
deriving DecidableEq, Repr

/-- Per-entry status codes (R179). -/
def EntryStatus.code : EntryStatus → Byte
  | .ok => 0
  | .clamped => 1
  | .outOfRange => 2
  | .refused _ => 3

/-- The reason byte of an entry: that of a refused one (R171), else 0 (R179, assumption 17). -/
def EntryStatus.reason : EntryStatus → Reason
  | .refused r => r
  | .ok => .none
  | .clamped => .none
  | .outOfRange => .none

/-- The entry was applied. -/
def EntryStatus.accepted : EntryStatus → Bool
  | .ok => true
  | .clamped => true
  | .outOfRange => false
  | .refused _ => false

/-- Status of an accepted entry (R6, R116, R172). -/
def acceptedStatus (clamped : Bool) : EntryStatus := if clamped then .clamped else .ok

/-- n entries of a fixed size, in order (R180). -/
def splitEntries (size : Nat) : Nat → List Byte → List (List Byte)
  | 0, _ => []
  | n + 1, bytes => bytes.take size :: splitEntries size n (bytes.drop size)

/-- The first index and the entries of a WRITE of the given table and write size, or none when the form is not met (R167,
R179). -/
def writeForm (table : Byte) (size : Nat) : List Byte → Option (Nat × List (List Byte))
  | t :: first :: n :: rest =>
    if t = table ∧ 1 ≤ n.toNat ∧ n.toNat ≤ 4 ∧ rest.length = n.toNat * size then
      some (first.toNat, splitEntries size n.toNat rest)
    else none
  | _ => none

/-- The WRITE is for the step of the given table: it names that table, or none that can be written, which any of the four
steps answers MALFORMED (R167, assumption 14). -/
def writeIsFor (table : Byte) : List Byte → Bool
  | t :: _ => t = table || !writableTables.contains t
  | [] => true

/-- What one entry of a WRITE comes to: the state, the entry's status, and whether it has invalidated a vehicle, so that a
start is due at the end of the WRITE (R143, R149). An entry latches nothing (R171). -/
structure Judged where
  state : State
  status : EntryStatus
  startDue : Bool := false
deriving DecidableEq, Repr

/-- Entry k of a WRITE, judged and written to the k-th index after the first (R171). -/
abbrev EntryJudge := Nat → List Byte → State → Judged

/-- What the entries of a WRITE come to, with their statuses, and whether a start is due (R171, R143). -/
structure Written where
  state : State
  statuses : List EntryStatus := []
  startDue : Bool := false
deriving DecidableEq, Repr

/-- The entries of a WRITE taken in order, each judged against the tables as those before it have left them (R171). -/
def writeEntries (judge : EntryJudge) : Nat → List (List Byte) → State → Written
  | _, [], s => { state := s }
  | index, e :: es, s =>
    let here := judge index e s
    let later := writeEntries judge (index + 1) es here.state
    ⟨later.state, here.status :: later.statuses, here.startDue || later.startDue⟩

/-- The reason field of a WRITE answered REFUSED: that of its first refused entry, or OUT_OF_RANGE when every entry was
out of range (R171). -/
def firstReason : List EntryStatus → Reason
  | [] => .outOfRange
  | .refused r :: _ => r
  | _ :: sts => firstReason sts

/-- The reply of a WRITE from its entry statuses (R171, R168). -/
def writeAnswer (sts : List EntryStatus) : Answer where
  status := if sts.all EntryStatus.accepted then .ok else if sts.any EntryStatus.accepted then .part else .refused
  reason := if sts.any EntryStatus.accepted then .none else firstReason sts
  data := sts.flatMap (fun st => [st.code, st.reason.code])

/-- The end of a WRITE: where an entry has invalidated a vehicle, a start is judged, once, at the end of the event (R143, R149,
R166; assumption 29), and an identification that starts then and fails at once latches COUPLE_UNRESOLVED (R146, assumption
11). -/
def Written.ended (w : Written) : State × List Latch := if w.startDue then w.state.judgeStart else (w.state, [])

/-- A WRITE of one table executed whole (R171): its entries, which latch nothing, its answer, and the end of the event. -/
def runWrite (table : Byte) (size : Nat) (judge : EntryJudge) (args : List Byte) (s : State) : Done :=
  match writeForm table size args with
  | some (first, entries) =>
    let w := writeEntries judge first entries s
    { state := w.ended.1, answer := writeAnswer w.statuses, latches := w.ended.2 }
  | none => .malformed s

/-! ## Entries (R180) -/

/-- The configuration fields of a vehicle entry, as stored (R3, R6). -/
structure VehicleConfig where
  valid : Bool
  kind : Kind
  assignment : Assignment
  address : Byte
  accelUp : Nat
  accelDown : Nat
  dwell : Nat
  span : Nat
  trim : Int
  loadClass : Nat
deriving DecidableEq, Repr

/-- The assignment of a vehicle entry when every *refused* field of it lies in its range and its slot set is not empty
(check 1 of R5): the flags at P and above are stored clear (R3). -/
def assignmentOf (channel period divisor phase : Byte) (pattern : Half) : Option Assignment :=
  match channelOf channel with
  | some c =>
    let a : Assignment :=
      ⟨c, period.toNat, pattern &&& BitVec.ofNat 16 (2 ^ period.toNat - 1), divisor.toNat, phase.toNat⟩
    if 1 ≤ period.toNat ∧ period.toNat ≤ 16 ∧ (divisor = 1 ∨ divisor = 2 ∨ divisor = 4) ∧
        phase.toNat < divisor.toNat ∧ !a.slotSet.isEmpty then
      some a
    else none
  | none => none

/-- The configuration part of a vehicle entry and whether a field was clamped, or none for BAD_VALUE at check 1 of R5 (R3,
R6, R180). -/
def vehicleConfigOf : List Byte → Option (VehicleConfig × Bool)
  | [valid, kind, channel, address, period, ph, pl, divisor, phase, up, down, dwell, sh, sl, trim, load] =>
    match kindOf kind, assignmentOf channel period divisor phase (halfOf ph pl) with
    | some k, some a =>
      if address = 0 ∨ address = 255 then none
      else
        let up' := clampNat 1 32 up.toNat
        let down' := clampNat 1 64 down.toNat
        let dwell' := clampNat 1 15 dwell.toNat
        let span' := clampNat 200 500 (halfOf sh sl).toNat
        let trim' := clampInt (-64) 63 trim.toInt
        let load' := clampNat 0 3 load.toNat
        some
          (⟨flagOf valid, k, a, address, up', down', dwell', span', trim', load'⟩,
            up' ≠ up.toNat || down' ≠ down.toNat || dwell' ≠ dwell.toNat || span' ≠ (halfOf sh sl).toNat ||
              trim' ≠ trim.toInt || load' ≠ load.toNat)
    | _, _ => none
  | _ => none

/-- The in-use flag of a binding entry: its state byte (R47, R180). -/
def bindingInUse (bytes : List Byte) : Bool := flagOf (bytes.headD 0)

/-- The key, class and target of a binding entry, or none for BAD_VALUE at check 1 of R47. -/
def bindingTieOf : List Byte → Option BindingTie
  | _ :: node :: group :: cls :: kind :: index :: _ =>
    match driverClassOf cls, moveUnitOf kind index with
    | some c, some t =>
      if 16 ≤ node.toNat ∧ node.toNat ≤ 63 ∧ group.toNat ≤ 3 then some ⟨node, group.toNat, c, t⟩ else none
    | _, _ => none
  | _ => none

/-- A zone entry and whether its cap was clamped, or none for BAD_VALUE at check 1 of R115 (R116, R180). -/
def zoneRangeOf : List Byte → Option (Range × Bool)
  | [valid, fh, fl, lh, ll, cap, entry, exit, marshal, junction, capacity] =>
    match presentSegmentOf fh fl, presentSegmentOf lh ll with
    | some f, some l =>
      if f.val ≤ l.val ∧ capacity.toNat ≤ 3 then
        some
          (⟨flagOf valid, f, l,
            ⟨min 127 cap.toNat, flagOf entry, flagOf exit, flagOf marshal, flagOf junction, capacity.toNat⟩⟩,
            127 < cap.toNat)
      else none
    | _, _ => none
  | _ => none

/-- The stored silence timeout: clamped to 100–2000, then rounded down to a multiple of 50 (R172). -/
def storedSilence (ms : Nat) : Nat := clampNat 100 2000 ms / 50 * 50

/-- A LIMITS entry as stored and whether a field was clamped or rounded, or none for a filter code that names neither ALL
nor SEVERE (R172, R180). -/
def limitsOf : List Byte → Option (Limits × Bool)
  | [reverse, crawl, unknown, opened, sh, sl, k, floor, band, node, eh, el, filter] =>
    let silence := (halfOf sh sl).toNat
    let l (f : CaptureFilter) : Limits :=
      ⟨min 127 reverse.toNat, min 127 crawl.toNat, min 127 unknown.toNat, min 127 opened.toNat,
        storedSilence silence, clampNat 2 15 k.toNat, floor.toNat, min 16 band.toNat, min 63 node.toNat,
        (halfOf eh el).setWidth 14, f⟩
    let clamped : Bool :=
      127 < reverse.toNat || 127 < crawl.toNat || 127 < unknown.toNat || 127 < opened.toNat ||
        storedSilence silence ≠ silence || clampNat 2 15 k.toNat ≠ k.toNat || 16 < band.toNat || 63 < node.toNat
    if filter = 0 then some (l .all, clamped)
    else if filter = 1 then some (l .severe, clamped)
    else none
  | _ => none

/-! ## The other commands (R179) -/

/-- The arguments of DIRECT_SEND (R40, R179). -/
structure DirectArgs where
  channel : Byte
  address : Byte
  expectReply : Bool
  payload : List Byte
deriving DecidableEq, Repr

/-- The form of DIRECT_SEND: the payload has its stated length, 1 to 8 (R167, R179). R179 names bit 0 of the flags byte
(expect reply) alone; that a set bit 1 to 7 is ignored and the command accepted is the model's choice (assumption 23). -/
def directArgsOf : List Byte → Option DirectArgs
  | channel :: address :: flags :: n :: payload =>
    if payload.length = n.toNat ∧ 1 ≤ n.toNat ∧ n.toNat ≤ 8 then
      some ⟨channel, address, flags.getLsbD 0, payload⟩
    else none
  | _ => none

/-- The modes of CONVOY_HOLD (R88). -/
inductive HoldMode
  | now
  | atSegment
deriving DecidableEq, Repr

/-- The mode a code byte names: NOW 0, AT_SEGMENT 1 (R179). -/
def holdModeOf (b : Byte) : Option HoldMode :=
  if b = 0 then some .now else if b = 1 then some .atSegment else none

/-- The turn request of a group byte: bits 2–3, the unassigned code taken as AHEAD (R49, R179). -/
def turnOfGroupByte (b : Byte) : Turn :=
  match (b >>> 2 &&& 3).toNat with
  | 1 => .left
  | 2 => .right
  | _ => .ahead

/-- The lever group of a group byte: bits 0–1 (R179). -/
def groupOfGroupByte (b : Byte) : Nat := (b &&& 3).toNat

end Sys2Proof.Machine
end

