-- ==== Sys2Proof/Machine/Entries.lean ====
section
/-! DEFINITION. The table entries as READ returns them (R180), and READ's reply (R170). Absent fields and list places beyond
a count are sent as 0, except that segments are 65535 and an absent gap is 255. -/

namespace Sys2Proof.Machine

/-- A payload or list filled up to n bytes with 0 (R180). -/
def padBytes (n : Nat) (bytes : List Byte) : List Byte := bytes ++ List.replicate (n - bytes.length) 0

/-- The remaining milliseconds of a silence timer, 1 to 2000, or 0 when stopped (R45, R180; assumption 16). -/
def State.timerBytes (s : State) : Option Time → List Byte
  | some t => twoBytesOf (if s.reached t then 1 else clampNat 1 2000 (t - s.fault.time).toNat)
  | none => twoBytesOf 0

/-- An entry of the BINDING table, 12 bytes (R180). -/
def State.bindingEntry (s : State) (b : Binding) : List Byte :=
  let tie : List Byte :=
    match b.tie with
    | some t => [t.node, byteOf t.group, t.cls.code, t.target.kindCode, t.target.indexByte]
    | none => [0, 0, 0, 0, 0]
  [b.state.code] ++ tie ++ [signedByte b.throttle, b.turn.code] ++ twoBytes b.aux ++ s.timerBytes b.timer

/-- The channel, P, pattern, d and phase of an assignment. -/
def assignmentBytes (a : Assignment) : List Byte :=
  [channelCode a.channel, byteOf a.period] ++ twoBytes a.pattern ++ [byteOf a.divisor, byteOf a.phase]

/-- The configuration part of a VEHICLE entry, 16 bytes (R180). -/
def vehicleConfigBytes (x : Vehicle) : List Byte :=
  [flagByte x.valid, x.kind.code, channelCode x.active.channel, x.address, byteOf x.active.period] ++
    twoBytes x.active.pattern ++ [byteOf x.active.divisor, byteOf x.active.phase, byteOf x.accelUp, byteOf x.accelDown,
    byteOf x.dwell] ++ twoBytesOf x.span ++ [signedByte x.trim, byteOf x.loadClass]

/-- The presence byte of a VEHICLE entry (R180). -/
def presenceByte (x : Vehicle) : Byte :=
  packFlags [x.current.isSome, x.ahead.isSome, x.battery.isSome, x.staged.isSome, x.stopReason.isSome,
    x.attachedBehind.isSome, x.convoy.isSome]

/-- The state part of a VEHICLE entry, 24 bytes (R180). -/
def vehicleStateBytes (x : Vehicle) : List Byte :=
  [x.link.code, byteOf x.misses, flagByte x.inTransit, presenceByte x] ++
    (match x.staged with
      | some a => assignmentBytes a
      | none => List.replicate 6 0) ++
    segmentBytes x.current ++ segmentBytes x.ahead ++
    [x.battery.getD 0, packFlags [x.fifthWheel, x.kingpin, x.rearHitch], signedByte x.speed, x.direction.code,
      byteOf x.zeroFrames, x.lastTurn.code, (x.stopReason.map StopReason.code).getD 0,
      (x.attachedBehind.map (fun a => byteOf a.1.val)).getD 0, (x.attachedBehind.map (fun a => a.2.code)).getD 0,
      (x.convoy.map (fun c => byteOf c.val)).getD 0]

/-- An entry of the VEHICLE table, 40 bytes (R180). -/
def vehicleEntry (x : Vehicle) : List Byte := vehicleConfigBytes x ++ vehicleStateBytes x

/-- A member's five bytes; a place beyond the count has an absent gap (R180). -/
def memberBytes : Option Member → List Byte
  | some m => [byteOf m.tractor.val, byteOf m.gmin, byteOf m.gmax, m.gap.byte, byteOf m.cursor]
  | none => [0, 0, 0, 255, 0]

/-- A trail entry's three bytes; a place beyond the length has an absent segment (R180). -/
def trailBytes : Option TrailEntry → List Byte
  | some e => segmentBytes (some e.segment) ++ [e.turn.code]
  | none => [255, 255, 0]

/-- A break cause's kind and vehicle (R180). -/
def causeBytes : Option BreakCause → List Byte
  | none => [0, 0]
  | some (.lost v) => [1, byteOf v.val]
  | some (.trailMiss v) => [2, byteOf v.val]

/-- An entry of the CONVOY table, 95 bytes (R180). -/
def convoyEntry (c : Convoy) : List Byte :=
  [c.state.code, byteOf c.members.length] ++ (List.range 8).flatMap (fun i => memberBytes c.members[i]?) ++
    [byteOf c.trail.length] ++ (List.range 16).flatMap (fun i => trailBytes c.trail[i]?) ++
    segmentBytes c.holdRef ++ causeBytes c.cause

/-- An entry of the ZONE table, 11 bytes (R180). -/
def zoneEntry (r : Range) : List Byte :=
  [flagByte r.valid] ++ segmentBytes (some r.first) ++ segmentBytes (some r.last) ++
    [byteOf r.rules.cap, flagByte r.rules.entry, flagByte r.rules.exit, flagByte r.rules.marshalOnly,
      flagByte r.rules.junction, byteOf r.rules.capacity]

/-- A unit byte and an index: bit 0 is the unit kind, bit 1 the entered flag (R180). -/
def unitBytes (u : MoveUnit) (entered : Bool) : List Byte :=
  [u.kindCode ||| (flagByte entered <<< 1), u.indexByte]

/-- An entry of the LANE table, 26 bytes (R180). -/
def laneEntry (l : Lane) : List Byte :=
  [byteOf l.holders.length] ++ padBytes 8 (l.holders.flatMap (fun h => unitBytes h.unit h.entered)) ++
    [byteOf l.waiting.length] ++ padBytes 16 (l.waiting.flatMap (fun u => unitBytes u false))

/-- A direct entry's eleven bytes: address, length, payload, flags (R180). -/
def directBytes (e : DirectEntry) : List Byte :=
  [e.address, byteOf e.payload.length] ++ padBytes 8 e.payload ++ [packFlags [e.expectReply, e.owned]]

/-- An entry of the CHANNEL table, 35 bytes (R180). -/
def channelEntry (u : ChannelUnit) : List Byte :=
  let detail : List Byte :=
    match u.detail with
    | some d =>
      [packFlags [true, d.received.isSome], byteOf d.frame, byteOf d.index, d.expected, d.received.getD 0]
    | none => [0, 0, 0, 0, 0]
  let poll : List Byte :=
    match u.pendingPoll with
    | some p => [1, channelCode p.channel, p.address]
    | none => [0, 0, 0]
  [u.state.code, byteOf u.counter, byteOf u.attempts, u.result.code] ++ detail ++
    [byteOf u.direct.length] ++ padBytes 22 (u.direct.flatMap directBytes) ++ poll

/-- The entry of the LIMITS table, 13 bytes (R180). -/
def limitsEntry (l : Limits) : List Byte :=
  [byteOf l.reverseCap, byteOf l.crawlCap, byteOf l.unknownCap, byteOf l.openCap] ++ twoBytesOf l.silence ++
    [byteOf l.lostThreshold, byteOf l.batteryFloor, byteOf l.neutralBand, byteOf l.alertNode] ++
    twoBytes (l.alertEnable.setWidth 16) ++ [l.filter.code]

/-- One table as READ sees it: its entry size, its entries, and the blank entry of an index beyond it (R169, R180). -/
structure TableView where
  size : Nat
  entries : List (List Byte)
  blank : List Byte
deriving DecidableEq, Repr

/-- The table a code names (R169, R179). -/
def State.table (s : State) (code : Byte) : Option TableView :=
  if code = tableBinding then
    some ⟨12, s.bindings.toList.map s.bindingEntry, List.replicate 12 0⟩
  else if code = tableVehicle then
    some ⟨40, s.vehicles.toList.map vehicleEntry,
      List.replicate 26 0 ++ [255, 255, 255, 255] ++ List.replicate 10 0⟩
  else if code = tableConvoy then
    some ⟨95, s.convoys.toList.map convoyEntry,
      [0, 0] ++ (List.range 8).flatMap (fun _ => memberBytes none) ++ [0] ++
        (List.range 16).flatMap (fun _ => trailBytes none) ++ [255, 255, 0, 0]⟩
  else if code = tableZone then
    some ⟨11, s.zones.toList.map zoneEntry, [0, 255, 255, 255, 255, 0, 0, 0, 0, 0, 0]⟩
  else if code = tableLane then
    some ⟨26, s.lanes.toList.map laneEntry, List.replicate 26 0⟩
  else if code = tableChannel then
    some ⟨35, s.channels.toList.map channelEntry, List.replicate 35 0⟩
  else if code = tableLimits then
    some ⟨13, [limitsEntry s.limits], List.replicate 13 0⟩
  else none

/-- The largest count of entries that fit beside the seven fixed bytes of a READ reply (R170, R180). -/
def TableView.largestCount (t : TableView) : Nat := 121 / (t.size + 1)

/-- The entry of an index with its per-entry status byte: OK 0, or OUT_OF_RANGE 2 and a blank entry (R170, R179). -/
def TableView.readEntry (t : TableView) (index : Nat) : List Byte :=
  match t.entries[index]? with
  | some e => 0 :: e
  | none => 2 :: t.blank

/-- The reply data of READ (R170, R179), or none when the arguments do not have its form (R167). -/
def State.readData (s : State) : List Byte → Option (List Byte)
  | [table, first, count] =>
    match s.table table with
    | some t =>
      if count = 0 then none
      else
        let n := min count.toNat t.largestCount
        some ([table, first, byteOf n] ++ (List.range n).flatMap (fun k => t.readEntry (first.toNat + k)))
    | none => none
  | _ => none

end Sys2Proof.Machine
end

