-- ==== Sys2Proof/Machine/LinkFamily.lean ====
section
/-! DEFINITION. Reset and the Link Port: POWER_ON_RESET, FRAME_CHECK_FAILURE, DRIVE, AUX, MGMT, OUTPUT_FRAME_SEND. -/

namespace Sys2Proof.Machine

/-- What a meaning answers. -/
abbrev Result := Host.Outcome State Fault Refusal

/-- POWER_ON_RESET (R20, R44, R60, R97, R109, R124, R137, R150, R159, R173, R177): every value of the block at its
power-on value and the straps sampled; an input found asserted at the end of the reset counts as an assertion edge at
that moment (R156). The model's own counter is kept. -/
def execPowerOnReset (pins : Pins) (s : State) : Result :=
  .next (Work.settle
    { state := { State.powerOn pins with freeCount := s.freeCount, pending := s.pending }
      latches :=
        [if pins.estop then [⟨.estop, .none, none⟩] else [], if pins.supply then [⟨.supplyLow, .none, none⟩] else []] })

/-- FRAME_CHECK_FAILURE (R162): LINK_CHECK is latched for bytes that fail their frame check, whatever their destination;
bytes that pass it are no such event (assumption 4). -/
def execFrameCheckFailure (bytes : List Byte) (s : State) : Result :=
  match LinkFrame.parse bytes with
  | none => .next (Work.settle { state := s, latches := [[⟨.linkCheck, linkCheckSubject bytes, none⟩]] })
  | some _ => .next s

/-- The frame is claimed: its destination is 0 or the router's own address (R163). -/
def State.claims (s : State) (destination : Byte) : Bool := destination = 0 || destination = s.link.address

/-- The source is a handset, 16 to 63 (R163). -/
def isHandset (source : Byte) : Bool := 16 ≤ source.toNat && source.toNat ≤ 63

/-- The source is a controller, 1 to 7 (R163). -/
def isController (source : Byte) : Bool := 1 ≤ source.toNat && source.toNat ≤ 7

/-- The silence timer restarted at an acceptance (R53). -/
def State.restartTimer (s : State) (b : Binding) : Binding := { b with timer := some (s.after s.limits.silence) }

/-- A DRIVE frame in the neutral band arms a DISARMED binding while E-stop is released (R52). -/
def State.arms (s : State) (throttle : Int) : Bool := throttle.natAbs ≤ s.limits.neutralBand && !s.pins.estop

/-- A binding after it accepts a DRIVE frame (R49, R52, R53): −128 is clamped to −127. -/
def State.acceptDrive (s : State) (b : Binding) (throttle : Byte) (turn : Turn) : Binding :=
  let t := max (-127) throttle.toInt
  s.restartTimer
    { b with
      throttle := t
      turn := turn
      state := if b.state = .disarmed && s.arms t then .armed else b.state }

/-- A binding after it accepts an AUX frame (R49, R53). -/
def State.acceptAux (s : State) (b : Binding) (flags : Half) : Binding := s.restartTimer { b with aux := flags }

/-- An unbound frame (R50): left alone in THROUGH mode; in END mode an UNBOUND reply is queued and UNBOUND_DRIVE is
latched (assumption 12 for their order). -/
def State.unbound (s : State) (source : Byte) (group : Nat) (cls : Byte) : State :=
  match s.link.mode with
  | .through => s
  | .last =>
    Work.settle
      { state := s.offerFrame s.reserved ⟨source, s.link.address, classUnbound, [byteOf group, cls]⟩
        latches := [[⟨.unboundDrive, .node source, none⟩]] }

/-- The Link Port at a frame of class DRIVE (R49, R50, R52, R163): one claimed, from a handset and of the right length is accepted
by the binding that matches it, or is unbound; any other is discarded or ignored (R163, R179). -/
def State.receiveDrive (s : State) (destination source : Byte) : List Byte → State
  | [g, throttle] =>
    if s.claims destination && isHandset source then
      match s.bindingWithKey source (groupOfGroupByte g) with
      | some b => s.setBinding b (s.acceptDrive (s.binding b) throttle (turnOfGroupByte g))
      | none => s.unbound source (groupOfGroupByte g) classDrive
    else s
  | _ => s

/-- DRIVE: the frame that the received bytes hold, where its class byte is DRIVE's (R163, R179). Bytes of another class, or that
fail their frame check, are no such event (assumption 4). -/
def execDrive (header : LinkHeader) (payload : List Byte) (check : Half) (s : State) : Result :=
  match LinkFrame.ofClass classDrive (linkBytes header payload check) with
  | some f => .next (s.receiveDrive f.destination f.source f.payload)
  | none => .next s

/-- The Link Port at a frame of class AUX (R49, R50, R163), as State.receiveDrive. -/
def State.receiveAux (s : State) (destination source : Byte) : List Byte → State
  | [g, high, low] =>
    if s.claims destination && isHandset source then
      match s.bindingWithKey source (groupOfGroupByte g) with
      | some b => s.setBinding b (s.acceptAux (s.binding b) (halfOf high low))
      | none => s.unbound source (groupOfGroupByte g) classAux
    else s
  | _ => s

/-- AUX: the frame that the received bytes hold, where its class byte is AUX's (R163, R179). -/
def execAux (header : LinkHeader) (payload : List Byte) (check : Half) (s : State) : Result :=
  match LinkFrame.ofClass classAux (linkBytes header payload check) with
  | some f => .next (s.receiveAux f.destination f.source f.payload)
  | none => .next s

/-- A command joins the end of the Management Queue (R165). -/
def State.queueCommand (s : State) (e : MgmtEntry) : State :=
  { s with mgmt := { s.mgmt with entries := s.mgmt.entries ++ [e] } }

/-- A broadcast payload may join the queue: its command code is STOP_ALL or NOP (R165). Of payloads too short for a code
and a tag, one byte that is such a code joins, and an empty payload is discarded; this is the model's choice (assumption
26). -/
def mayBroadcast : List Byte → Bool
  | c :: _ => c = codeStopAll || c = codeNop
  | [] => false

/-- The Link Port at a frame of class MGMT (R163, R165): a claimed one from a controller joins the Management Queue, or is
answered RETRY or discarded when the queue holds four; a broadcast that is neither STOP_ALL nor NOP is discarded. -/
def State.receiveMgmt (s : State) (destination source : Byte) (payload : List Byte) : State :=
  if s.claims destination && isController source then
    let room := s.mgmt.entries.length < 4
    if destination = 0 then (if room && mayBroadcast payload then s.queueCommand ⟨source, payload, true⟩ else s)
    else if room then s.queueCommand ⟨source, payload, false⟩
    else s.offerFrame s.reserved (s.replyTo source payload { status := .retry })
  else s

/-- MGMT: the frame that the received bytes hold, where its class byte is MGMT's (R163, R179). -/
def execMgmt (header : LinkHeader) (payload : List Byte) (check : Half) (s : State) : Result :=
  match LinkFrame.ofClass classMgmt (linkBytes header payload check) with
  | some f => .next (s.receiveMgmt f.destination f.source f.payload)
  | none => .next s

/-- OUTPUT_FRAME_SEND (R164): the oldest frame leaves the output queue as its sending begins, and is sent whole, with its frame
check (R179). -/
def execOutputFrameSend (s : State) : Result :=
  match s.link.queue with
  | f :: rest => .next { s with link := { s.link with queue := rest, sending := f.encode } }
  | [] => .next s

end Sys2Proof.Machine
end

