-- ==== Sys2Proof/Machine/MgmtFamily.lean ====
section
/-! DEFINITION. The management commands that act on no one table (chapter 11): UNKNOWN_COMMAND, NOP, STATUS, READ,
FAULT_READ, FAULT_CLEAR, STOP_ALL, RESTART. Each is executed when it is the executable head of the Management Queue
(R166), and is judged by R167. -/

namespace Sys2Proof.Machine

/-- UNKNOWN_COMMAND (R167): a head of fewer than two bytes is MALFORMED, and one whose code names no command is
UNKNOWN_COMMAND; neither changes anything. -/
def execUnknownCommand (s : State) : Result :=
  match s.ready with
  | some e =>
    if e.payload.length < 2 then .next ((Done.malformed s).finish e).settle
    else if commandCodes.contains (codeOf e.payload) then .next s
    else .next (({ state := s, answer := { status := .unknownCommand } } : Done).finish e).settle
  | none => .next s

/-- NOP's effect and answer (R175, R167): its payload of at most 64 bytes comes back. -/
def runNop (args : List Byte) (s : State) : Done := if args.length ≤ 64 then .ok s args else .malformed s

/-- NOP (R175). -/
def execNop (s : State) : Result := .next (atOnce codeNop runNop s)

/-- The number of vehicles whose record meets a test. -/
def State.countVehicles (s : State) (p : Vehicle → Bool) : Nat := s.vehicles.toList.countP p

/-- The fields of STATUS, 15 bytes (R174, R179). -/
def State.statusData (s : State) : List Byte :=
  [s.link.address, s.link.mode.code] ++ s.channels.toList.map (fun u => u.state.code) ++
    [byteOf (s.countVehicles (fun x => x.valid)), byteOf (s.countVehicles (fun x => x.valid && x.link = .online)),
      byteOf (s.countVehicles (fun x => x.valid && x.link = .lost)),
      byteOf (s.convoys.toList.countP (fun c => c.state ≠ .free)),
      packFlags [s.pins.estop, s.pins.supply], byteOf s.mgmt.entries.length, byteOf s.outCount] ++
    summaryBytes s.fault.summary

/-- STATUS's answer; it takes no arguments (R174, R167). -/
def runStatus (args : List Byte) (s : State) : Done := if args = [] then .ok s s.statusData else .malformed s

/-- STATUS (R174). -/
def execStatus (s : State) : Result := .next (atOnce codeStatus runStatus s)

/-- READ's answer (R170, R167). -/
def runRead (args : List Byte) (s : State) : Done :=
  match s.readData args with
  | some data => .ok s data
  | none => .malformed s

/-- READ (R170). -/
def execRead (s : State) : Result := .next (atOnce codeRead runRead s)

/-- The fields of FAULT_READ, 13 bytes (R157, R179). -/
def FaultUnit.readData (u : FaultUnit) : List Byte :=
  summaryBytes u.summary ++
    (match u.record with
      | some r =>
        [1, byteOf r.latch.cls.number.val] ++ r.latch.subject.bytes ++ segmentBytes r.latch.segment ++ twoBytes r.time
      | none => [0, 0, 0, 0, 255, 255, 0, 0]) ++
    [flagByte u.multiple] ++ twoBytes u.time

/-- FAULT_READ's answer (R157). -/
def runFaultRead (args : List Byte) (s : State) : Done := if args = [] then .ok s s.fault.readData else .malformed s

/-- FAULT_READ (R157). -/
def execFaultRead (s : State) : Result := .next (atOnce codeFaultRead runFaultRead s)

/-- The Fault Unit after a clear of a set of classes (R158): their summary flags become clear, and a record of one of them
becomes unlocked with the multiple flag clear. -/
def FaultUnit.clear (u : FaultUnit) (classes : BitVec 14) : FaultUnit :=
  let named :=
    match u.record with
    | some r => classes.getLsbD r.latch.cls.number.val
    | none => false
  { u with
    summary := u.summary &&& ~~~classes
    record := if named then none else u.record
    multiple := if named then false else u.multiple }

/-- FAULT_CLEAR's effect and answer (R158, R179): bit 14 or 15 names no class. -/
def runFaultClear (args : List Byte) (s : State) : Done :=
  match args with
  | [high, low] =>
    let set := halfOf high low
    if set.getLsbD 14 || set.getLsbD 15 then .refused s .badValue
    else .ok { s with fault := s.fault.clear (set.setWidth 14) }
  | _ => .malformed s

/-- FAULT_CLEAR (R158). -/
def execFaultClear (s : State) : Result := .next (atOnce codeFaultClear runFaultClear s)

/-- An ARMED binding becomes DISARMED; everything else of it is kept (R55, R56). -/
def Binding.disarm (b : Binding) : Binding := if b.state = .armed then { b with state := .disarmed } else b

/-- STOP_ALL's effect and answer (R56, R175). -/
def runStopAll (args : List Byte) (s : State) : Done :=
  if args = [] then .ok (s.mapBindings Binding.disarm) else .malformed s

/-- STOP_ALL (R56, R175). -/
def execStopAll (s : State) : Result := .next (atOnce codeStopAll runStopAll s)

/-- A convoy at RESTART: ROLLING and HOLD_PENDING become HOLDING (R97). -/
def Convoy.restart (c : Convoy) : Convoy :=
  if c.state = .rolling || c.state = .holdPending then { c with state := .holding, holdRef := none } else c

/-- A Channel Unit at RESTART: its housekeeping queue is emptied, and a poll in its slot has its report discarded (R43). -/
def ChannelUnit.restart (u : ChannelUnit) : ChannelUnit := { u.withdrawPoll with direct := [], sendLimit := none }

/-- RESTART's effect on every block (R176): the queues emptied, bindings disarmed, shaping state at rest, housekeeping
emptied, moving convoys held, identifications cancelled; the rest is kept. The head itself is left for its answer. -/
def State.restarted (s : State) : State :=
  let s1 := ((s.mapBindings Binding.disarm).mapVehicles (fun _ x => x.atRest)).mapChannels ChannelUnit.restart
  { s1.mapConvoys Convoy.restart with
    mgmt := { s.mgmt with entries := s.mgmt.entries.take 1 }
    link := { s.link with queue := [] }
    coupler := ⟨[], none⟩ }

/-- RESTART's effect and answer (R176). -/
def runRestart (args : List Byte) (s : State) : Done := if args = [] then .ok s.restarted else .malformed s

/-- RESTART (R176). -/
def execRestart (s : State) : Result := .next (atOnce codeRestart runRestart s)

end Sys2Proof.Machine
end

