-- ==== Sys2Proof/Machine/WriteFamily.lean ====
section
/-! DEFINITION. The WRITE commands: VEHICLE_WRITE (R5 to R14), BINDING_WRITE (R47, R48), ZONE_WRITE (R115 to R117) and
LIMITS_WRITE (R172). -/

namespace Sys2Proof.Machine

/-- A WRITE executed at the head, when its table is the given one (R166, R171, assumption 14). -/
def writeStep (table : Byte) (size : Nat) (judge : EntryJudge) (s : State) : State :=
  match s.readyFor codeWrite with
  | some (e, args) => if writeIsFor table args then ((runWrite table size judge args s).finish e).settle else s
  | none => s

/-! ## VEHICLE -/

/-- The vehicle is leaving: its valid is no and it has not reached OFF (chapter 1). -/
def Vehicle.leaving (x : Vehicle) : Bool := !x.valid && x.link ≠ .off

/-- The vehicle is the target of a non-empty binding (R46). -/
def State.isTarget (s : State) (v : VehicleId) : Bool := (s.ownBinding v).isSome

/-- The uses in which an invalidation is refused (R13, check 3 of R5). -/
def State.blocksInvalidation (s : State) (v : VehicleId) : Bool :=
  (s.vehicle v).convoy.isSome || s.isTarget v || s.holdsAny (.vehicle v)

/-- The uses in which a change of kind is refused (check 4 of R5). -/
def State.blocksKindChange (s : State) (v : VehicleId) : Bool :=
  (s.vehicle v).convoy.isSome || s.isTarget v || s.holdsAny (.vehicle v) || s.waitsAny (.vehicle v) ||
    (s.vehicle v).attachedBehind.isSome || (s.behind v).isSome || s.coupler.queue.contains v ||
    (s.coupler.ident.map Identification.subject) = some v

/-- The write will stage its assignment: the record is valid, and is in transit or holds another one (R10). -/
def Vehicle.stages (x : Vehicle) (a : Assignment) : Bool := x.valid && (x.inTransit || x.active ≠ a)

/-- The record occupies the channel (R7). -/
def Vehicle.occupies (x : Vehicle) (c : Channel) : Bool :=
  (x.active.channel = c && !x.inTransit) || (x.staged.map Assignment.channel) = some c

/-- The channels that the written vehicle will occupy (R7). -/
def Vehicle.willOccupy (x : Vehicle) (a : Assignment) : List Channel :=
  a.channel :: (if x.stages a && !x.inTransit then [x.active.channel] else [])

/-- Another valid vehicle occupies one of those channels with the written radio address (R7, check 5 of R5). -/
def State.duplicates (s : State) (v : VehicleId) (cfg : VehicleConfig) : Bool :=
  (indices 64).any (fun w =>
    w ≠ v && (s.vehicle w).valid && (s.vehicle w).address = cfg.address &&
      ((s.vehicle v).willOccupy cfg.assignment).any (fun c => (s.vehicle w).occupies c))

/-- The written assignment collides with the active one of another valid vehicle that is not in transit, or with another's
staged one (R8, check 6 of R5). -/
def State.collidesWithOther (s : State) (v : VehicleId) (a : Assignment) : Bool :=
  (indices 64).any (fun w =>
    let x := s.vehicle w
    w ≠ v && x.valid && ((!x.inTransit && a.collides x.active) || (match x.staged with
      | some b => a.collides b
      | none => false)))

/-- The first of checks 2 to 6 of R5 that fails. -/
def State.vehicleRefusal (s : State) (v : VehicleId) (cfg : VehicleConfig) : Option Reason :=
  let x := s.vehicle v
  if cfg.valid && x.leaving then some .notReady
  else if !cfg.valid && x.valid && s.blocksInvalidation v then some .inUse
  else if cfg.valid && cfg.kind ≠ x.kind && s.blocksKindChange v then some .inUse
  else if cfg.valid && s.duplicates v cfg then some .duplicate
  else if cfg.valid && s.collidesWithOther v cfg.assignment then some .collision
  else none

/-- The configuration fields but for the assignment stored (R10); the coupler flags that the written kind does not report
are held at no (R4, assumption 10). -/
def Vehicle.withFields (x : Vehicle) (cfg : VehicleConfig) : Vehicle :=
  { x with
    valid := cfg.valid
    kind := cfg.kind
    address := cfg.address
    accelUp := cfg.accelUp
    accelDown := cfg.accelDown
    dwell := cfg.dwell
    span := cfg.span
    trim := cfg.trim
    loadClass := cfg.loadClass
    fifthWheel := cfg.kind = .tractor && x.fifthWheel
    kingpin := cfg.kind = .trailer && x.kingpin
    rearHitch := cfg.kind = .trailer && x.rearHitch }

/-- Every configuration field stored, the assignment as the active one (R9, R13). -/
def Vehicle.withConfig (x : Vehicle) (cfg : VehicleConfig) : Vehicle :=
  { x.withFields cfg with active := cfg.assignment }

/-- An entry with valid yes to a record that is OFF: the vehicle becomes valid and WAITING with blank state (R9). -/
def Vehicle.validate (x : Vehicle) (cfg : VehicleConfig) : Vehicle :=
  { (x.withConfig cfg).blankState with link := .waiting }

/-- An entry with valid yes to a valid record: the assignment is staged or a pending change cancelled (R10), and the vehicle
departs at the write when its channel is not SERVING and the staged channel differs (R11). -/
def Vehicle.rewrite (x : Vehicle) (cfg : VehicleConfig) (channelServing : Bool) : Vehicle :=
  let y := x.withFields cfg
  if x.inTransit then { y with staged := some cfg.assignment }
  else if x.active = cfg.assignment then { y with staged := none }
  else
    { y with
      staged := some cfg.assignment
      inTransit := !channelServing && cfg.assignment.channel ≠ x.active.channel }

/-- A drive slot of the vehicle is in flight on some channel (R32). -/
def State.slotInFlight (s : State) (v : VehicleId) : Bool :=
  allChannels.any (fun c => match (s.channel c).flight with
    | some (.drive w _ _ _) => w = v
    | _ => false)

/-- Invalidation (R13): the attachments that name the vehicle are dissolved (R149), the fields are stored, staging is removed,
the vehicle reaches OFF unless a slot of it is in flight (R14), the waiting solo tractor is withdrawn, and its entry is
cancelled (R147). Nothing is latched (R149). -/
def State.invalidate (s : State) (v : VehicleId) (cfg : VehicleConfig) : State :=
  let s1 := s.dissolveNaming v
  let stored := { (s1.vehicle v).withConfig cfg with staged := none }
  let s2 := s1.setVehicle v (if s.slotInFlight v then stored else stored.reachOff)
  (s2.withdrawEverywhere (.vehicle v)).cancelEntry v

/-- An accepted vehicle entry applied (R9, R10, R13). -/
def State.applyVehicle (s : State) (v : VehicleId) (cfg : VehicleConfig) : State :=
  let x := s.vehicle v
  if cfg.valid then s.setVehicle v (if x.valid then x.rewrite cfg (s.serving x.active.channel) else x.validate cfg)
  else if x.valid then s.invalidate v cfg
  else s.setVehicle v (x.withConfig cfg)

/-- One vehicle entry judged by R5 and applied. An invalidation makes a start due (R149), also where only CONFIRMED
attachments, or none, are dissolved and no entry is cancelled (assumption 25). -/
def judgeVehicle : EntryJudge := fun index bytes s =>
  if h : index < 64 then
    match vehicleConfigOf bytes with
    | none => { state := s, status := .refused .badValue }
    | some (cfg, clamped) =>
      match s.vehicleRefusal ⟨index, h⟩ cfg with
      | some r => { state := s, status := .refused r }
      | none =>
        ⟨s.applyVehicle ⟨index, h⟩ cfg, acceptedStatus clamped, !cfg.valid && (s.vehicle ⟨index, h⟩).valid⟩
  else { state := s, status := .outOfRange }

/-- VEHICLE_WRITE (R5, R171). -/
def execVehicleWrite (s : State) : Result := .next (writeStep tableVehicle 16 judgeVehicle s)

/-! ## BINDING -/

/-- The binding is non-empty and its tie meets a test (R45). -/
def Binding.tied (b : Binding) (p : BindingTie → Bool) : Bool :=
  b.state ≠ .empty && (match b.tie with
    | some t => p t
    | none => false)

/-- The first of checks 2 to 4 of R47 that fails. -/
def State.bindingRefusal (s : State) (b : BindingId) (t : BindingTie) : Option Reason :=
  let others (p : BindingTie → Bool) : Bool := (indices 32).any (fun o => o ≠ b && (s.binding o).tied p)
  let missing : Bool :=
    match t.target with
    | .vehicle v => !(s.vehicle v).valid
    | .convoy _ => false
  if missing then some .notFound
  else if others (fun u => u.node = t.node && u.group = t.group) then some .duplicate
  else if others (fun u => u.target = t.target) then some .duplicate
  else none

/-- An accepted entry with in-use yes (R48): a new key or target leaves the binding DISARMED with blank values; an
unchanged one stores the class alone. -/
def Binding.rewrite (b : Binding) (t : BindingTie) : Binding :=
  if b.tied (fun u => u.node = t.node && u.group = t.group && u.target = t.target) then { b with tie := some t }
  else { Binding.blank with state := .disarmed, tie := some t }

/-- One binding entry judged by R47 and applied by R48. -/
def judgeBinding : EntryJudge := fun index bytes s =>
  if h : index < 32 then
    if bindingInUse bytes then
      match bindingTieOf bytes with
      | none => { state := s, status := .refused .badValue }
      | some t =>
        match s.bindingRefusal ⟨index, h⟩ t with
        | some r => { state := s, status := .refused r }
        | none => { state := s.setBinding ⟨index, h⟩ ((s.binding ⟨index, h⟩).rewrite t), status := .ok }
    else { state := s.setBinding ⟨index, h⟩ .blank, status := .ok }
  else { state := s, status := .outOfRange }

/-- BINDING_WRITE (R47, R171). -/
def execBindingWrite (s : State) : Result := .next (writeStep tableBinding 12 judgeBinding s)

/-! ## ZONE -/

/-- The lists of the range are not empty. -/
def Lane.occupied (l : Lane) : Bool := !l.holders.isEmpty || !l.waiting.isEmpty

/-- The two extents share a segment. -/
def Range.overlaps (a b : Range) : Bool := a.first.val ≤ b.last.val && b.first.val ≤ a.last.val

/-- The first of checks 2 and 3 of R115 that fails. Where presence admission has filled a range beyond its capacity, an entry
that keeps that capacity (a change of cap alone) is refused IN_USE: this reading of R115 is the model's (assumption 24). -/
def State.zoneRefusal (s : State) (r : RangeId) (z : Range) : Option Reason :=
  let old := s.zone r
  let l := s.lane r
  if old.valid && l.occupied &&
      (!z.valid || z.rules.capacity = 0 || z.rules.capacity < l.holders.length || z.first ≠ old.first ||
        z.last ≠ old.last) then
    some .inUse
  else if z.valid && (indices 32).any (fun o => o ≠ r && (s.zone o).valid && z.overlaps (s.zone o)) then some .overlap
  else none

/-- An accepted zone entry applied (R117): a changed capacity of a single-lane range is judged for a grant (R129, R136). -/
def State.applyZone (s : State) (r : RangeId) (z : Range) : State :=
  let s1 := s.setZone r z
  if z.singleLane && z.rules.capacity ≠ (s.zone r).rules.capacity then s1.grant r else s1

/-- One zone entry judged by R115 and applied by R117; its status is R116's (assumption 21). -/
def judgeZone : EntryJudge := fun index bytes s =>
  if h : index < 32 then
    match zoneRangeOf bytes with
    | none => { state := s, status := .refused .badValue }
    | some (z, clamped) =>
      match s.zoneRefusal ⟨index, h⟩ z with
      | some r => { state := s, status := .refused r }
      | none => { state := s.applyZone ⟨index, h⟩ z, status := acceptedStatus clamped }
  else { state := s, status := .outOfRange }

/-- ZONE_WRITE (R115, R171). -/
def execZoneWrite (s : State) : Result := .next (writeStep tableZone 11 judgeZone s)

/-! ## LIMITS -/

/-- One LIMITS entry judged and stored (R172). -/
def judgeLimits : EntryJudge := fun index bytes s =>
  if index = 0 then
    match limitsOf bytes with
    | none => { state := s, status := .refused .badValue }
    | some (l, clamped) => { state := { s with limits := l }, status := acceptedStatus clamped }
  else { state := s, status := .outOfRange }

/-- LIMITS_WRITE (R172, R171). -/
def execLimitsWrite (s : State) : Result := .next (writeStep tableLimits 13 judgeLimits s)

end Sys2Proof.Machine
end

