-- ==== Sys2Proof/Machine/ConvoyFamily.lean ====
section
/-! DEFINITION. The convoy commands (section 5.3), ZONE_RELEASE (R135) and the controller's coupling decisions (R148). Each
is answered at once (R83). -/

namespace Sys2Proof.Machine

/-- The vehicle's convoy field written (R80). -/
def State.setConvoyOf (s : State) (v : VehicleId) (c : Option ConvoyId) : State :=
  s.setVehicle v { s.vehicle v with convoy := c }

/-- The tractor stands in a lane list as a solo unit (check 6 of R84, check 7 of R85). -/
def State.inLaneList (s : State) (v : VehicleId) : Bool := s.holdsAny (.vehicle v) || s.waitsAny (.vehicle v)

/-- The checks that CONVOY_FORM and CONVOY_ADD make on their tractor, in order (R84, R85). -/
def State.joinRefusal (s : State) (v : VehicleId) : Option Reason :=
  if !(s.vehicle v).valid then some .notFound
  else if (s.vehicle v).kind ≠ .tractor then some .badValue
  else if (s.vehicle v).convoy.isSome then some .inUse
  else if s.inLaneList v then some .inUse
  else none

/-- CONVOY_FORM's effect (R84). -/
def State.formConvoy (s : State) (c : ConvoyId) (v : VehicleId) : State :=
  (s.setConvoy c ⟨.forming, [⟨v, 1, 1, .absent, 0⟩], [], none, none⟩).setConvoyOf v (some c)

/-- CONVOY_FORM's checks, effect and answer (R84). -/
def runConvoyForm (args : List Byte) (s : State) : Done :=
  match args with
  | [c, v] =>
    match convoyOf c, vehicleOf v with
    | some c, some v =>
      if (s.convoy c).state ≠ .free then .refused s .wrongState
      else
        match s.joinRefusal v with
        | some r => .refused s r
        | none => .ok (s.formConvoy c v)
    | _, _ => .refused s .badValue
  | _ => .malformed s

/-- CONVOY_FORM (R84). -/
def execConvoyForm (s : State) : Result := .next (atOnce codeConvoyForm runConvoyForm s)

/-- CONVOY_ADD's effect with the clamped band: the member is appended with a cursor equal to the trail length (R105), its
gap is computed at once (R91), and R104 is judged. -/
def State.addMember (s : State) (c : ConvoyId) (v : VehicleId) (gmin gmax : Nat) : State :=
  let conv := s.convoy c
  let members := s.measure (fun _ m => m = v) (conv.members ++ [⟨v, gmin, gmax, .unknown, conv.trail.length⟩])
  (s.setConvoy c { conv with members := members }.dropOldest).setConvoyOf v (some c)

/-- CONVOY_ADD's checks, effect and answer (R85): gmin is clamped to 1–4 and gmax then to gmin…8. -/
def runConvoyAdd (args : List Byte) (s : State) : Done :=
  match args with
  | [c, v, gmin, gmax] =>
    let gmin' := clampNat 1 4 gmin.toNat
    let gmax' := clampNat gmin' 8 gmax.toNat
    match convoyOf c, vehicleOf v with
    | some c, some v =>
      if (s.convoy c).state ≠ .forming ∧ (s.convoy c).state ≠ .holding then .refused s .wrongState
      else if 8 ≤ (s.convoy c).members.length then .refused s .full
      else
        match s.joinRefusal v with
        | some r => .refused s r
        | none => .ok (s.addMember c v gmin' gmax')
    | _, _ => .refused s .badValue
  | _ => .malformed s

/-- CONVOY_ADD (R85). -/
def execConvoyAdd (s : State) : Result := .next (atOnce codeConvoyAdd runConvoyAdd s)

/-- The break cause without a member that is removed (R86). -/
def causeWithout (v : VehicleId) : Option BreakCause → Option BreakCause
  | some (.lost w) => if w = v then none else some (.lost w)
  | some (.trailMiss w) => if w = v then none else some (.trailMiss w)
  | none => none

/-- The member that follows v in a list, if any. -/
def followerOf (v : VehicleId) : List Member → Option VehicleId
  | m :: n :: ms => if m.tractor = v then some n.tractor else followerOf v (n :: ms)
  | _ => none

/-- The trail cut back to the new lead's cursor, the cursors above it clamped to it, and the new lead's gap absent (R87,
R106). -/
def Convoy.promote (c : Convoy) : Convoy :=
  match c.members with
  | l :: fs =>
    { c with
      trail := c.trail.take l.cursor
      members := { l with gap := .absent } :: fs.map (fun m => { m with cursor := min m.cursor l.cursor }) }
  | [] => c

/-- The convoy's record after the removal of a member when others are left (R86, R87, R106). -/
def State.convoyWithout (s : State) (c : Convoy) (v : VehicleId) : Convoy :=
  let rest := c.members.filter (fun m => m.tractor ≠ v)
  let shorter := { c with cause := causeWithout v c.cause }
  if c.isLead v then ({ shorter with members := rest }.promote).dropOldest
  else { shorter with members := s.measure (fun _ m => followerOf v c.members = some m) rest }.dropOldest

/-- CONVOY_REMOVE's effect on the convoy c of v (R86, R87): a convoy that loses its only member becomes FREE and leaves
every waiting list. -/
def State.removeMember (s : State) (c : ConvoyId) (v : VehicleId) : State :=
  let conv := s.convoy c
  if conv.members.length ≤ 1 then ((s.setConvoy c .blank).setConvoyOf v none).withdrawEverywhere (.convoy c)
  else (s.setConvoy c (s.convoyWithout conv v)).setConvoyOf v none

/-- CONVOY_REMOVE's checks, effect and answer (R86). -/
def runConvoyRemove (args : List Byte) (s : State) : Done :=
  match args with
  | [v] =>
    match vehicleOf v with
    | some v =>
      match (s.vehicle v).convoy with
      | none => .refused s .notFound
      | some c =>
        let conv := s.convoy c
        if conv.state ≠ .forming ∧ conv.state ≠ .holding ∧ conv.state ≠ .broken then .refused s .wrongState
        else if conv.members.length ≤ 1 ∧ s.holdsAny (.convoy c) then .refused s .inUse
        else .ok (s.removeMember c v)
    | none => .refused s .badValue
  | _ => .malformed s

/-- CONVOY_REMOVE (R86, R87). -/
def execConvoyRemove (s : State) : Result := .next (atOnce codeConvoyRemove runConvoyRemove s)

/-- The current segment of a convoy's lead. -/
def State.leadSegment (s : State) (c : Convoy) : Option Segment :=
  match c.members.head? with
  | some m => (s.vehicle m.tractor).current
  | none => none

/-- CONVOY_HOLD's effect on an allocated convoy, by state and mode (R88). -/
def State.holdConvoy (s : State) (c : Convoy) (mode : HoldMode) : Convoy :=
  match c.state, mode with
  | .rolling, .now => { c with state := .holding }
  | .rolling, .atSegment =>
    match s.leadSegment c with
    | some g => { c with state := .holdPending, holdRef := some g }
    | none => { c with state := .holding }
  | .holdPending, .now => { c with state := .holding, holdRef := none }
  | .holdPending, .atSegment => c
  | .free, _ => c
  | .forming, _ => c
  | .holding, _ => c
  | .broken, _ => c

/-- CONVOY_HOLD's checks, effect and answer (R88). -/
def runConvoyHold (args : List Byte) (s : State) : Done :=
  match args with
  | [c, mode] =>
    match convoyOf c, holdModeOf mode with
    | some c, some mode =>
      if (s.convoy c).state = .free then .refused s .wrongState
      else .ok (s.setConvoy c (s.holdConvoy (s.convoy c) mode))
    | _, _ => .refused s .badValue
  | _ => .malformed s

/-- CONVOY_HOLD (R88). -/
def execConvoyHold (s : State) : Result := .next (atOnce codeConvoyHold runConvoyHold s)

/-- The break cause is TRAIL_MISS (R89). -/
def Convoy.missedTrail (c : Convoy) : Bool :=
  match c.cause with
  | some (.trailMiss _) => true
  | _ => false

/-- The first check of CONVOY_RESUME that fails, by state (R89). -/
def State.resumeRefusal (s : State) (c : Convoy) : Option Reason :=
  let stopped : Option Reason :=
    if c.missedTrail then some .wrongState
    else if c.members.all (fun m => (s.vehicle m.tractor).link = .online) then none
    else some .notReady
  match c.state with
  | .free => some .wrongState
  | .forming => stopped
  | .holding => stopped
  | .broken => stopped
  | .holdPending => none
  | .rolling => none

/-- CONVOY_RESUME's checks, effect and answer (R89): ROLLING, with any hold reference or LOST cause absent. -/
def runConvoyResume (args : List Byte) (s : State) : Done :=
  match args with
  | [c] =>
    match convoyOf c with
    | some c =>
      match s.resumeRefusal (s.convoy c) with
      | some r => .refused s r
      | none =>
        if (s.convoy c).state = .rolling then .ok s
        else .ok (s.setConvoy c { s.convoy c with state := .rolling, holdRef := none, cause := none })
    | none => .refused s .badValue
  | _ => .malformed s

/-- CONVOY_RESUME (R89). -/
def execConvoyResume (s : State) : Result := .next (atOnce codeConvoyResume runConvoyResume s)

/-- CONVOY_DISBAND's effect (R90): the convoy leaves every waiting list, every member becomes solo, and it is FREE. -/
def State.disbandConvoy (s : State) (c : ConvoyId) : State :=
  let members := (s.convoy c).members
  ((s.withdrawEverywhere (.convoy c)).setConvoy c .blank).mapVehicles (fun v x =>
    if members.any (fun m => m.tractor = v) then { x with convoy := none } else x)

/-- CONVOY_DISBAND's checks, effect and answer (R90). -/
def runConvoyDisband (args : List Byte) (s : State) : Done :=
  match args with
  | [c] =>
    match convoyOf c with
    | some c =>
      if (s.convoy c).state = .free then .refused s .wrongState
      else if s.holdsAny (.convoy c) then .refused s .inUse
      else .ok (s.disbandConvoy c)
    | none => .refused s .badValue
  | _ => .malformed s

/-- CONVOY_DISBAND (R90). -/
def execConvoyDisband (s : State) : Result := .next (atOnce codeConvoyDisband runConvoyDisband s)

/-! ## ZONE_RELEASE (R135) -/

/-- The unit leaves whichever list of the range holds it, and a grant is judged (R135, R129). -/
def State.releaseUnit (s : State) (r : RangeId) (u : MoveUnit) : State :=
  (s.setLane r (((s.lane r).dropHolder u).dropWaiting u)).grant r

/-- ZONE_RELEASE's checks, effect and answer (R135). -/
def runZoneRelease (args : List Byte) (s : State) : Done :=
  match args with
  | [r, kind, index] =>
    match rangeOf r, moveUnitOf kind index with
    | some r, some u =>
      if (s.lane r).holds u || (s.lane r).waits u then .ok (s.releaseUnit r u) else .refused s .notFound
    | _, _ => .refused s .badValue
  | _ => .malformed s

/-- ZONE_RELEASE (R135). -/
def execZoneRelease (s : State) : Result := .next (atOnce codeZoneRelease runZoneRelease s)

/-! ## COUPLE_CONFIRM and COUPLE_REJECT (R148) -/

/-- The trailer whose attachment behind x is TENTATIVE, if any (check 2 of R148). -/
def State.tentativeBehind (s : State) (x : VehicleId) : Option VehicleId :=
  match s.behind x with
  | some w => if s.isTentative w then some w else none
  | none => none

/-- A decision on the attachment behind a vehicle: its checks, its effect on the trailer, the start that R143 judges, and
its answer (R148). The decision latches nothing itself; an identification that starts and fails at once does (R146, assumption
11). -/
def runDecision (decide : VehicleId → VehicleId → State → State) (args : List Byte) (s : State) : Done :=
  match args with
  | [x] =>
    match vehicleOf x with
    | some x =>
      match s.tentativeBehind x with
      | some w =>
        let (s1, ls) := (decide x w s).judgeStart
        { state := s1, answer := { status := .ok }, latches := ls }
      | none => .refused s .wrongState
    | none => .refused s .badValue
  | _ => .malformed s

/-- The attachment becomes CONFIRMED (R148). -/
def State.confirmBehind (x w : VehicleId) (s : State) : State :=
  s.setVehicle w { s.vehicle w with attachedBehind := some (x, .confirmed) }

/-- COUPLE_CONFIRM (R148). -/
def execCoupleConfirm (s : State) : Result := .next (atOnce codeCoupleConfirm (runDecision State.confirmBehind) s)

/-- COUPLE_REJECT (R148): the trailer is detached, and those behind it stay with it. -/
def execCoupleReject (s : State) : Result :=
  .next (atOnce codeCoupleReject (runDecision (fun _ w s => s.detach w)) s)

end Sys2Proof.Machine
end

