-- ==== Sys2Proof/Machine/ChannelFamily.lean ====
section
/-! DEFINITION. The commands that go in flight, DIRECT_SEND (R40) and CHANNEL_RESTART (R28), and the module's events of a
Channel Unit: lock, self-test and limits (R23 to R26). -/

namespace Sys2Proof.Machine

/-- The first check of DIRECT_SEND that fails, or its channel (R40). -/
def State.directRefusal (s : State) (a : DirectArgs) : Except Reason Channel :=
  match channelOf a.channel with
  | some c =>
    if a.address = 0 ∨ a.address = 255 then .error .badValue
    else if (s.channel c).state ≠ .serving then .error .notReady
    else if 2 ≤ (s.channel c).direct.length then .error .full
    else .ok c
  | none => .error .badValue

/-- An accepted DIRECT_SEND: an owned entry joins the channel's list and the send limit starts (R40). -/
def State.placeDirect (s : State) (c : Channel) (a : DirectArgs) : State :=
  let u := s.channel c
  s.setChannel c
    { u with
      direct := u.direct ++ [⟨a.address, a.payload, a.expectReply, true⟩]
      sendLimit := some (s.after Config.sendLimit) }

/-- DIRECT_SEND (R40, R166): refused at once, or queued on its channel and in flight. -/
def execDirectSend (s : State) : Result :=
  match s.readyFor codeDirectSend with
  | some (e, args) =>
    match directArgsOf args with
    | some a =>
      match s.directRefusal a with
      | .ok c => .next (s.placeDirect c a).headGoesInFlight
      | .error r => .next ((Done.refused s r).finish e).settle
    | none => .next ((Done.malformed s).finish e).settle
  | none => .next s

/-- CHANNEL_RESTART (R28, R166): refused at once, or the channel enters LOCKING and the command is in flight. -/
def execChannelRestart (s : State) : Result :=
  match s.readyFor codeChannelRestart with
  | some (e, args) =>
    match args with
    | [c] =>
      match channelOf c with
      | some c => .next (s.headGoesInFlight.restartChannel c).settle
      | none => .next ((Done.refused s .badValue).finish e).settle
    | _ => .next ((Done.malformed s).finish e).settle
  | none => .next s

/-- LOCK_ACHIEVED (R23): the module reports lock. -/
def execLockAchieved (c : Channel) (s : State) : Result := .next (s.lockReport c)

/-- RELOCK (R26): the module reports lock. -/
def execRelock (c : Channel) (s : State) : Result := .next (s.lockReport c)

/-- LOCK_LIMIT_EXPIRY (R23): the running lock limit has run out in LOCKING, the channel goes to FAILED, and CHANNEL_UNLOCK is
latched; CHANNEL_RESTART in flight is answered FAILED (R28). A limit whose time is not reached does not expire (assumption
5). -/
def execLockLimitExpiry (c : Channel) (s : State) : Result :=
  let u := s.channel c
  if u.state = .locking && s.expired u.limit then
    .next ((s.setChannel c { u with state := .failed, limit := none }).enterFailed c
      [⟨.channelUnlock, .channel c, none⟩]).settle
  else .next s

/-- RELOCK_LIMIT_EXPIRY (R26): the running relock limit has run out in RELOCKING, and the channel goes to FAILED with no second
CHANNEL_UNLOCK (assumption 5). -/
def execRelockLimitExpiry (c : Channel) (s : State) : Result :=
  let u := s.channel c
  if u.state = .relocking && s.expired u.limit then
    .next ((s.setChannel c { u with state := .failed, limit := none }).enterFailed c []).settle
  else .next s

/-- LOOPBACK_WINDOW_END (R24, R25): the returned bytes are compared with the bytes sent, in index order; a mismatch fails
the test, and a match sends the next frame or, at the eighth, passes it. -/
def execLoopbackWindowEnd (c : Channel) (returned : List Byte) (s : State) : Result :=
  let u := s.channel c
  if u.state = .testing then
    match firstMismatch 0 (loopbackFrame u.testFrame) returned with
    | some (i, expected, received) => .next (s.failTest c ⟨u.testFrame, i, expected, received⟩).settle
    | none =>
      if 8 ≤ u.testFrame then .next (s.passTest c).settle
      else
        .next (s.setChannel c { u with testFrame := u.testFrame + 1, sent := loopbackFrame (u.testFrame + 1) })
  else .next s

/-- LOCK_LOST (R25, R26, R27): the module reports lock lost. -/
def execLockLost (c : Channel) (returned : List Byte) (s : State) : Result := .next (s.lockLostReport c returned).settle

end Sys2Proof.Machine
end

