-- ==== Sys2Proof/Machine/SlotFamily.lean ====
section
/-! DEFINITION. The events of the refresh cycle (sections 2.5 to 2.7): cycle starts, frame builds, received frames, window
ends, and the send limit. -/

namespace Sys2Proof.Machine

/-- CYCLE_START (R29): on a serving channel whose last slot has ended, the counter advances, the staging and acquisition
events are applied, and slot 0's frame is chosen. -/
def execCycleStart (c : Channel) (s : State) : Result :=
  let u := s.channel c
  if u.state = .serving && u.flight.isNone then .next (s.beginCycle c ((u.counter + 1) % 4)) else .next s

/-- The frame build of a vehicle in a slot: its shaping state is written, its drive frame is sent, and the slot is in flight
(R32, R75, R76). -/
def State.buildFrame (s : State) (c : Channel) (slot : SlotNo) (v : VehicleId) : State :=
  let x := s.vehicle v
  let f := s.shape v
  (s.setVehicle v (x.withFrame f)).setChannel c
    { s.channel c with
      slot := slot
      flight := some (.drive v x.address x.kind none)
      sent := (driveFrame x f).encode }

/-- FRAME_BUILD (R32): a later slot of the cycle starts on a serving channel; it is built for the vehicle it serves, or is
idle. -/
def execFrameBuild (c : Channel) (slot : SlotNo) (s : State) : Result :=
  let u := s.channel c
  if u.state = .serving && u.flight.isNone && u.slot < slot then
    match s.slotOwner c slot with
    | some v => .next (s.buildFrame c slot v)
    | none => .next (s.setChannel c { u with slot := slot })
  else .next s

/-- The slot in flight after a frame is received in its window: the first valid ack (R34) or the first valid response (R41)
is kept, and a poll keeps at most two valid replies and marks any other frame garbled (R39). -/
def SlotFlight.receive (f : SlotFlight) (bytes : List Byte) : SlotFlight :=
  match f with
  | .drive v address kind ack =>
    match ack, RadioFrame.parse bytes with
    | none, some (.ack a marker current ahead coupler battery) =>
      if a = address ∧ marker = kind.code then
        .drive v address kind (some (ackTelemetry kind current ahead coupler battery))
      else f
    | _, _ => f
  | .poll subject replies garbled counted =>
    match RadioFrame.parse bytes with
    | some (.identReply channel address own) =>
      if channel = channelCode subject.channel ∧ address = subject.address ∧ own ≠ 0 ∧ own ≠ 255 then
        .poll subject (if replies.length < 2 then replies ++ [own] else replies) garbled counted
      else .poll subject replies true counted
    | _ => .poll subject replies true counted
  | .direct e response =>
    match response, RadioFrame.parse bytes with
    | none, some (.directResponse source payload) => if source = e.address then .direct e (some payload) else f
    | _, _ => f

/-- RADIO_FRAME_RECEIVE (R34, R39, R41): a frame received in a response window is examined, and otherwise discarded. -/
def execRadioFrameReceive (c : Channel) (bytes : List Byte) (s : State) : Result :=
  match (s.channel c).flight with
  | some f => .next (s.setChannel c { s.channel c with flight := some (f.receive bytes) })
  | none => .next s

/-- The slot in flight of a channel has ended. -/
def State.endSlot (s : State) (c : Channel) : State := s.setChannel c { s.channel c with flight := none }

/-- The outcome of a drive slot's window (R35): a valid ack or a miss, or OFF for a vehicle that became leaving (R13). -/
def State.slotOutcome (s : State) (v : VehicleId) (ack : Option Ack) : Work :=
  if (s.vehicle v).valid then
    match ack with
    | some a => s.validAck v a
    | none => s.miss v
  else { state := s.setVehicle v (s.vehicle v).reachOff }

/-- RESPONSE_WINDOW_END (R35): the drive slot's outcome is handed to the Vehicle Table. -/
def execResponseWindowEnd (c : Channel) (s : State) : Result :=
  match (s.channel c).flight with
  | some (.drive v _ _ ack) => .next ((s.endSlot c).slotOutcome v ack).settle
  | _ => .next s

/-- What an owned direct frame's command is answered at its window end (R41). -/
def directAnswer (e : DirectEntry) (response : Option (List Byte)) : Answer :=
  if e.expectReply then
    match response with
    | some p => { status := .ok, data := byteOf p.length :: p }
    | none => { status := .timeout }
  else { status := .ok, data := [0] }

/-- HOUSEKEEPING_WINDOW_END (R39, R41): a poll's report is given when it still counts, or an owned direct frame's command is
answered. -/
def execHousekeepingWindowEnd (c : Channel) (s : State) : Result :=
  match (s.channel c).flight with
  | some (.poll _ replies garbled counted) =>
    if counted then
      let (s1, ls) := (s.endSlot c).pollReport c replies garbled
      .next (Work.settle { state := s1, latches := [ls] })
    else .next (s.endSlot c)
  | some (.direct e response) =>
    if e.owned then .next ((s.endSlot c).answerInFlight codeDirectSend (directAnswer e response)).settle
    else .next (s.endSlot c)
  | _ => .next s

/-- SEND_LIMIT_EXPIRY (R42): the running limit of an owned entry still in the list has run out; the command is answered
TIMEOUT and the entry stays, unowned. A limit whose time is not reached does not expire (assumption 5). -/
def execSendLimitExpiry (c : Channel) (s : State) : Result :=
  let u := s.channel c
  if s.expired u.sendLimit && u.direct.any (fun e => e.owned) then
    let u' := { u with direct := u.direct.map (fun e => { e with owned := false }), sendLimit := none }
    .next ((s.setChannel c u').answerInFlight codeDirectSend { status := .timeout }).settle
  else .next s

end Sys2Proof.Machine
end

