-- ==== Sys2Proof/Machine/InputFamily.lean ====
section
/-! DEFINITION. Timers and input pins: SILENCE_EXPIRY (R54), the E-stop and supply-monitor inputs (R55, R156), and the
millisecond of the time counter (R152). -/

namespace Sys2Proof.Machine

/-- A binding whose silence timer expires (R54). -/
def Binding.silence (b : Binding) : Binding :=
  { b with timer := none, throttle := 0, turn := .ahead, state := if b.state = .armed then .disarmed else b.state }

/-- SILENCE_EXPIRY (R54): a non-empty binding's running timer reaches its expiry time; BINDING_SILENT is latched if it was
ARMED. A timer whose expiry time lies ahead does not expire: an acceptance at the moment of the expiry, taken first, has
restarted it (R54, assumption 5). -/
def execSilenceExpiry (b : BindingId) (s : State) : Result :=
  let x := s.binding b
  if x.state ≠ .empty && s.expired x.timer then
    .next (Work.settle
      { state := s.setBinding b x.silence
        latches := [if x.state = .armed then [⟨.bindingSilent, .binding b, none⟩] else []] })
  else .next s

/-- ESTOP_ASSERTION_EDGE (R55, R156): the input goes from released to asserted; every ARMED binding becomes DISARMED and
ESTOP is latched once. An input already asserted has no such edge (assumption 4). -/
def execEstopAssertionEdge (s : State) : Result :=
  if s.pins.estop then .next s
  else
    .next (Work.settle
      { state := { s.mapBindings Binding.disarm with pins := { s.pins with estop := true } }
        latches := [[⟨.estop, .none, none⟩]] })

/-- ESTOP_RELEASE (R55, R156): the level is released, and no binding changes. -/
def execEstopRelease (s : State) : Result := .next { s with pins := { s.pins with estop := false } }

/-- SUPPLY_MONITOR_ASSERTION_EDGE (R156): the input goes from released to asserted, and SUPPLY_LOW is latched. -/
def execSupplyMonitorAssertionEdge (s : State) : Result :=
  if s.pins.supply then .next s
  else
    .next (Work.settle
      { state := { s with pins := { s.pins with supply := true } }, latches := [[⟨.supplyLow, .none, none⟩]] })

/-- SUPPLY_MONITOR_RELEASE (R156): the level is released, and nothing else changes. -/
def execSupplyMonitorRelease (s : State) : Result := .next { s with pins := { s.pins with supply := false } }

/-- TIME_COUNTER_TICK (R152): the counter rises by 1 and wraps from 65535 to 0. -/
def execTimeCounterTick (s : State) : Result := .next { s with fault := { s.fault with time := s.fault.time + 1 } }

end Sys2Proof.Machine
end

