-- ==== Sys2Proof/Machine/Dispatch.lean ====
section
/-! DEFINITION. One arm for each command, in the order of spec/opcode_table.json. -/

namespace Sys2Proof.Machine

def exec (i : Instr) (s : State) : Host.Outcome State Fault Refusal :=
  match i with
  | .powerOnReset pins => Sys2Proof.Machine.execPowerOnReset pins s
  | .frameCheckFailure bytes => Sys2Proof.Machine.execFrameCheckFailure bytes s
  | .drive header payload check => Sys2Proof.Machine.execDrive header payload check s
  | .aux header payload check => Sys2Proof.Machine.execAux header payload check s
  | .mgmt header payload check => Sys2Proof.Machine.execMgmt header payload check s
  | .outputFrameSend => Sys2Proof.Machine.execOutputFrameSend s
  | .unknownCommand => Sys2Proof.Machine.execUnknownCommand s
  | .nop => Sys2Proof.Machine.execNop s
  | .status => Sys2Proof.Machine.execStatus s
  | .read => Sys2Proof.Machine.execRead s
  | .vehicleWrite => Sys2Proof.Machine.execVehicleWrite s
  | .bindingWrite => Sys2Proof.Machine.execBindingWrite s
  | .zoneWrite => Sys2Proof.Machine.execZoneWrite s
  | .limitsWrite => Sys2Proof.Machine.execLimitsWrite s
  | .convoyForm => Sys2Proof.Machine.execConvoyForm s
  | .convoyAdd => Sys2Proof.Machine.execConvoyAdd s
  | .convoyRemove => Sys2Proof.Machine.execConvoyRemove s
  | .convoyHold => Sys2Proof.Machine.execConvoyHold s
  | .convoyResume => Sys2Proof.Machine.execConvoyResume s
  | .convoyDisband => Sys2Proof.Machine.execConvoyDisband s
  | .zoneRelease => Sys2Proof.Machine.execZoneRelease s
  | .coupleConfirm => Sys2Proof.Machine.execCoupleConfirm s
  | .coupleReject => Sys2Proof.Machine.execCoupleReject s
  | .directSend => Sys2Proof.Machine.execDirectSend s
  | .channelRestart => Sys2Proof.Machine.execChannelRestart s
  | .faultRead => Sys2Proof.Machine.execFaultRead s
  | .faultClear => Sys2Proof.Machine.execFaultClear s
  | .stopAll => Sys2Proof.Machine.execStopAll s
  | .restart => Sys2Proof.Machine.execRestart s
  | .lockAchieved channel => Sys2Proof.Machine.execLockAchieved channel s
  | .lockLimitExpiry channel => Sys2Proof.Machine.execLockLimitExpiry channel s
  | .loopbackWindowEnd channel returned => Sys2Proof.Machine.execLoopbackWindowEnd channel returned s
  | .lockLost channel returned => Sys2Proof.Machine.execLockLost channel returned s
  | .relock channel => Sys2Proof.Machine.execRelock channel s
  | .relockLimitExpiry channel => Sys2Proof.Machine.execRelockLimitExpiry channel s
  | .cycleStart channel => Sys2Proof.Machine.execCycleStart channel s
  | .frameBuild channel slot => Sys2Proof.Machine.execFrameBuild channel slot s
  | .radioFrameReceive channel bytes => Sys2Proof.Machine.execRadioFrameReceive channel bytes s
  | .responseWindowEnd channel => Sys2Proof.Machine.execResponseWindowEnd channel s
  | .housekeepingWindowEnd channel => Sys2Proof.Machine.execHousekeepingWindowEnd channel s
  | .sendLimitExpiry channel => Sys2Proof.Machine.execSendLimitExpiry channel s
  | .silenceExpiry binding => Sys2Proof.Machine.execSilenceExpiry binding s
  | .estopAssertionEdge => Sys2Proof.Machine.execEstopAssertionEdge s
  | .estopRelease => Sys2Proof.Machine.execEstopRelease s
  | .supplyMonitorAssertionEdge => Sys2Proof.Machine.execSupplyMonitorAssertionEdge s
  | .supplyMonitorRelease => Sys2Proof.Machine.execSupplyMonitorRelease s
  | .timeCounterTick => Sys2Proof.Machine.execTimeCounterTick s

end Sys2Proof.Machine
end

