-- ==== Sys2Proof/Safety.lean ====
section
/-! DEFINITION. What a sound state of the block is: the invariants that the manual states of its tables and queues. Each is
a property of one state; that every step keeps it is a statement of its own. Before them stand the words that the statements
share: what a command answers, and what one latch leaves behind. -/

namespace Sys2Proof.Machine

/-- A claim about the state a command leads to; a stop meets none. -/
def Leads (o : Host.Outcome State Fault Refusal) (p : State → Prop) : Prop := ∃ t, o = .next t ∧ p t

/-- A property that every step keeps. -/
def KeptBySteps (inv : State → Prop) : Prop := ∀ s t, inv s → step s = .next t → inv t

/-- The head of the Management Queue is a whole command from a source, with its code, tag and arguments, not broadcast and
not in flight, and the output queue has room for its reply: it is executed (R166). -/
abbrev State.hasHead (s : State) (source code tag : Byte) (args : List Byte) (rest : List MgmtEntry) : Prop :=
  s.mgmt.entries = ⟨source, code :: tag :: args, false⟩ :: rest ∧ s.mgmt.inFlight = false ∧ s.link.queue.length < 8

/-- The command has left the Management Queue, and its REPLY frame, of class code 4 with the given payload (R179), is the
last of the output queue (R166, R168). -/
abbrev State.answered (s : State) (source : Byte) (rest : List MgmtEntry) (payload : List Byte) : State :=
  { s with
    mgmt := ⟨rest, false⟩
    link := { s.link with queue := s.link.queue ++ [⟨source, s.link.address, 4, payload⟩] } }

/-- One latch has been taken: the Fault Unit holds it, and its ALERT frame, when one is due, has joined the output queue
unless that holds eight frames (R153, R154, R155). Everything else is unchanged. -/
abbrev State.latched (s : State) (l : Latch) : State :=
  { s with
    fault := s.fault.take s.limits.filter l
    link := { s.link with queue := s.link.queue ++ if s.alertDue l.cls ∧ s.outCount < 8 then [s.alertFrame l] else [] } }

/-- An order in which the latches of an event may be taken: the next is always the first one left of some block, so each
block's own order is kept, and between blocks the order is free (R151, R16, assumption 1). -/
def Interleaves : List (List Latch) → List Latch → Prop
  | blocks, [] => ∀ b ∈ blocks, b = []
  | blocks, l :: ls => ∃ pre rest post, blocks = pre ++ (l :: rest) :: post ∧ Interleaves (pre ++ rest :: post) ls

/-- The latches of an event that gives no reply have been taken, one after another in such an order. The model's own counter
of choices alone may differ besides, and only where there is a latch. -/
abbrev State.settled (s t : State) (blocks : List (List Latch)) : Prop :=
  ∃ order, Interleaves blocks order ∧ t = { order.foldl State.latched s with freeCount := t.freeCount } ∧
    (blocks.flatten = [] → t.freeCount = s.freeCount)

/-- The latches of an event that answers a command have been taken in such an order, and the reply has joined the output queue
among their alerts: until then the place kept for it counts (R164), and where it falls is open (assumption 1). -/
abbrev State.settledWith (s t : State) (source : Byte) (rest : List MgmtEntry) (payload : List Byte)
    (blocks : List (List Latch)) : Prop :=
  ∃ before after, Interleaves blocks (before ++ after) ∧
    t =
      { after.foldl State.latched
          ((before.foldl State.latched { s with mgmt := { s.mgmt with inFlight := true } }).answered source rest payload) with
        freeCount := t.freeCount } ∧
    (blocks.flatten = [] → t.freeCount = s.freeCount)

/-- Between the two states the vehicle has gone LOST. -/
abbrev State.loses (s t : State) (v : VehicleId) : Prop := (s.vehicle v).link ≠ .lost ∧ (t.vehicle v).link = .lost

/-- What the end of a channel's service does to its vehicles and their convoys (R18, R19, R11, R94). A valid vehicle of the
channel that is not in transit goes LOST from WAITING, ACQUIRING or ONLINE, and, where the channel leaves SERVING, departs
when it is staged to another channel, also when it is already LOST (assumption 22). A convoy that moves or holds and loses a
member breaks, with one of the lost members as its cause; a FORMING one and one that is BROKEN already, with or without a
cause, is kept. Every other field of a valid vehicle is kept. -/
abbrev State.serviceEnds (s t : State) (c : Channel) (leaves : Bool) : Prop :=
  (∀ v, (s.vehicle v).valid = true → (s.vehicle v).inTransit = false → (s.vehicle v).active.channel = c →
    t.vehicle v =
      { (if (s.vehicle v).link = .waiting ∨ (s.vehicle v).link = .acquiring ∨ (s.vehicle v).link = .online then
          { s.vehicle v with link := .lost, speed := 0, direction := .neutral, zeroFrames := 15 }
        else s.vehicle v) with
        inTransit :=
          (match (s.vehicle v).staged with
            | some a => leaves && decide (a.channel ≠ c)
            | none => false) }) ∧
  (∀ v, (s.vehicle v).valid = true → (s.vehicle v).inTransit = true ∨ (s.vehicle v).active.channel ≠ c →
    t.vehicle v = s.vehicle v) ∧
  (∀ i, t.convoy i = s.convoy i ∨
    ∃ v, (s.vehicle v).convoy = some i ∧ s.loses t v ∧
      ((s.convoy i).state = .rolling ∨ (s.convoy i).state = .holdPending ∨ (s.convoy i).state = .holding) ∧
      t.convoy i = { s.convoy i with state := .broken, cause := some (.lost v), holdRef := none }) ∧
  (∀ v i, (s.vehicle v).convoy = some i → s.loses t v →
    (t.convoy i).state =
      if (s.convoy i).state = .rolling ∨ (s.convoy i).state = .holdPending ∨ (s.convoy i).state = .holding then .broken
      else (s.convoy i).state)

/-! ## Identifications (R38, R143, R144, R147) -/

/-- Some vehicles have been detached, and nothing else has changed. -/
abbrev State.detached (s t : State) (gone : List VehicleId) : Prop :=
  t = { s with vehicles := t.vehicles } ∧
    ∀ w, t.vehicle w = if w ∈ gone then { s.vehicle w with attachedBehind := none } else s.vehicle w

/-- The entry of x has been cancelled (R147, R38): it is out of the queue, where the others keep their order. When the
identification in flight is x's, it is gone, every pending poll is removed, and a poll in its slot runs on with its report
discarded; a drive slot or direct frame in flight is kept. Nothing else has changed. -/
abbrev State.entryCancelled (s t : State) (x : VehicleId) : Prop :=
  t =
    { s with
      channels := t.channels
      coupler :=
        { queue := s.coupler.queue.filter (fun y => y ≠ x)
          ident := if s.coupler.ident.map Identification.subject = some x then none else s.coupler.ident } } ∧
  ∀ c, t.channel c =
    if s.coupler.ident.map Identification.subject = some x then
      { s.channel c with
        pendingPoll := none
        flight :=
          match (s.channel c).flight with
          | some (.poll p replies garbled _) => some (.poll p replies garbled false)
          | f => f }
    else s.channel c

/-- A round of the identification of x has begun (R144, R38): the identification is x's, with the round, the SERVING channels
to wait for, no reply and nothing garbled; the pending poll of each SERVING channel names x's active channel and radio
address. Nothing else has changed. -/
abbrev State.roundBegun (s t : State) (x : VehicleId) (round : Nat) : Prop :=
  t =
    { s with
      channels := t.channels
      coupler :=
        { s.coupler with
          ident := some
            { subject := x, round := round, awaiting := [.A, .B, .C, .D].filter (fun c => (s.channel c).state = .serving)
              replies := [], garbled := false } } } ∧
  ∀ c, t.channel c =
    if (s.channel c).state = .serving then
      { s.channel c with pendingPoll := some ⟨(s.vehicle x).active.channel, (s.vehicle x).address⟩ }
    else s.channel c

/-- A start has been judged (R143), with the latches it makes. With an identification in flight, or with every queued entry
blocked, nothing starts. Otherwise the oldest entry that is not blocked begins its first round where a channel is SERVING;
where none is, that entry fails at once (R144, R146), and so on to the last: each leaves the queue with COUPLE_UNRESOLVED,
once, and the blocked ones stay. -/
abbrev State.startJudged (s t : State) (latches : List Latch) : Prop :=
  (s.coupler.ident ≠ none ∨ (∀ x ∈ s.coupler.queue, s.blocked x = true) → t = s ∧ latches = []) ∧
  (s.coupler.ident = none → ∀ pre x post, s.coupler.queue = pre ++ x :: post → (∀ y ∈ pre, s.blocked y = true) →
    s.blocked x = false → (∃ c, (s.channel c).state = .serving) → s.roundBegun t x 1 ∧ latches = []) ∧
  (s.coupler.ident = none → (∀ c, (s.channel c).state ≠ .serving) →
    t = { s with coupler := { queue := s.coupler.queue.filter s.blocked, ident := none } } ∧
    latches = (s.coupler.queue.filter (fun x => !s.blocked x)).eraseDups.map
      (fun x => ⟨.coupleUnresolved, .vehicle x, (s.vehicle x).current⟩))

/-- The round of an identification has ended with the replies and the garbled mark that it holds, with the latches that makes
(R145, R146, R144). With exactly one reply, none garbled, that names a suitable trailer, this is attached behind the subject as
TENTATIVE and COUPLE_PENDING is latched with the foremost vehicle of the string and the subject's current segment. Every
other round fails: short of round 3, with a channel SERVING, the next round begins; else COUPLE_UNRESOLVED is latched with the
subject and its current segment. After a success or the last failure the entry leaves the queue and a start is judged, whose
latches come after. -/
abbrev State.roundEnded (s t : State) (i : Identification) (latches : List Latch) : Prop :=
  let left : Coupler := ⟨s.coupler.queue.filter (fun y => y ≠ i.subject), none⟩
  let named (y : VehicleId) : Prop := i.garbled = false ∧
    ∃ d address, i.replies = [(d, address)] ∧ s.occupant d address = some y ∧ s.suitable i.subject y = true
  (∀ y, named y →
    let a := s.setVehicle y { s.vehicle y with attachedBehind := some (i.subject, .tentative) }
    ∃ ls, State.startJudged { a with coupler := left } t ls ∧
      latches = ⟨.couplePending, .vehicle (a.foremost i.subject), (s.vehicle i.subject).current⟩ :: ls) ∧
  ((∀ y, ¬named y) →
    (i.round < 3 → (∃ d, (s.channel d).state = .serving) → s.roundBegun t i.subject (i.round + 1) ∧ latches = []) ∧
    (3 ≤ i.round ∨ (∀ d, (s.channel d).state ≠ .serving) →
      ∃ ls, State.startJudged { s with coupler := left } t ls ∧
        latches = ⟨.coupleUnresolved, .vehicle i.subject, (s.vehicle i.subject).current⟩ :: ls))

/-- A channel of the round has reported its replies and whether it saw a garbled frame (R39, R27, R144): while another channel
is awaited the report is kept and nothing else changes; at the last report the round ends. A channel that is not awaited
reports nothing. -/
abbrev State.reported (s t : State) (c : Channel) (replies : List Byte) (garbled : Bool) (latches : List Latch) : Prop :=
  ((∀ i ∈ s.coupler.ident, c ∉ i.awaiting) → t = s ∧ latches = []) ∧
  ∀ i ∈ s.coupler.ident, c ∈ i.awaiting →
    let heard : Identification :=
      { i with
        awaiting := i.awaiting.filter (fun d => d ≠ c)
        replies := i.replies ++ replies.map (fun a => (c, a))
        garbled := i.garbled || garbled }
    ((∃ d ∈ i.awaiting, d ≠ c) → t = { s with coupler := { s.coupler with ident := some heard } } ∧ latches = []) ∧
    ((∀ d ∈ i.awaiting, d = c) → s.roundEnded t heard latches)

/-! ## Queues and lists (R22, R79, R80, R98, R110, R125, R143, R164, R165) -/

/-- Every queue and list is within its capacity: the output queue with its reserved place 8, the Management Queue 4 with a
head whenever one is in flight and no broadcast but STOP_ALL and NOP, the direct frames 2 of 1 to 8 bytes, the holders 4,
the waiting units 8, the identification queue 4, a member list 8, a route trail 16, and a lane capacity 3. -/
def State.withinCapacity (s : State) : Prop :=
  s.outCount ≤ 8 ∧
  s.mgmt.entries.length ≤ 4 ∧
  (s.mgmt.inFlight = true → s.mgmt.entries ≠ []) ∧
  (∀ e ∈ s.mgmt.entries, e.broadcast = true → mayBroadcast e.payload = true) ∧
  (∀ c, (s.channel c).direct.length ≤ 2 ∧
    ∀ d ∈ (s.channel c).direct, 1 ≤ d.payload.length ∧ d.payload.length ≤ 8) ∧
  (∀ r, (s.lane r).holders.length ≤ 4 ∧ (s.lane r).waiting.length ≤ 8) ∧
  s.coupler.queue.length ≤ 4 ∧
  (∀ c, (s.convoy c).members.length ≤ 8 ∧ (s.convoy c).trail.length ≤ 16) ∧
  (∀ r, (s.zone r).rules.capacity ≤ 3)

/-! ## Zone Map (R115) -/

/-- No two valid ranges cover the same segment. -/
def State.rangesApart (s : State) : Prop :=
  ∀ a b, a ≠ b → ∀ g, ¬((s.zone a).covers g = true ∧ (s.zone b).covers g = true)

/-! ## Lane Arbiter (R125) -/

/-- No unit stands twice in the two lists of a range, and the lists of a range that is not single-lane are empty. -/
def State.lanesSound (s : State) : Prop :=
  ∀ r, ((s.lane r).holders.map Holder.unit ++ (s.lane r).waiting).Nodup ∧
    ((s.zone r).singleLane = false → s.lane r = ⟨[], []⟩)

/-! ## Binding Table (R46) -/

/-- No two non-empty bindings share a key, and none a target. -/
def State.bindingsDistinct (s : State) : Prop :=
  ∀ a b, a ≠ b → ∀ t u, (s.binding a).state ≠ .empty → (s.binding b).state ≠ .empty →
    (s.binding a).tie = some t → (s.binding b).tie = some u →
    ¬(t.node = u.node ∧ t.group = u.group) ∧ t.target ≠ u.target

/-! ## Vehicle Table (R3, R7, R8, R31, R66) -/

/-- An assignment is in the ranges of R3: a slot period of 1 to 16 with no flag of the pattern at the period or above, a cycle
divisor of 1, 2 or 4, and a phase below it. -/
def Assignment.inRange (a : Assignment) : Prop :=
  1 ≤ a.period ∧ a.period ≤ 16 ∧ (∀ k < 16, a.period ≤ k → a.pattern.getLsbD k = false) ∧ a.divisor ∈ [1, 2, 4] ∧
    a.phase < a.divisor

/-- The configuration fields of a vehicle are in the ranges of R3, and so is the assignment it is staged to. -/
def Vehicle.configSound (x : Vehicle) : Prop :=
  x.active.inRange ∧ (∀ a ∈ x.staged, a.inRange) ∧ 1 ≤ x.address.toNat ∧ x.address.toNat ≤ 254 ∧
    1 ≤ x.accelUp ∧ x.accelUp ≤ 32 ∧ 1 ≤ x.accelDown ∧ x.accelDown ≤ 64 ∧ 1 ≤ x.dwell ∧ x.dwell ≤ 15 ∧
    200 ≤ x.span ∧ x.span ≤ 500 ∧ -64 ≤ x.trim ∧ x.trim ≤ 63

/-- The assignments that a valid vehicle holds against the others: its active one unless it is in transit, and its staged
one (R8). -/
def Vehicle.claims (x : Vehicle) : List Assignment :=
  if x.valid then (if x.inTransit then [] else [x.active]) ++ x.staged.toList else []

/-- No two vehicles hold colliding assignments (R8, R31). -/
def State.assignmentsApart (s : State) : Prop :=
  ∀ v w, v ≠ w → ∀ a ∈ (s.vehicle v).claims, ∀ b ∈ (s.vehicle w).claims, a.collides b = false

/-- No two valid vehicles share both a channel and a radio address (R7). -/
def State.addressesApart (s : State) : Prop :=
  ∀ v w, v ≠ w → (s.vehicle v).valid = true → (s.vehicle w).valid = true →
    (s.vehicle v).address = (s.vehicle w).address → ∀ c, ¬((s.vehicle v).occupies c = true ∧ (s.vehicle w).occupies c = true)

/-- The shaping state of a vehicle agrees with itself: the speed is in range, a nonzero speed goes with its direction and a
zero-frame count of 0 (R66), and the counts and the load class are in their ranges (R4, R3). -/
def Vehicle.shapingSound (x : Vehicle) : Prop :=
  x.speed.natAbs ≤ 127 ∧ (x.speed ≠ 0 → x.direction = directionOf x.speed ∧ x.zeroFrames = 0) ∧
    x.zeroFrames ≤ 15 ∧ x.misses ≤ 15 ∧ x.loadClass ≤ 3

/-! ## Strings of vehicles (R138) -/

/-- Vehicle v is attached behind vehicle f. -/
def State.attached (s : State) (v f : VehicleId) : Prop := ((s.vehicle v).attachedBehind.map Prod.fst) = some f

/-- Only a valid trailer is attached, behind a valid vehicle, at most one vehicle behind each; what a vehicle with another
behind it is attached behind is a tractor, so that a string has no loop and at most two trailers (R138). A vehicle of the
identification queue is valid and has nothing behind it (R140, R149), and the identification in flight is that of a queued
vehicle (R143). -/
def State.stringsSound (s : State) : Prop :=
  (∀ v f, s.attached v f →
    (s.vehicle v).valid = true ∧ (s.vehicle v).kind = .trailer ∧ (s.vehicle f).valid = true ∧ f ∉ s.coupler.queue) ∧
  (∀ v w f, s.attached v f → s.attached w f → v = w) ∧
  (∀ v f g, s.attached v f → s.attached f g → (s.vehicle g).kind = .tractor) ∧
  (∀ x ∈ s.coupler.queue, (s.vehicle x).valid = true) ∧
  ∀ i ∈ s.coupler.ident, i.subject ∈ s.coupler.queue

/-! ## Convoy Engine (R79, R80, R81, R98) -/

/-- The fields of a convoy record agree with its state (R79, R81): a hold reference is present exactly in HOLD_PENDING, a break
cause only in BROKEN; a convoy has no member exactly where it is FREE, and then no trail. -/
def Convoy.fieldsSound (c : Convoy) : Prop :=
  (c.holdRef ≠ none ↔ c.state = .holdPending) ∧ (c.cause ≠ none → c.state = .broken) ∧
    (c.state = .free ↔ c.members = []) ∧ (c.state = .free → c.trail = [])

/-- The members of a convoy hold their bands and gaps as R80 says: gmin of 1 to 4, gmax of gmin to 8, no gap for the lead, and
for every follower a gap of 0 to 63 or UNKNOWN. -/
def Convoy.bandsSound (c : Convoy) : Prop :=
  (∀ m ∈ c.members, 1 ≤ m.gmin ∧ m.gmin ≤ 4 ∧ m.gmin ≤ m.gmax ∧ m.gmax ≤ 8) ∧
    (∀ m ∈ c.members.head?, m.gap = .absent) ∧
    ∀ m ∈ c.members.tail, m.gap ∈ Gap.unknown :: (List.range 64).map Gap.known

/-- The trail of a convoy agrees with its members: no tractor appears twice, every cursor lies in the trail, the lead's
is its length, and the trail is empty or some member has a cursor of 0 (R104). -/
def Convoy.cursorsSound (c : Convoy) : Prop :=
  (c.members.map Member.tractor).Nodup ∧ (∀ m ∈ c.members, m.cursor ≤ c.trail.length) ∧
    (∀ m ∈ c.members.head?, m.cursor = c.trail.length) ∧
    (c.trail = [] ∨ ∃ m ∈ c.members, m.cursor = 0)

/-- Every convoy record is sound in its cursors, its fields and its bands, and a vehicle's convoy field names a convoy exactly
where the vehicle is a member of it, and is then a valid tractor (R79, R80, R81, R98). -/
def State.convoysSound (s : State) : Prop :=
  (∀ c, (s.convoy c).cursorsSound ∧ (s.convoy c).fieldsSound ∧ (s.convoy c).bandsSound) ∧
    ∀ v c, ((s.vehicle v).convoy = some c ↔ v ∈ (s.convoy c).members.map Member.tractor) ∧
      ((s.vehicle v).convoy = some c → (s.vehicle v).valid = true ∧ (s.vehicle v).kind = .tractor)

/-! ## Fault Unit (R154, R158) -/

/-- The multiple flag is set only while the record is locked, and the class of a locked record has its summary flag set. -/
def FaultUnit.sound (u : FaultUnit) : Prop :=
  (u.multiple = true → u.record.isSome = true) ∧ ∀ r, u.record = some r → u.flag r.latch.cls = true

end Sys2Proof.Machine
end

