-- ==== Sys2Proof/Certificates/Slice0/Obligations.lean ====
section
/-! DEFINITION. The statements for the provers. Codes, statuses and reasons are written as the numbers of R179, so that a
statement does not rest on the model's own coding of them; where one uses a coding function of the model, the numbers of that
function are written out in a statement: channel states in NopAndStatusAnswer, reasons in WriteReplyFollowsEntryStatuses,
classes and subjects in LatchIsCapturedAndAlerted, channels and turns in RadioFrameRoundTrip. -/

open Sys2Proof Sys2Proof.Machine

/-! ## The machine -/

/-- The command at the front of the queue is taken, and is executed on the state with the queue's rest.

With no command waiting the block idles. This is the model's choice (assumption 3). -/
def Obligations.StepRunsFrontCommand : Prop :=
  (∀ (c : Instr) (rest : List Instr) (s : State), step { s with pending := c :: rest } = exec c { s with pending := rest }) ∧
  (∀ s : State, s.pending = [] → step s = .next s)

/-- No command stops the block, and none touches the commands that wait.

That POWER_ON_RESET too keeps the commands still waiting is the model's choice (assumption 20). -/
def Obligations.EveryCommandGoesOn : Prop :=
  ∀ (c : Instr) (s : State), Leads (exec c s) fun t => t.pending = s.pending

/-! ## Reset -/

/-- The tables and queues right after a power-on reset (R20, R44, R60, R97, R124, R137, R150, R159, R173, R177).

POWER_ON_RESET from any state: every table, queue and record is at its value of `State.reset`, the straps are sampled,
and an input found asserted is latched at time 0 (R156, R161, R51). That the commands still waiting stay in the queue is the
model's choice (assumption 20). -/
def Obligations.PowerOnResetRestoresEverything : Prop :=
  ((∀ v, State.reset.vehicle v =
      { valid := false, kind := .tractor, active := ⟨.A, 1, 0, 1, 0⟩, address := 1, accelUp := 1, accelDown := 1, dwell := 1,
        span := 200, trim := 0, loadClass := 0, link := .off, misses := 0, inTransit := false, staged := none,
        current := none, ahead := none, battery := none, fifthWheel := false, kingpin := false, rearHitch := false,
        speed := 0, direction := .neutral, zeroFrames := 15, lastTurn := .ahead, stopReason := none,
        attachedBehind := none, convoy := none }) ∧
    (∀ b, State.reset.binding b = ⟨.empty, none, 0, .ahead, 0, none⟩) ∧
    (∀ c, let u := State.reset.channel c
      u.state = .locking ∧ u.counter = 0 ∧ u.attempts = 1 ∧ u.result = .notRun ∧ u.detail = none ∧ u.direct = [] ∧
        u.pendingPoll = none ∧ u.limit.isSome = true ∧ u.sendLimit = none ∧ u.flight = none) ∧
    (∀ c, State.reset.convoy c = ⟨.free, [], [], none, none⟩) ∧
    (∀ r, State.reset.zone r = ⟨false, 0, 0, ⟨0, true, true, false, false, 0⟩⟩) ∧
    (∀ r, State.reset.lane r = ⟨[], []⟩) ∧
    State.reset.coupler = ⟨[], none⟩ ∧
    State.reset.fault = ⟨0, none, false, 0⟩ ∧
    State.reset.limits = ⟨48, 24, 16, 100, 500, 6, 150, 4, 0, 0, .all⟩ ∧
    State.reset.mgmt = ⟨[], false⟩ ∧ State.reset.link.queue = [] ∧ State.reset.link.sending = []) ∧
  (∀ (pins : Pins) (s : State), Leads (exec (.powerOnReset pins) s) fun t =>
      t.pins = pins ∧ t.link = ⟨8 + pins.straps.setWidth 8, if pins.endStrap then .last else .through, [], []⟩ ∧
      t.mgmt = State.reset.mgmt ∧ t.bindings = State.reset.bindings ∧ t.vehicles = State.reset.vehicles ∧
      t.channels = State.reset.channels ∧ t.convoys = State.reset.convoys ∧ t.zones = State.reset.zones ∧
      t.lanes = State.reset.lanes ∧ t.coupler = State.reset.coupler ∧ t.limits = State.reset.limits ∧
      t.fault.time = 0 ∧
      (∀ k, t.fault.flag k = true ↔ (k = .estop ∧ pins.estop = true) ∨ (k = .supplyLow ∧ pins.supply = true)) ∧
      (t.fault.record.isSome = (pins.estop || pins.supply)) ∧
      (∀ r ∈ t.fault.record, r.time = 0 ∧ r.latch.subject = .none ∧ r.latch.segment = none ∧
        ((r.latch.cls = .estop ∧ pins.estop = true) ∨ (r.latch.cls = .supplyLow ∧ pins.supply = true))) ∧
      t.fault.multiple = (pins.estop && pins.supply) ∧ t.pending = s.pending)

/-! ## Link frames -/

/-- A received frame fails its frame check in the four cases of R162, and then it is discarded, whatever its destination,
with one LINK_CHECK latch; its subject is the source node of a header received whole that names one, else NONE. -/
def Obligations.FailedFrameCheckIsDiscardedAndLatched : Prop :=
  (∀ bytes : List Byte, LinkFrame.parse bytes = none ↔
    (bytes.length < 6 ∨ (bytes.getD 3 0).toNat ≠ bytes.length - 6 ∨ 128 < (bytes.getD 3 0).toNat ∨
      bytes.drop (bytes.length - 2) ≠ twoBytes (linkCheck (bytes.take (bytes.length - 2))))) ∧
  (∀ (bytes : List Byte) (s : State), LinkFrame.parse bytes = none →
    exec (.frameCheckFailure bytes) s = .next (s.latched
      ⟨.linkCheck,
        if 4 ≤ bytes.length ∧ (bytes.getD 1 0).toNat ≤ 63 then .node (bytes.getD 1 0) else .none, none⟩))

/-- A DRIVE frame (class code 1) of a handset, claimed by the router and matched by a binding, updates that binding and nothing
else (R49, R52, R53, R163, R179). The expiry time is kept in milliseconds of the time counter (assumption 5).

An AUX frame (class code 2) of a handset, claimed and matched, changes the binding's aux flags and restarts its timer; it arms
nothing (R49, R52, R53, R163; assumption 5 for the timer).

The binding that matches a node and a lever group is a non-empty one with that key, and none matches only where no such
binding stands (R46). -/
def Obligations.HandsetFrameUpdatesMatchingBinding : Prop :=
  (∀ (header : LinkHeader) (received : List Byte) (check : Half)
      (destination source g throttle : Byte) (b : BindingId) (s : State),
      LinkFrame.parse (linkBytes header received check) = some ⟨destination, source, 1, [g, throttle]⟩ →
      (destination = 0 ∨ destination = s.link.address) → 16 ≤ source.toNat → source.toNat ≤ 63 →
      s.bindingWithKey source (g.toNat % 4) = some b →
      exec (.drive header received check) s = .next
        (s.setBinding b
          { s.binding b with
            throttle := max (-127) throttle.toInt
            turn := if g.toNat / 4 % 4 = 1 then .left else if g.toNat / 4 % 4 = 2 then .right else .ahead
            timer := some (s.fault.time + BitVec.ofNat 16 s.limits.silence)
            state :=
              if (s.binding b).state = .disarmed ∧ (max (-127) throttle.toInt).natAbs ≤ s.limits.neutralBand ∧
                s.pins.estop = false then .armed else (s.binding b).state })) ∧
  (∀ (header : LinkHeader) (received : List Byte) (check : Half)
      (destination source g high low : Byte) (b : BindingId) (s : State),
      LinkFrame.parse (linkBytes header received check) = some ⟨destination, source, 2, [g, high, low]⟩ →
      (destination = 0 ∨ destination = s.link.address) → 16 ≤ source.toNat → source.toNat ≤ 63 →
      s.bindingWithKey source (g.toNat % 4) = some b →
      exec (.aux header received check) s = .next
        (s.setBinding b
          { s.binding b with
            aux := BitVec.ofNat 16 (high.toNat * 256 + low.toNat)
            timer := some (s.fault.time + BitVec.ofNat 16 s.limits.silence) })) ∧
  (∀ (node : Byte) (group : Nat) (s : State),
      let matching (b : BindingId) : Prop := (s.binding b).state ≠ .empty ∧
        ∃ t ∈ (s.binding b).tie, t.node = node ∧ t.group = group
      (∀ b, s.bindingWithKey node group = some b → matching b) ∧
      (s.bindingWithKey node group = none → ∀ b, ¬matching b) ∧
      (s.bindingsDistinct → ∀ b, matching b → s.bindingWithKey node group = some b))

/-- A claimed handset frame that no binding matches: in THROUGH mode nothing changes; in END mode an UNBOUND reply to the
source, class code 6, naming the lever group and the class of the frame, joins the output queue unless that holds eight, and
UNBOUND_DRIVE is latched all the same (R50, R164). That the reply joins before the alert is the model's choice (assumption
12).

A DRIVE or AUX frame that is not claimed, that comes from no handset, or whose payload length is not its class's, changes
nothing (R163, R179). The class byte of the frame says which it is: one of another class code is no DRIVE and no AUX. A frame that
fails its frame check is no DRIVE, AUX or MGMT, and one that passes it is no FRAME_CHECK_FAILURE: there they change nothing
(assumption 4).

What the output queue holds: its frames, and a place for the reply of a command in flight (R164). -/
def Obligations.HandsetFrameWithoutBindingChangesNone : Prop :=
  (∀ (header : LinkHeader) (received : List Byte) (check : Half)
      (destination source g x y : Byte) (s : State),
      (destination = 0 ∨ destination = s.link.address) → 16 ≤ source.toNat → source.toNat ≤ 63 →
      s.bindingWithKey source (g.toNat % 4) = none →
      ∀ p ∈ [(Instr.drive header received check, (1 : Byte), [g, x]), (Instr.aux header received check, 2, [g, x, y])],
        LinkFrame.parse (linkBytes header received check) = some ⟨destination, source, p.2.1, p.2.2⟩ →
        (s.link.mode = .through → exec p.1 s = .next s) ∧
        (s.link.mode = .last → exec p.1 s = .next
          (State.latched
            { s with
              link :=
                { s.link with
                  queue := s.link.queue ++
                    if s.outCount < 8 then [⟨source, s.link.address, 6, [BitVec.ofNat 8 (g.toNat % 4), p.2.1]⟩] else [] } }
            ⟨.unboundDrive, .node source, none⟩))) ∧
  (∀ (header : LinkHeader) (received : List Byte) (check : Half) (f : LinkFrame) (s : State),
      LinkFrame.parse (linkBytes header received check) = some f →
      ((f.destination ≠ 0 ∧ f.destination ≠ s.link.address) ∨ f.source.toNat < 16 ∨ 63 < f.source.toNat ∨ f.cls ≠ 1 ∨
          f.payload.length ≠ 2 →
        exec (.drive header received check) s = .next s) ∧
      ((f.destination ≠ 0 ∧ f.destination ≠ s.link.address) ∨ f.source.toNat < 16 ∨ 63 < f.source.toNat ∨ f.cls ≠ 2 ∨
          f.payload.length ≠ 3 →
        exec (.aux header received check) s = .next s)) ∧
  (∀ (bytes : List Byte) (f : LinkFrame) (s : State), LinkFrame.parse bytes = some f →
    exec (.frameCheckFailure bytes) s = .next s) ∧
  (∀ (header : LinkHeader) (received : List Byte) (check : Half) (s : State),
      LinkFrame.parse (linkBytes header received check) = none →
    ∀ i ∈ [Instr.drive header received check, .aux header received check, .mgmt header received check], exec i s = .next s) ∧
  (∀ s : State, s.outCount = s.link.queue.length + if s.mgmt.inFlight then 1 else 0)

/-- A MGMT frame (class code 3) that passes its frame check (R163, R165, R179): from a controller to the router's own address it
joins the Management Queue, or is answered RETRY when that holds four; the RETRY to a payload of fewer than two bytes carries
its code byte or 0, and tag 0 (R168, assumption 19); a broadcast joins when it is STOP_ALL or NOP and there is room; every
other one changes nothing, and a frame of another class code is no MGMT. That a broadcast of one byte naming STOP_ALL or NOP
joins too, and an empty one does not, is the model's choice (assumption 26). -/
def Obligations.MgmtFrameIsQueuedOrRefused : Prop :=
  (∀ (header : LinkHeader) (received : List Byte) (check : Half)
      (destination source : Byte) (payload : List Byte) (s : State),
    LinkFrame.parse (linkBytes header received check) = some ⟨destination, source, 3, payload⟩ →
    (destination = s.link.address → destination ≠ 0 → 1 ≤ source.toNat → source.toNat ≤ 7 → s.mgmt.entries.length < 4 →
      exec (.mgmt header received check) s =
        .next { s with mgmt := { s.mgmt with entries := s.mgmt.entries ++ [⟨source, payload, false⟩] } }) ∧
    (destination = s.link.address → destination ≠ 0 → 1 ≤ source.toNat → source.toNat ≤ 7 → 4 ≤ s.mgmt.entries.length →
      ∀ code tag args, payload = code :: tag :: args →
      exec (.mgmt header received check) s = .next
        { s with
          link :=
            { s.link with
              queue := s.link.queue ++
                if s.outCount < 8 then [⟨source, s.link.address, 4, [code, tag, 3, 0]⟩] else [] } }) ∧
    (destination = s.link.address → destination ≠ 0 → 1 ≤ source.toNat → source.toNat ≤ 7 → 4 ≤ s.mgmt.entries.length →
      payload.length < 2 →
      exec (.mgmt header received check) s = .next
        { s with
          link :=
            { s.link with
              queue := s.link.queue ++
                if s.outCount < 8 then [⟨source, s.link.address, 4, [payload.headD 0, 0, 3, 0]⟩] else [] } }) ∧
    (destination = 0 → 1 ≤ source.toNat → source.toNat ≤ 7 →
      exec (.mgmt header received check) s = .next
        (if s.mgmt.entries.length < 4 ∧ (payload.head? = some 62 ∨ payload.head? = some 0) then
          { s with mgmt := { s.mgmt with entries := s.mgmt.entries ++ [⟨source, payload, true⟩] } }
        else s)) ∧
    ((destination ≠ 0 ∧ destination ≠ s.link.address) ∨ source.toNat < 1 ∨ 7 < source.toNat →
      exec (.mgmt header received check) s = .next s)) ∧
  (∀ (header : LinkHeader) (received : List Byte) (check : Half) (f : LinkFrame) (s : State),
      LinkFrame.parse (linkBytes header received check) = some f → f.cls ≠ 3 →
      exec (.mgmt header received check) s = .next s)

/-- OUTPUT_FRAME_SEND takes the oldest frame off the output queue as its sending begins, and sends its bytes: header, payload and
frame check (R164, R179). What the link carries is kept in `sending` (assumption 13). -/
def Obligations.OldestOutputFrameIsSent : Prop :=
  ∀ (f : LinkFrame) (rest : List LinkFrame) (s : State),
    exec .outputFrameSend { s with link := { s.link with queue := f :: rest } } =
      .next
        (let body : List Byte := [f.destination, f.source, f.cls, BitVec.ofNat 8 f.payload.length] ++ f.payload
        { s with link := { s.link with queue := rest, sending := body ++ twoBytes (linkCheck body) } })

/-! ## Management commands -/

/-- A head whose code names no command is answered UNKNOWN_COMMAND (4), and one too short for a code and a tag MALFORMED (5)
with tag 0; nothing else changes (R167).

A command whose argument bytes are not as many as it requires is answered MALFORMED (5) and changes nothing (R167,
R179).

A head that is in flight, or that is not broadcast and finds the output queue holding eight frames, a reserved place counted,
waits: it is not executed, and nothing changes (R166, R164). -/
def Obligations.MalformedOrUnknownCommandIsAnswered : Prop :=
  ((∀ (source code tag : Byte) (args : List Byte) (rest : List MgmtEntry) (s : State),
      s.hasHead source code tag args rest →
      code ∉ ([0, 1, 2, 3, 16, 17, 18, 19, 20, 21, 24, 26, 27, 32, 33, 48, 49, 62, 63] : List Byte) →
      exec .unknownCommand s = .next (s.answered source rest [code, tag, 4, 0])) ∧
    (∀ (source : Byte) (payload : List Byte) (rest : List MgmtEntry) (s : State),
      s.mgmt.entries = ⟨source, payload, false⟩ :: rest → s.mgmt.inFlight = false → s.link.queue.length < 8 →
      payload.length < 2 →
      exec .unknownCommand s = .next (s.answered source rest [payload.headD 0, 0, 5, 0]))) ∧
  (∀ p ∈ [(Instr.status, (1 : Byte), 0), (.read, 2, 3), (.convoyForm, 16, 2), (.convoyAdd, 17, 4), (.convoyRemove, 18, 1),
        (.convoyHold, 19, 2), (.convoyResume, 20, 1), (.convoyDisband, 21, 1), (.zoneRelease, 24, 3),
        (.coupleConfirm, 26, 1), (.coupleReject, 27, 1), (.channelRestart, 33, 1), (.faultRead, 48, 0),
        (.faultClear, 49, 2), (.stopAll, 62, 0), (.restart, 63, 0)],
      ∀ (source tag : Byte) (args : List Byte) (rest : List MgmtEntry) (s : State),
        s.hasHead source p.2.1 tag args rest → args.length ≠ p.2.2 →
        exec p.1 s = .next (s.answered source rest [p.2.1, tag, 5, 0])) ∧
  (∀ i ∈ [Instr.unknownCommand, .nop, .status, .read, .vehicleWrite, .bindingWrite, .zoneWrite, .limitsWrite, .convoyForm,
        .convoyAdd, .convoyRemove, .convoyHold, .convoyResume, .convoyDisband, .zoneRelease, .coupleConfirm, .coupleReject,
        .directSend, .channelRestart, .faultRead, .faultClear, .stopAll, .restart],
      ∀ s : State,
        s.mgmt.inFlight = true ∨ (8 ≤ s.outCount ∧ ∀ e ∈ s.mgmt.entries.head?, e.broadcast = false) →
        exec i s = .next s)

/-- NOP returns its payload of at most 64 bytes, and a longer one is MALFORMED (R175, R167).

STATUS returns its fifteen bytes and changes nothing (R174, R179). That the bits of its input byte which no rule names are
sent as 0 is the model's choice (assumption 28).

A channel's state code is 0 to 4 in the order LOCKING, TESTING, SERVING, RELOCKING, FAILED (R178). -/
def Obligations.NopAndStatusAnswer : Prop :=
  (∀ (source tag : Byte) (args : List Byte) (rest : List MgmtEntry) (s : State), s.hasHead source 0 tag args rest →
      (args.length ≤ 64 → exec .nop s = .next (s.answered source rest ([0, tag, 0, 0] ++ args))) ∧
      (64 < args.length → exec .nop s = .next (s.answered source rest [0, tag, 5, 0]))) ∧
  (∀ (source tag : Byte) (rest : List MgmtEntry) (s : State), s.hasHead source 1 tag [] rest →
      exec .status s = .next (s.answered source rest
        ([1, tag, 0, 0] ++
          [s.link.address, if s.link.mode = .last then 1 else 0, (s.channel .A).state.code, (s.channel .B).state.code,
            (s.channel .C).state.code, (s.channel .D).state.code,
            BitVec.ofNat 8 (s.vehicles.toList.countP (fun x => x.valid)),
            BitVec.ofNat 8 (s.vehicles.toList.countP (fun x => x.valid && x.link = .online)),
            BitVec.ofNat 8 (s.vehicles.toList.countP (fun x => x.valid && x.link = .lost)),
            BitVec.ofNat 8 (s.convoys.toList.countP (fun c => c.state ≠ .free)),
            (if s.pins.estop then 1 else 0) + (if s.pins.supply then 2 else 0),
            BitVec.ofNat 8 (rest.length + 1), BitVec.ofNat 8 s.link.queue.length,
            BitVec.ofNat 8 (s.fault.summary.toNat / 256), BitVec.ofNat 8 s.fault.summary.toNat]))) ∧
  ([ChannelState.locking, .testing, .serving, .relocking, .failed].map ChannelState.code = ([0, 1, 2, 3, 4] : List Byte))

/-- STOP_ALL makes every ARMED binding DISARMED and changes nothing else of any binding or block (R56, R175).

A broadcast NOP leaves the queue with no effect and no reply, and a broadcast STOP_ALL with its effect and no reply, even
when the output queue is full (R166, R175).

RESTART (R176): its reply is the one frame of the output queue, the commands behind it are gone, and each block is as its
rule says (R21, R43, R56, R97, R150): of a channel the housekeeping queue is emptied and a poll in its slot no longer counts,
a drive slot or direct frame in flight running on as it is; every other part of the block is kept. -/
def Obligations.StopAllAndRestartDisarm : Prop :=
  (∀ (source tag : Byte) (rest : List MgmtEntry) (s : State), s.hasHead source 62 tag [] rest →
      Leads (exec .stopAll s) fun t =>
        t = State.answered { s with bindings := t.bindings } source rest [62, tag, 0, 0] ∧
        ∀ b, t.binding b =
          { s.binding b with state := if (s.binding b).state = .armed then .disarmed else (s.binding b).state }) ∧
  (∀ (source tag : Byte) (args : List Byte) (rest : List MgmtEntry) (s : State), s.mgmt.inFlight = false →
      (s.mgmt.entries = ⟨source, 0 :: tag :: args, true⟩ :: rest →
        exec .nop s = .next { s with mgmt := ⟨rest, false⟩ }) ∧
      (s.mgmt.entries = ⟨source, [62, tag], true⟩ :: rest →
        exec .stopAll s = .next { s.mapBindings Binding.disarm with mgmt := ⟨rest, false⟩ })) ∧
  (∀ (source tag : Byte) (rest : List MgmtEntry) (s : State), s.hasHead source 63 tag [] rest →
      Leads (exec .restart s) fun t =>
        t =
          { s with
            bindings := t.bindings, vehicles := t.vehicles, channels := t.channels, convoys := t.convoys
            coupler := ⟨[], none⟩, mgmt := ⟨[], false⟩
            link := { s.link with queue := [⟨source, s.link.address, 4, [63, tag, 0, 0]⟩] } } ∧
        (∀ b, t.binding b =
          { s.binding b with state := if (s.binding b).state = .armed then .disarmed else (s.binding b).state }) ∧
        (∀ v, t.vehicle v = { s.vehicle v with speed := 0, direction := .neutral, zeroFrames := 15 }) ∧
        (∀ c, t.channel c =
          { s.channel c with
            direct := [], sendLimit := none, pendingPoll := none
            flight :=
              match (s.channel c).flight with
              | some (.poll p replies garbled _) => some (.poll p replies garbled false)
              | f => f }) ∧
        (∀ c, t.convoy c =
          if (s.convoy c).state = .rolling ∨ (s.convoy c).state = .holdPending then
            { s.convoy c with state := .holding, holdRef := none }
          else s.convoy c))

/-- READ returns the entries of a table from the first index on, as many as asked and as fit, each after its status byte; a
table code that names none, or a count of 0, is MALFORMED; nothing changes (R170, R167, R179).

The seven tables have the numbers of entries of R169 and the entry sizes of R180, a blank entry included, in every state
within its capacities; no other code names a table. The bytes of their entries and of the blank ones are those of R180, flags
and yes/no bytes that are yes sent as 1 (assumption 27), bits of packed bytes that no rule names as 0 (assumption 28), and a
running silence timer by its expiry time (assumption 16). -/
def Obligations.ReadReturnsEntries : Prop :=
  (∀ (source tag table first count : Byte) (rest : List MgmtEntry) (s : State),
      s.hasHead source 2 tag [table, first, count] rest →
      (∀ t, s.table table = some t → count ≠ 0 →
        exec .read s = .next (s.answered source rest
          ([2, tag, 0, 0, table, first, BitVec.ofNat 8 (min count.toNat (121 / (t.size + 1)))] ++
            (List.range (min count.toNat (121 / (t.size + 1)))).flatMap (fun k =>
              match t.entries[first.toNat + k]? with
              | some e => 0 :: e
              | none => 2 :: t.blank)))) ∧
      (s.table table = none ∨ count = 0 → exec .read s = .next (s.answered source rest [2, tag, 5, 0]))) ∧
  (∀ s : State, s.withinCapacity →
      (∀ p ∈ [((0 : Byte), 32, 12), (1, 64, 40), (2, 12, 95), (3, 32, 11), (4, 32, 26), (5, 4, 35), (6, 1, 13)],
        ∃ t, s.table p.1 = some t ∧ t.entries.length = p.2.1 ∧ t.size = p.2.2 ∧ t.blank.length = p.2.2 ∧
          ∀ e ∈ t.entries, e.length = p.2.2) ∧
      (∀ code : Byte, 6 < code.toNat → s.table code = none)) ∧
  (∀ s : State,
    let byte (n : Nat) : Byte := BitVec.ofNat 8 n
    let two (n : Nat) : List Byte := [BitVec.ofNat 8 (n / 256), BitVec.ofNat 8 n]
    let yes (b : Bool) : Byte := if b then 1 else 0
    let bits (l : List Bool) : Byte := byte ((l.zipIdx.map (fun p => if p.1 then 2 ^ p.2 else 0)).sum)
    let segment (g : Option Segment) : List Byte := match g with
      | some g => two g.val
      | none => [255, 255]
    let turn (x : Turn) : Byte := match x with
      | .ahead => 0
      | .left => 1
      | .right => 2
    let channel (c : Channel) : Byte := match c with
      | .A => 0
      | .B => 1
      | .C => 2
      | .D => 3
    let unit (u : MoveUnit) (entered : Bool) : List Byte := match u with
      | .convoy c => [if entered then 2 else 0, byte c.val]
      | .vehicle v => [if entered then 3 else 1, byte v.val]
    let filled (n : Nat) (l : List Byte) : List Byte := l ++ List.replicate (n - l.length) 0
    let assignment (a : Assignment) : List Byte :=
      [channel a.channel, byte a.period] ++ two a.pattern.toNat ++ [byte a.divisor, byte a.phase]
    let member (m : Option Member) : List Byte := match m with
      | some m => [byte m.tractor.val, byte m.gmin, byte m.gmax, (match m.gap with
          | .known n => byte n
          | .unknown => 254
          | .absent => 255), byte m.cursor]
      | none => [0, 0, 0, 255, 0]
    let entry (e : Option TrailEntry) : List Byte := match e with
      | some e => two e.segment.val ++ [turn e.turn]
      | none => [255, 255, 0]
    s.table 0 = some ⟨12, s.bindings.toList.map (fun b =>
      [((match b.state with
          | .empty => 0
          | .disarmed => 1
          | .armed => 2) : Byte)] ++
      (match b.tie with
        | some t => [t.node, byte t.group, (match t.cls with
            | .driver => 0
            | .marshal => 1)] ++ unit t.target false
        | none => [0, 0, 0, 0, 0]) ++
      [BitVec.ofInt 8 b.throttle, turn b.turn] ++ two b.aux.toNat ++
      (match b.timer with
        | some t =>
          two (if (s.fault.time - t).toNat < 32768 then 1 else max 1 (min 2000 (t - s.fault.time).toNat))
        | none => [0, 0])), List.replicate 12 0⟩ ∧
    s.table 1 = some ⟨40, s.vehicles.toList.map (fun x =>
      [yes x.valid, (match x.kind with
          | .tractor => 0
          | .trailer => 1), channel x.active.channel, x.address, byte x.active.period] ++ two x.active.pattern.toNat ++
      [byte x.active.divisor, byte x.active.phase, byte x.accelUp, byte x.accelDown, byte x.dwell] ++ two x.span ++
      [BitVec.ofInt 8 x.trim, byte x.loadClass, (match x.link with
          | .off => 0
          | .waiting => 1
          | .acquiring => 2
          | .online => 3
          | .lost => 4), byte x.misses, yes x.inTransit,
        bits [x.current.isSome, x.ahead.isSome, x.battery.isSome, x.staged.isSome, x.stopReason.isSome,
          x.attachedBehind.isSome, x.convoy.isSome]] ++
      (match x.staged with
        | some a => assignment a
        | none => [0, 0, 0, 0, 0, 0]) ++
      segment x.current ++ segment x.ahead ++
      [(match x.battery with
          | some b => b
          | none => 0), bits [x.fifthWheel, x.kingpin, x.rearHitch], BitVec.ofInt 8 x.speed, (match x.direction with
          | .neutral => 0
          | .forward => 1
          | .reverse => 2), byte x.zeroFrames, turn x.lastTurn, (match x.stopReason with
          | none => 0
          | some .entryClosed => 1
          | some .exitClosed => 2
          | some .marshalOnly => 3
          | some .laneWait => 4
          | some .trailFull => 5
          | some .trailMiss => 6)] ++
      (match x.attachedBehind with
        | some (f, .tentative) => [byte f.val, 0]
        | some (f, .confirmed) => [byte f.val, 1]
        | none => [0, 0]) ++
      [match x.convoy with
        | some c => byte c.val
        | none => 0]), List.replicate 26 0 ++ List.replicate 4 255 ++ List.replicate 10 0⟩ ∧
    s.table 2 = some ⟨95, s.convoys.toList.map (fun c =>
      [(match c.state with
          | .free => 0
          | .forming => 1
          | .rolling => 2
          | .holdPending => 3
          | .holding => 4
          | .broken => 5), byte c.members.length] ++
      (List.range 8).flatMap (fun i => member c.members[i]?) ++ [byte c.trail.length] ++
      (List.range 16).flatMap (fun i => entry c.trail[i]?) ++ segment c.holdRef ++
      (match c.cause with
        | none => [0, 0]
        | some (.lost v) => [1, byte v.val]
        | some (.trailMiss v) => [2, byte v.val])),
      [0, 0] ++ (List.replicate 8 [0, 0, 0, 255, 0]).flatten ++ [0] ++ (List.replicate 16 [255, 255, 0]).flatten ++
        [255, 255, 0, 0]⟩ ∧
    s.table 3 = some ⟨11, s.zones.toList.map (fun z =>
      [yes z.valid] ++ two z.first.val ++ two z.last.val ++
      [byte z.rules.cap, yes z.rules.entry, yes z.rules.exit, yes z.rules.marshalOnly, yes z.rules.junction,
        byte z.rules.capacity]), [0, 255, 255, 255, 255, 0, 0, 0, 0, 0, 0]⟩ ∧
    s.table 4 = some ⟨26, s.lanes.toList.map (fun l =>
      [byte l.holders.length] ++ filled 8 (l.holders.flatMap (fun h => unit h.unit h.entered)) ++
      [byte l.waiting.length] ++ filled 16 (l.waiting.flatMap (fun u => unit u false))), List.replicate 26 0⟩ ∧
    s.table 5 = some ⟨35, s.channels.toList.map (fun u =>
      [(match u.state with
          | .locking => 0
          | .testing => 1
          | .serving => 2
          | .relocking => 3
          | .failed => 4), byte u.counter, byte u.attempts, (match u.result with
          | .notRun => 0
          | .pass => 1
          | .fail => 2)] ++
      (match u.detail with
        | some ⟨frame, index, expected, some r⟩ => [3, byte frame, byte index, expected, r]
        | some ⟨frame, index, expected, none⟩ => [1, byte frame, byte index, expected, 0]
        | none => [0, 0, 0, 0, 0]) ++
      [byte u.direct.length] ++
      filled 22 (u.direct.flatMap (fun e =>
        [e.address, byte e.payload.length] ++ filled 8 e.payload ++ [bits [e.expectReply, e.owned]])) ++
      (match u.pendingPoll with
        | some p => [1, channel p.channel, p.address]
        | none => [0, 0, 0])), List.replicate 35 0⟩ ∧
    s.table 6 = some ⟨13,
      [[byte s.limits.reverseCap, byte s.limits.crawlCap, byte s.limits.unknownCap, byte s.limits.openCap] ++
        two s.limits.silence ++
        [byte s.limits.lostThreshold, byte s.limits.batteryFloor, byte s.limits.neutralBand, byte s.limits.alertNode] ++
        two s.limits.alertEnable.toNat ++ [((match s.limits.filter with
          | .all => 0
          | .severe => 1) : Byte)]], List.replicate 13 0⟩)

/-- The reply of a WRITE: OK when every entry was applied, PARTIAL when some were, else REFUSED with the reason of its first
refused entry or OUT_OF_RANGE when every entry was out of range; its data are every entry's status and reason (R171,
R168). That a byte of reason 0 goes with an entry that is not refused is assumption 17.

A WRITE of one to four whole entries takes them in order, each judged against the tables as those before it have left them;
the entries latch nothing (R171). Where one of them has invalidated a vehicle, a start is judged at the end of the event, once
(R143, R149; assumption 29), and latches COUPLE_UNRESOLVED alone, where an identification starts then and fails at once (R146;
assumption 11). With another count or length the WRITE is MALFORMED (5), with fewer than three argument bytes too, and so is
one whose table code names no writable table, which any of the four steps may take (assumption 14); an index beyond its table
is OUT_OF_RANGE and changes nothing (R167, R169, R171, R180).

The reason bytes run from none 0 to NOT_FOUND 10 (R179). -/
def Obligations.WriteReplyFollowsEntryStatuses : Prop :=
  (∀ p ∈ [(Instr.vehicleWrite, (1 : Byte), 16, 64, judgeVehicle), (.bindingWrite, 0, 12, 32, judgeBinding),
      (.zoneWrite, 3, 11, 32, judgeZone), (.limitsWrite, 6, 13, 1, judgeLimits)],
    (∀ (source tag first n : Byte) (entries : List (List Byte)) (rest : List MgmtEntry) (s : State),
      s.hasHead source 3 tag (p.2.1 :: first :: n :: entries.flatten) rest → n.toNat = entries.length →
      1 ≤ n.toNat → n.toNat ≤ 4 → (∀ e ∈ entries, e.length = p.2.2.1) →
      let w := writeEntries p.2.2.2.2 first.toNat entries s
      (Leads (exec p.1 s) fun t => ∃ j ls,
        (w.startDue = true → w.state.startJudged j ls) ∧ (w.startDue = false → j = w.state ∧ ls = []) ∧
        j.settledWith t source rest
          ([3, tag, (writeAnswer w.statuses).status.code, (writeAnswer w.statuses).reason.code] ++
            (writeAnswer w.statuses).data) [ls]) ∧
      w.state.fault = s.fault ∧ w.state.link = s.link ∧ w.state.freeCount = s.freeCount ∧
      (w.startDue = true → p.1 = .vehicleWrite)) ∧
    (∀ (source tag first n : Byte) (bytes : List Byte) (rest : List MgmtEntry) (s : State),
      s.hasHead source 3 tag (p.2.1 :: first :: n :: bytes) rest →
      n.toNat < 1 ∨ 4 < n.toNat ∨ bytes.length ≠ n.toNat * p.2.2.1 →
      exec p.1 s = .next (s.answered source rest [3, tag, 5, 0])) ∧
    (∀ (source tag : Byte) (args : List Byte) (rest : List MgmtEntry) (s : State),
      s.hasHead source 3 tag args rest → args.length < 3 → args = [] ∨ args.head? = some p.2.1 →
      exec p.1 s = .next (s.answered source rest [3, tag, 5, 0])) ∧
    (∀ (source tag table : Byte) (bytes : List Byte) (rest : List MgmtEntry) (s : State),
      s.hasHead source 3 tag (table :: bytes) rest → table ∉ ([0, 1, 3, 6] : List Byte) →
      exec p.1 s = .next (s.answered source rest [3, tag, 5, 0])) ∧
    (∀ (source tag first : Byte) (bytes : List Byte) (rest : List MgmtEntry) (s : State),
      s.hasHead source 3 tag (p.2.1 :: first :: 1 :: bytes) rest → bytes.length = p.2.2.1 → p.2.2.2.1 ≤ first.toNat →
      exec p.1 s = .next (s.answered source rest [3, tag, 2, 1, 2, 0]))) ∧
  (∀ (judge : EntryJudge) (index : Nat) (s : State), writeEntries judge index [] s = ⟨s, [], false⟩) ∧
  (∀ (judge : EntryJudge) (index : Nat) (e : List Byte) (es : List (List Byte)) (s : State),
    writeEntries judge index (e :: es) s =
      let here := judge index e s
      let later := writeEntries judge (index + 1) es here.state
      ⟨later.state, here.status :: later.statuses, here.startDue || later.startDue⟩) ∧
  (∀ (index : Nat) (bytes : List Byte) (s : State), (judgeVehicle index bytes s).startDue = true ↔
    ∃ (h : index < 64) (cfg : VehicleConfig) (clamped : Bool), vehicleConfigOf bytes = some (cfg, clamped) ∧
      cfg.valid = false ∧ (s.vehicle ⟨index, h⟩).valid = true ∧ s.vehicleRefusal ⟨index, h⟩ cfg = none) ∧
  ∀ sts : List EntryStatus, sts ≠ [] →
    (writeAnswer sts).data = sts.flatMap (fun st => match st with
      | .ok => [0, 0]
      | .clamped => [1, 0]
      | .outOfRange => [2, 0]
      | .refused r => [3, r.code]) ∧
    ((∀ st ∈ sts, st = .ok ∨ st = .clamped) →
      (writeAnswer sts).status.code = 0 ∧ (writeAnswer sts).reason.code = 0) ∧
    ((∃ st ∈ sts, st = .ok ∨ st = .clamped) → (∃ st ∈ sts, st ≠ .ok ∧ st ≠ .clamped) →
      (writeAnswer sts).status.code = 1 ∧ (writeAnswer sts).reason.code = 0) ∧
    ((∀ st ∈ sts, st ≠ .ok ∧ st ≠ .clamped) →
      (writeAnswer sts).status.code = 2 ∧
        ((∀ st ∈ sts, st = .outOfRange) → (writeAnswer sts).reason.code = 1) ∧
        (∀ (n : Nat) (r : Reason) (post : List EntryStatus), sts = List.replicate n .outOfRange ++ .refused r :: post →
          (writeAnswer sts).reason = r)) ∧
    [Reason.none, .outOfRange, .inUse, .notReady, .duplicate, .overlap, .collision, .badValue, .wrongState, .full,
      .notFound].map Reason.code = ([0, 1, 2, 3, 4, 5, 6, 7, 8, 9, 10] : List Byte)

/-- FAULT_READ returns the summary flags, the record, the multiple flag and the time counter, 13 bytes, and changes nothing
(R157, R179). That a yes is sent as 1 is the model's choice (assumption 27).

FAULT_CLEAR: a set with bit 14 or 15 is refused BAD_VALUE (7); otherwise the named summary flags become clear, and a
record of a named class becomes unlocked with the multiple flag clear; the time counter and everything else are kept
(R158, R179). -/
def Obligations.FaultReadAndClear : Prop :=
  (∀ (source tag : Byte) (rest : List MgmtEntry) (s : State), s.hasHead source 48 tag [] rest →
      exec .faultRead s = .next (s.answered source rest
        ([48, tag, 0, 0, BitVec.ofNat 8 (s.fault.summary.toNat / 256), BitVec.ofNat 8 s.fault.summary.toNat] ++
          (match s.fault.record with
            | none => [0, 0, 0, 0, 255, 255, 0, 0]
            | some r => [1, BitVec.ofNat 8 r.latch.cls.number.val] ++ r.latch.subject.bytes ++
                (match r.latch.segment with
                  | some g => [BitVec.ofNat 8 (g.val / 256), BitVec.ofNat 8 g.val]
                  | none => [255, 255]) ++
                [BitVec.ofNat 8 (r.time.toNat / 256), BitVec.ofNat 8 r.time.toNat]) ++
          [if s.fault.multiple then 1 else 0, BitVec.ofNat 8 (s.fault.time.toNat / 256),
            BitVec.ofNat 8 s.fault.time.toNat]))) ∧
  (∀ (source tag high low : Byte) (rest : List MgmtEntry) (s : State), s.hasHead source 49 tag [high, low] rest →
      (64 ≤ high.toNat → exec .faultClear s = .next (s.answered source rest [49, tag, 2, 7])) ∧
      (high.toNat < 64 → Leads (exec .faultClear s) fun t =>
        t = State.answered { s with fault := t.fault } source rest [49, tag, 0, 0] ∧
        (∀ k, t.fault.flag k = (s.fault.flag k && !((high.toNat * 256 + low.toNat).testBit k.number.val))) ∧
        t.fault.time = s.fault.time ∧
        (s.fault.record = none → t.fault.record = none ∧ t.fault.multiple = s.fault.multiple) ∧
        (∀ r, s.fault.record = some r →
          if (high.toNat * 256 + low.toNat).testBit r.latch.cls.number.val then
            t.fault.record = none ∧ t.fault.multiple = false
          else t.fault.record = some r ∧ t.fault.multiple = s.fault.multiple)))

/-! ## WRITE -/

/-- A vehicle entry that a check of R5 refuses changes no table: its status is 3 with the reason of the first check that
fails, and the WRITE is answered REFUSED (R5, R171).

A vehicle entry with valid yes for a record that is not valid, passing every check: the vehicle is WAITING with the
written configuration and blank state fields, and nothing else changes (R9, R171). One with valid no for such a record stores
the configuration fields (R13), where a coupler flag that the written kind does not report is no (assumption 10).

A vehicle entry with valid yes for a valid record, passing every check: the other fields are stored at once, and the
assignment is kept, staged, or staged with a departure at the write, by the table of R10 and the second case of R11.

Check 1 of R5 and the stored fields: a refused field out of its range or an empty slot set is BAD_VALUE, pattern flags at P and
above are stored clear, and a clamped field is the nearer limit (R3, R6, R30, R180). Checks 2 to 6 in their order, with the
reasons' codes (R5, R7, R8). What storing the fields but for the assignment does (R10, R4; assumption 10). -/
def Obligations.VehicleEntryIsJudgedAndApplied : Prop :=
  (∀ (source tag : Byte) (rest : List MgmtEntry) (v : VehicleId) (bytes : List Byte) (s : State),
      s.hasHead source 3 tag (1 :: BitVec.ofNat 8 v.val :: 1 :: bytes) rest → bytes.length = 16 →
      (vehicleConfigOf bytes = none → exec .vehicleWrite s = .next (s.answered source rest [3, tag, 2, 7, 3, 7])) ∧
      (∀ cfg clamped r, vehicleConfigOf bytes = some (cfg, clamped) → s.vehicleRefusal v cfg = some r →
        exec .vehicleWrite s = .next (s.answered source rest [3, tag, 2, r.code, 3, r.code]))) ∧
  (∀ (source tag : Byte) (rest : List MgmtEntry) (v : VehicleId) (bytes : List Byte) (cfg : VehicleConfig) (clamped : Bool)
      (s : State),
      s.hasHead source 3 tag (1 :: BitVec.ofNat 8 v.val :: 1 :: bytes) rest → bytes.length = 16 →
      vehicleConfigOf bytes = some (cfg, clamped) → cfg.valid = true → (s.vehicle v).valid = false →
      s.vehicleRefusal v cfg = none →
      exec .vehicleWrite s = .next
        ((s.setVehicle v
          { valid := true, kind := cfg.kind, active := cfg.assignment, address := cfg.address, accelUp := cfg.accelUp,
            accelDown := cfg.accelDown, dwell := cfg.dwell, span := cfg.span, trim := cfg.trim, loadClass := cfg.loadClass,
            link := .waiting, misses := 0, inTransit := false, staged := none, current := none, ahead := none,
            battery := none, fifthWheel := false, kingpin := false, rearHitch := false, speed := 0, direction := .neutral,
            zeroFrames := 15, lastTurn := .ahead, stopReason := none, attachedBehind := none, convoy := none }).answered
          source rest [3, tag, 0, 0, if clamped then 1 else 0, 0])) ∧
  (∀ (source tag : Byte) (rest : List MgmtEntry) (v : VehicleId) (bytes : List Byte) (cfg : VehicleConfig) (clamped : Bool)
      (s : State),
      s.hasHead source 3 tag (1 :: BitVec.ofNat 8 v.val :: 1 :: bytes) rest → bytes.length = 16 →
      vehicleConfigOf bytes = some (cfg, clamped) → cfg.valid = true → (s.vehicle v).valid = true →
      s.vehicleRefusal v cfg = none →
      exec .vehicleWrite s = .next
        ((s.setVehicle v
          { (s.vehicle v).withFields cfg with
            staged :=
              if (s.vehicle v).inTransit = false ∧ (s.vehicle v).active = cfg.assignment then none else some cfg.assignment
            inTransit :=
              if (s.vehicle v).inTransit = true then true
              else if (s.vehicle v).active = cfg.assignment then false
              else decide ((s.channel (s.vehicle v).active.channel).state ≠ .serving ∧
                cfg.assignment.channel ≠ (s.vehicle v).active.channel) }).answered
          source rest [3, tag, 0, 0, if clamped then 1 else 0, 0])) ∧
  (∀ (source tag : Byte) (rest : List MgmtEntry) (v : VehicleId) (bytes : List Byte) (cfg : VehicleConfig) (clamped : Bool)
      (s : State),
      s.hasHead source 3 tag (1 :: BitVec.ofNat 8 v.val :: 1 :: bytes) rest → bytes.length = 16 →
      vehicleConfigOf bytes = some (cfg, clamped) → cfg.valid = false → (s.vehicle v).valid = false →
      s.vehicleRefusal v cfg = none →
      exec .vehicleWrite s = .next
        ((s.setVehicle v { (s.vehicle v).withFields cfg with active := cfg.assignment }).answered
          source rest [3, tag, 0, 0, if clamped then 1 else 0, 0])) ∧
  (∀ valid kind channel address period ph pl divisor phase up down dwell sh sl trim load : Byte,
      let entry := vehicleConfigOf
        [valid, kind, channel, address, period, ph, pl, divisor, phase, up, down, dwell, sh, sl, trim, load]
      let pattern : Half := BitVec.ofNat 16 (ph.toNat * 256 + pl.toNat)
      let span := sh.toNat * 256 + sl.toNat
      let bad := 2 ≤ kind.toNat ∨ 4 ≤ channel.toNat ∨ address = 0 ∨ address = 255 ∨ period.toNat < 1 ∨ 16 < period.toNat ∨
        (divisor ≠ 1 ∧ divisor ≠ 2 ∧ divisor ≠ 4) ∨ divisor.toNat ≤ phase.toNat ∨
        ∀ slot, 1 ≤ slot → slot ≤ 15 → pattern.getLsbD (slot % period.toNat) = false
      (bad → entry = none) ∧
      (¬bad → ∀ c : Channel, channel = channelCode c → entry = some
        ({ valid := decide (valid ≠ 0), kind := if kind = 0 then .tractor else .trailer
           assignment :=
             { channel := c, period := period.toNat
               pattern := BitVec.ofNat 16 (pattern.toNat % 2 ^ period.toNat)
               divisor := divisor.toNat, phase := phase.toNat }
           address := address, accelUp := max 1 (min 32 up.toNat), accelDown := max 1 (min 64 down.toNat)
           dwell := max 1 (min 15 dwell.toNat), span := max 200 (min 500 span)
           trim := max (-64) (min 63 trim.toInt), loadClass := min 3 load.toNat },
         decide (up.toNat < 1 ∨ 32 < up.toNat ∨ down.toNat < 1 ∨ 64 < down.toNat ∨ dwell.toNat < 1 ∨ 15 < dwell.toNat ∨
           span < 200 ∨ 500 < span ∨ trim.toInt < -64 ∨ 63 < trim.toInt ∨ 3 < load.toNat)))) ∧
  (∀ (v : VehicleId) (cfg : VehicleConfig) (s : State),
      let x := s.vehicle v
      let reason := (s.vehicleRefusal v cfg).map Reason.code
      let used := x.convoy ≠ none ∨ (∃ b, (s.binding b).state ≠ .empty ∧ ∃ t ∈ (s.binding b).tie, t.target = .vehicle v) ∨
        ∃ r, ∃ h ∈ (s.lane r).holders, h.unit = .vehicle v
      let leaving := cfg.valid = true ∧ x.valid = false ∧ x.link ≠ .off
      let inUse := (cfg.valid = false ∧ x.valid = true ∧ used) ∨
        (cfg.valid = true ∧ cfg.kind ≠ x.kind ∧
          (used ∨ (∃ r, .vehicle v ∈ (s.lane r).waiting) ∨ x.attachedBehind ≠ none ∨ (∃ w, s.attached w v) ∨
            v ∈ s.coupler.queue ∨ ∃ i ∈ s.coupler.ident, i.subject = v))
      let duplicate := cfg.valid = true ∧ ∃ w, w ≠ v ∧ (s.vehicle w).valid = true ∧ (s.vehicle w).address = cfg.address ∧
        ∃ c, (c = cfg.assignment.channel ∨ (x.valid = true ∧ x.inTransit = false ∧ x.active.channel = c)) ∧
          (((s.vehicle w).inTransit = false ∧ (s.vehicle w).active.channel = c) ∨
            ∃ a ∈ (s.vehicle w).staged, a.channel = c)
      let collision := cfg.valid = true ∧ ∃ w, w ≠ v ∧ ∃ a ∈ (s.vehicle w).claims, cfg.assignment.collides a = true
      (leaving → reason = some 3) ∧ (¬leaving → inUse → reason = some 2) ∧
        (¬leaving → ¬inUse → duplicate → reason = some 4) ∧
        (¬leaving → ¬inUse → ¬duplicate → collision → reason = some 6) ∧
        (¬leaving → ¬inUse → ¬duplicate → ¬collision → reason = none)) ∧
  (∀ (x : Vehicle) (cfg : VehicleConfig), x.withFields cfg =
      { x with
        valid := cfg.valid, kind := cfg.kind, address := cfg.address, accelUp := cfg.accelUp, accelDown := cfg.accelDown
        dwell := cfg.dwell, span := cfg.span, trim := cfg.trim, loadClass := cfg.loadClass
        fifthWheel := decide (cfg.kind = .tractor) && x.fifthWheel, kingpin := decide (cfg.kind = .trailer) && x.kingpin
        rearHitch := decide (cfg.kind = .trailer) && x.rearHitch })

/-- A vehicle entry with valid no for a valid record, passing every check: with no slot of the vehicle in flight the vehicle
is OFF with the written configuration and blank state fields, and otherwise it is leaving, with the configuration and its
other state kept until its slot ends, but for the coupler flags that the written kind does not report, which are no
(assumption 10); the vehicle behind it is detached, it is detached itself, and it stands in no identification and in no
waiting list; every other vehicle and every lane list without it is unchanged (R13, R14, R149, R128).

Its entry is cancelled (R147), and a start is judged at the end of the event (R143, R149): at every invalidation, also where
only CONFIRMED attachments, or none, are dissolved and no entry is cancelled, which is the model's reading (assumption 25).
Every drive slot and direct frame in flight is kept, and a poll in flight loses its counted mark alone, where the
identification in flight was the vehicle's; the rest of the queue keeps its order, and the pending polls are kept where that
identification was another's and nothing starts. Every other part of the block is unchanged. The invalidation latches nothing
itself (R149, R171); an identification that starts and fails at once latches COUPLE_UNRESOLVED (R146; assumption 11). The
WRITE carries this entry alone (assumption 29 for one of several entries).

A slot of a vehicle is in flight while some channel's drive slot is that vehicle's (R32). -/
def Obligations.InvalidationReachesOff : Prop :=
  (∀ (source tag : Byte) (rest : List MgmtEntry) (v : VehicleId) (bytes : List Byte) (cfg : VehicleConfig) (clamped : Bool)
    (s : State),
    s.hasHead source 3 tag (1 :: BitVec.ofNat 8 v.val :: 1 :: bytes) rest → bytes.length = 16 →
    vehicleConfigOf bytes = some (cfg, clamped) → cfg.valid = false → (s.vehicle v).valid = true →
    s.vehicleRefusal v cfg = none →
    Leads (exec .vehicleWrite s) fun t =>
      (s.slotInFlight v = false → t.vehicle v =
        { Vehicle.blank with
          kind := cfg.kind, active := cfg.assignment, address := cfg.address, accelUp := cfg.accelUp,
          accelDown := cfg.accelDown, dwell := cfg.dwell, span := cfg.span, trim := cfg.trim,
          loadClass := cfg.loadClass }) ∧
      (s.slotInFlight v = true → t.vehicle v =
        { (s.vehicle v).withFields cfg with active := cfg.assignment, staged := none, attachedBehind := none }) ∧
      (∀ w, w ≠ v → t.vehicle w =
        if s.behind v = some w then { s.vehicle w with attachedBehind := none } else s.vehicle w) ∧
      v ∉ t.coupler.queue ∧ (∀ i, t.coupler.ident = some i → i.subject ≠ v) ∧
      (∀ r, t.lane r =
        if .vehicle v ∈ (s.lane r).waiting then
          Lane.grant (s.laneCapacity r)
            { s.lane r with waiting := (s.lane r).waiting.filter (fun u => u ≠ .vehicle v) }
        else s.lane r) ∧
      (∀ c, t.channel c =
        { s.channel c with
          pendingPoll := (t.channel c).pendingPoll
          flight :=
            match (s.channel c).flight with
            | some (.poll p replies garbled counted) =>
              some (.poll p replies garbled
                (if s.coupler.ident.map Identification.subject = some v then false else counted))
            | f => f }) ∧
      (∀ i, s.coupler.ident = some i → i.subject ≠ v →
        t.channels = s.channels ∧ t.coupler = ⟨s.coupler.queue.filter (fun y => y ≠ v), some i⟩) ∧
      ∃ u j ls, State.entryCancelled { s with vehicles := t.vehicles, lanes := t.lanes } u v ∧ u.startJudged j ls ∧
        j.settledWith t source rest [3, tag, 0, 0, if clamped then 1 else 0, 0] [ls]) ∧
  (∀ (s : State) (v : VehicleId), s.slotInFlight v = true ↔
    ∃ c address kind ack, (s.channel c).flight = some (.drive v address kind ack))

/-- A binding entry (R47, R48): in-use no empties the binding; a tie that no check refuses is stored, with blank values and
DISARMED unless key and target are the binding's own; a refused one changes nothing.

Check 1 of R47: the ranges of the node, the lever group, the class, and the target. Checks 2 to 4: a vehicle that is not valid
as target, and then the key or the target of another non-empty binding (R46, R47). -/
def Obligations.BindingEntryFillsOrEmptiesBinding : Prop :=
  (∀ (source tag : Byte) (rest : List MgmtEntry) (b : BindingId) (inUse : Byte) (bytes : List Byte) (s : State),
    s.hasHead source 3 tag (0 :: BitVec.ofNat 8 b.val :: 1 :: inUse :: bytes) rest → bytes.length = 11 →
    (inUse = 0 → exec .bindingWrite s = .next
      ((s.setBinding b ⟨.empty, none, 0, .ahead, 0, none⟩).answered source rest [3, tag, 0, 0, 0, 0])) ∧
    (inUse ≠ 0 → bindingTieOf (inUse :: bytes) = none →
      exec .bindingWrite s = .next (s.answered source rest [3, tag, 2, 7, 3, 7])) ∧
    (∀ t, inUse ≠ 0 → bindingTieOf (inUse :: bytes) = some t →
      (∀ r, s.bindingRefusal b t = some r →
        exec .bindingWrite s = .next (s.answered source rest [3, tag, 2, r.code, 3, r.code])) ∧
      (s.bindingRefusal b t = none →
        exec .bindingWrite s = .next
          ((s.setBinding b
            (if (s.binding b).state ≠ .empty ∧
                ∃ o ∈ (s.binding b).tie, o.node = t.node ∧ o.group = t.group ∧ o.target = t.target then
              { s.binding b with tie := some t }
            else ⟨.disarmed, some t, 0, .ahead, 0, none⟩)).answered source rest [3, tag, 0, 0, 0, 0])))) ∧
  (∀ (inUse node group cls kind index : Byte) (more : List Byte),
    let tie := bindingTieOf (inUse :: node :: group :: cls :: kind :: index :: more)
    let bad := node.toNat < 16 ∨ 63 < node.toNat ∨ 3 < group.toNat ∨ 2 ≤ cls.toNat ∨ 2 ≤ kind.toNat ∨
      (kind = 0 ∧ 12 ≤ index.toNat) ∨ (kind = 1 ∧ 64 ≤ index.toNat)
    (bad → tie = none) ∧
    (¬bad → ∀ u : MoveUnit,
      ((∃ c : ConvoyId, u = .convoy c ∧ kind = 0 ∧ c.val = index.toNat) ∨
        (∃ v : VehicleId, u = .vehicle v ∧ kind = 1 ∧ v.val = index.toNat)) →
      tie = some ⟨node, group.toNat, if cls = 0 then .driver else .marshal, u⟩)) ∧
  (∀ (b : BindingId) (t : BindingTie) (s : State),
    let missing := ∃ v, t.target = .vehicle v ∧ (s.vehicle v).valid = false
    let taken := ∃ o, o ≠ b ∧ (s.binding o).state ≠ .empty ∧
      ∃ u ∈ (s.binding o).tie, (u.node = t.node ∧ u.group = t.group) ∨ u.target = t.target
    (missing → (s.bindingRefusal b t).map Reason.code = some 10) ∧
      (¬missing → taken → (s.bindingRefusal b t).map Reason.code = some 4) ∧
      (¬missing → ¬taken → s.bindingRefusal b t = none))

/-- A zone entry (R115, R116, R117): an accepted one stores every field of its range and, where it changes the capacity of a
single-lane range, a grant is judged for that range alone; a refused one changes nothing. That a clamped entry with valid no
for an invalid record has the status CLAMPED is assumption 21.

Check 1 of R115: the segments, their order, and the capacity; the cap is clamped to 127 (R116). Check 2: a valid range whose
lists are not empty keeps its extent, stays single-lane, and keeps room for its holders, also where the entry leaves a
capacity that the holders already exceed (assumption 24). Check 3: no segment of another valid range. -/
def Obligations.ZoneEntryStoresItsRange : Prop :=
  (∀ (source tag : Byte) (rest : List MgmtEntry) (r : RangeId) (bytes : List Byte) (s : State),
    s.hasHead source 3 tag (3 :: BitVec.ofNat 8 r.val :: 1 :: bytes) rest → bytes.length = 11 →
    (zoneRangeOf bytes = none → exec .zoneWrite s = .next (s.answered source rest [3, tag, 2, 7, 3, 7])) ∧
    (∀ z clamped, zoneRangeOf bytes = some (z, clamped) →
      (∀ x, s.zoneRefusal r z = some x →
        exec .zoneWrite s = .next (s.answered source rest [3, tag, 2, x.code, 3, x.code])) ∧
      (s.zoneRefusal r z = none →
        exec .zoneWrite s = .next
          ((if z.valid ∧ 1 ≤ z.rules.capacity ∧ z.rules.capacity ≠ (s.zone r).rules.capacity then
              (s.setZone r z).setLane r ((s.lane r).grant z.rules.capacity)
            else s.setZone r z).answered source rest [3, tag, 0, 0, if clamped then 1 else 0, 0])))) ∧
  (∀ valid fh fl lh ll cap entry exit marshal junction capacity : Byte,
    let range := zoneRangeOf [valid, fh, fl, lh, ll, cap, entry, exit, marshal, junction, capacity]
    let first := fh.toNat * 256 + fl.toNat
    let last := lh.toNat * 256 + ll.toNat
    let bad := 1024 ≤ first ∨ 1024 ≤ last ∨ last < first ∨ 3 < capacity.toNat
    (bad → range = none) ∧
    (¬bad → ∀ f l : Segment, f.val = first → l.val = last → range = some
      (⟨decide (valid ≠ 0), f, l, ⟨min 127 cap.toNat, decide (entry ≠ 0), decide (exit ≠ 0), decide (marshal ≠ 0),
        decide (junction ≠ 0), capacity.toNat⟩⟩, decide (127 < cap.toNat)))) ∧
  (∀ (r : RangeId) (z : Range) (s : State),
    let inUse := (s.zone r).valid = true ∧ s.lane r ≠ ⟨[], []⟩ ∧
      (z.valid = false ∨ z.rules.capacity = 0 ∨ z.rules.capacity < (s.lane r).holders.length ∨
        z.first ≠ (s.zone r).first ∨ z.last ≠ (s.zone r).last)
    let overlap := z.valid = true ∧ ∃ o, o ≠ r ∧ (s.zone o).valid = true ∧
      z.first ≤ (s.zone o).last ∧ (s.zone o).first ≤ z.last
    (inUse → (s.zoneRefusal r z).map Reason.code = some 2) ∧
      (¬inUse → overlap → (s.zoneRefusal r z).map Reason.code = some 5) ∧
      (¬inUse → ¬overlap → s.zoneRefusal r z = none))

/-- A LIMITS entry (R172): a filter code that names neither ALL nor SEVERE is refused BAD_VALUE; otherwise every field is
stored after clamping, the silence timeout rounded down to a multiple of 50, and the status is CLAMPED exactly where a
field changed so. -/
def Obligations.LimitsEntryIsClampedAndStored : Prop :=
  ∀ (source tag a b c d sh sl k f n node eh el filter : Byte) (rest : List MgmtEntry) (s : State),
    s.hasHead source 3 tag [6, 0, 1, a, b, c, d, sh, sl, k, f, n, node, eh, el, filter] rest →
    let silence := sh.toNat * 256 + sl.toNat
    let stored := max 100 (min 2000 silence) / 50 * 50
    (filter.toNat < 2 → exec .limitsWrite s = .next
      (State.answered
        { s with
          limits :=
            { reverseCap := min 127 a.toNat, crawlCap := min 127 b.toNat, unknownCap := min 127 c.toNat,
              openCap := min 127 d.toNat, silence := stored, lostThreshold := max 2 (min 15 k.toNat),
              batteryFloor := f.toNat, neutralBand := min 16 n.toNat, alertNode := min 63 node.toNat,
              alertEnable := BitVec.ofNat 14 (eh.toNat * 256 + el.toNat),
              filter := if filter = 0 then .all else .severe } }
        source rest
        [3, tag, 0, 0,
          if 127 < a.toNat ∨ 127 < b.toNat ∨ 127 < c.toNat ∨ 127 < d.toNat ∨ stored ≠ silence ∨ k.toNat < 2 ∨
            15 < k.toNat ∨ 16 < n.toNat ∨ 63 < node.toNat then 1 else 0, 0])) ∧
    (2 ≤ filter.toNat → exec .limitsWrite s = .next (s.answered source rest [3, tag, 2, 7, 3, 7]))

/-! ## Convoy commands, lanes and couplings -/

/-- CONVOY_FORM, by its checks in order and its effect (R84).

The unit in a holder list, and in a waiting list, of some range (R125). -/
def Obligations.ConvoyFormAllocatesConvoy : Prop :=
  (∀ (source tag c v : Byte) (rest : List MgmtEntry) (s : State), s.hasHead source 16 tag [c, v] rest →
    (12 ≤ c.toNat ∨ 64 ≤ v.toNat → exec .convoyForm s = .next (s.answered source rest [16, tag, 2, 7])) ∧
    (∀ (i : ConvoyId) (w : VehicleId), i.val = c.toNat → w.val = v.toNat →
      exec .convoyForm s = .next
        (if (s.convoy i).state ≠ .free then s.answered source rest [16, tag, 2, 8]
        else if (s.vehicle w).valid = false then s.answered source rest [16, tag, 2, 10]
        else if (s.vehicle w).kind ≠ .tractor then s.answered source rest [16, tag, 2, 7]
        else if (s.vehicle w).convoy ≠ none then s.answered source rest [16, tag, 2, 2]
        else if s.holdsAny (.vehicle w) ∨ s.waitsAny (.vehicle w) then s.answered source rest [16, tag, 2, 2]
        else
          ((s.setConvoy i ⟨.forming, [⟨w, 1, 1, .absent, 0⟩], [], none, none⟩).setVehicle w
            { s.vehicle w with convoy := some i }).answered source rest [16, tag, 0, 0]))) ∧
  (∀ (s : State) (u : MoveUnit),
    (s.holdsAny u = true ↔ ∃ r, ∃ h ∈ (s.lane r).holders, h.unit = u) ∧
      (s.waitsAny u = true ↔ ∃ r, u ∈ (s.lane r).waiting))

/-- CONVOY_ADD, by its checks in order and its effect: the member is appended with the clamped band, a cursor equal to the
trail length, and its gap computed from the last member before it (R85, R91, R105). -/
def Obligations.ConvoyAddAppendsMember : Prop :=
  ∀ (source tag c v gmin gmax : Byte) (rest : List MgmtEntry) (s : State), s.convoysSound →
    s.hasHead source 17 tag [c, v, gmin, gmax] rest →
    (12 ≤ c.toNat ∨ 64 ≤ v.toNat → exec .convoyAdd s = .next (s.answered source rest [17, tag, 2, 7])) ∧
    (∀ (i : ConvoyId) (w : VehicleId), i.val = c.toNat → w.val = v.toNat →
      ((s.convoy i).state ≠ .forming ∧ (s.convoy i).state ≠ .holding →
        exec .convoyAdd s = .next (s.answered source rest [17, tag, 2, 8])) ∧
      ((s.convoy i).state = .forming ∨ (s.convoy i).state = .holding →
        (8 ≤ (s.convoy i).members.length → exec .convoyAdd s = .next (s.answered source rest [17, tag, 2, 9])) ∧
        (∀ pre m, (s.convoy i).members = pre ++ [m] → pre.length < 7 →
          exec .convoyAdd s = .next
            (if (s.vehicle w).valid = false then s.answered source rest [17, tag, 2, 10]
            else if (s.vehicle w).kind ≠ .tractor then s.answered source rest [17, tag, 2, 7]
            else if (s.vehicle w).convoy ≠ none then s.answered source rest [17, tag, 2, 2]
            else if s.holdsAny (.vehicle w) ∨ s.waitsAny (.vehicle w) then s.answered source rest [17, tag, 2, 2]
            else
              ((s.setConvoy i
                { s.convoy i with
                  members := pre ++ [m, ⟨w, max 1 (min 4 gmin.toNat),
                    max (max 1 (min 4 gmin.toNat)) (min 8 gmax.toNat),
                    gapBetween (s.vehicle m.tractor).current (s.vehicle w).current, (s.convoy i).trail.length⟩] }).setVehicle
                w { s.vehicle w with convoy := some i }).answered source rest [17, tag, 0, 0]))))

/-- CONVOY_REMOVE, by its checks in order (R86), and its effect: v leaves its convoy, which keeps its state and the others in
their order, and loses a break cause that names v; the follower of a removed follower takes its new gap, and a follower that
becomes lead has no gap and a trail cut back to its cursor, with no cursor beyond it; the oldest trail entries that every
member left has passed are dropped, and no more (`dropOldest`, Obligations.PassedEntriesAreDropped); a convoy that loses its
only member becomes FREE (R86, R87, R104, R106).

Leaving every waiting list: each list that held the unit is without it and is judged for a grant (R128, R129). -/
def Obligations.ConvoyRemoveTakesMemberOut : Prop :=
  (∀ (source tag v : Byte) (rest : List MgmtEntry) (s : State), s.convoysSound → s.hasHead source 18 tag [v] rest →
    (64 ≤ v.toNat → exec .convoyRemove s = .next (s.answered source rest [18, tag, 2, 7])) ∧
    (∀ w : VehicleId, w.val = v.toNat →
      ((s.vehicle w).convoy = none → exec .convoyRemove s = .next (s.answered source rest [18, tag, 2, 10])) ∧
      (∀ i, (s.vehicle w).convoy = some i →
        ((s.convoy i).state = .rolling ∨ (s.convoy i).state = .holdPending →
          exec .convoyRemove s = .next (s.answered source rest [18, tag, 2, 8])) ∧
        ((s.convoy i).state = .forming ∨ (s.convoy i).state = .holding ∨ (s.convoy i).state = .broken →
          ((s.convoy i).members.length = 1 → s.holdsAny (.convoy i) = true →
            exec .convoyRemove s = .next (s.answered source rest [18, tag, 2, 2])) ∧
          ((s.convoy i).members.length = 1 → s.holdsAny (.convoy i) = false →
            exec .convoyRemove s = .next
              ((((s.setConvoy i ⟨.free, [], [], none, none⟩).setVehicle w
                { s.vehicle w with convoy := none }).withdrawEverywhere (.convoy i)).answered source rest [18, tag, 0, 0])) ∧
          (let kept : Convoy :=
              { s.convoy i with
                cause :=
                  if (s.convoy i).cause = some (.lost w) ∨ (s.convoy i).cause = some (.trailMiss w) then none
                  else (s.convoy i).cause }
            let becomes (c : Convoy) : Prop := c.dropOldest.cursorsSound ∧
              exec .convoyRemove s = .next
                (((s.setConvoy i c.dropOldest).setVehicle w { s.vehicle w with convoy := none }).answered source rest
                  [18, tag, 0, 0])
            (∀ m f post, (s.convoy i).members = m :: f :: post → m.tractor = w →
              becomes
                { kept with
                  trail := (s.convoy i).trail.take f.cursor
                  members :=
                    { f with gap := .absent } :: post.map (fun n => { n with cursor := min n.cursor f.cursor }) }) ∧
            (∀ pre p m, (s.convoy i).members = pre ++ [p, m] → m.tractor = w →
              becomes { kept with members := pre ++ [p] }) ∧
            (∀ pre p m f post, (s.convoy i).members = pre ++ p :: m :: f :: post → m.tractor = w →
              becomes
                { kept with
                  members := pre ++ p ::
                    { f with gap := gapBetween (s.vehicle p.tractor).current (s.vehicle f.tractor).current } :: post })))))) ∧
  (∀ (s : State) (u : MoveUnit),
    s.withdrawEverywhere u = { s with lanes := (s.withdrawEverywhere u).lanes } ∧
      ∀ r, (s.withdrawEverywhere u).lane r =
        if u ∈ (s.lane r).waiting then
          Lane.grant (s.laneCapacity r) { s.lane r with waiting := (s.lane r).waiting.filter (fun w => w ≠ u) }
        else s.lane r)

/-- CONVOY_HOLD, by state and mode (R88).

CONVOY_RESUME, by state and checks (R89).

The lead's current segment, and the break cause TRAIL_MISS (R79, R88, R89). -/
def Obligations.ConvoyHoldAndResume : Prop :=
  (∀ (source tag c mode : Byte) (rest : List MgmtEntry) (s : State), s.hasHead source 19 tag [c, mode] rest →
      (12 ≤ c.toNat ∨ 2 ≤ mode.toNat → exec .convoyHold s = .next (s.answered source rest [19, tag, 2, 7])) ∧
      (∀ i : ConvoyId, i.val = c.toNat → mode.toNat < 2 →
        exec .convoyHold s = .next
          (match (s.convoy i).state, mode.toNat with
            | .free, _ => s.answered source rest [19, tag, 2, 8]
            | .rolling, 0 => (s.setConvoy i { s.convoy i with state := .holding }).answered source rest [19, tag, 0, 0]
            | .rolling, _ =>
              (match s.leadSegment (s.convoy i) with
                | some g => s.setConvoy i { s.convoy i with state := .holdPending, holdRef := some g }
                | none => s.setConvoy i { s.convoy i with state := .holding }).answered source rest [19, tag, 0, 0]
            | .holdPending, 0 =>
              (s.setConvoy i { s.convoy i with state := .holding, holdRef := none }).answered source rest [19, tag, 0, 0]
            | _, _ => s.answered source rest [19, tag, 0, 0]))) ∧
  (∀ (source tag c : Byte) (rest : List MgmtEntry) (s : State), s.hasHead source 20 tag [c] rest →
      (12 ≤ c.toNat → exec .convoyResume s = .next (s.answered source rest [20, tag, 2, 7])) ∧
      (∀ i : ConvoyId, i.val = c.toNat →
        ((s.convoy i).state = .free → exec .convoyResume s = .next (s.answered source rest [20, tag, 2, 8])) ∧
        ((s.convoy i).state = .rolling → exec .convoyResume s = .next (s.answered source rest [20, tag, 0, 0])) ∧
        ((s.convoy i).state = .holdPending → (s.convoy i).cause = none → exec .convoyResume s = .next
          ((s.setConvoy i { s.convoy i with state := .rolling, holdRef := none }).answered source rest [20, tag, 0, 0])) ∧
        ((s.convoy i).state = .forming ∨ (s.convoy i).state = .holding ∨ (s.convoy i).state = .broken →
          exec .convoyResume s = .next
            (if (s.convoy i).missedTrail then s.answered source rest [20, tag, 2, 8]
            else if ∃ m ∈ (s.convoy i).members, (s.vehicle m.tractor).link ≠ .online then
              s.answered source rest [20, tag, 2, 3]
            else
              (s.setConvoy i { s.convoy i with state := .rolling, holdRef := none, cause := none }).answered source rest
                [20, tag, 0, 0])))) ∧
  (∀ (s : State) (c : Convoy),
    (∀ lead followers, c.members = lead :: followers → s.leadSegment c = (s.vehicle lead.tractor).current) ∧
      (c.members = [] → s.leadSegment c = none) ∧ (c.missedTrail = true ↔ ∃ v, c.cause = some (.trailMiss v)))

/-- CONVOY_DISBAND, by its checks and its effect (R90). -/
def Obligations.ConvoyDisbandFreesConvoy : Prop :=
  ∀ (source tag c : Byte) (rest : List MgmtEntry) (s : State), s.hasHead source 21 tag [c] rest →
    (12 ≤ c.toNat → exec .convoyDisband s = .next (s.answered source rest [21, tag, 2, 7])) ∧
    (∀ i : ConvoyId, i.val = c.toNat →
      ((s.convoy i).state = .free → exec .convoyDisband s = .next (s.answered source rest [21, tag, 2, 8])) ∧
      ((s.convoy i).state ≠ .free → s.holdsAny (.convoy i) = true →
        exec .convoyDisband s = .next (s.answered source rest [21, tag, 2, 2])) ∧
      ((s.convoy i).state ≠ .free → s.holdsAny (.convoy i) = false → Leads (exec .convoyDisband s) fun t =>
        t = State.answered { s with convoys := t.convoys, vehicles := t.vehicles, lanes := t.lanes } source rest
          [21, tag, 0, 0] ∧
        t.convoy i = ⟨.free, [], [], none, none⟩ ∧ (∀ j, j ≠ i → t.convoy j = s.convoy j) ∧
        (∀ v, t.vehicle v =
          if ∃ m ∈ (s.convoy i).members, m.tractor = v then { s.vehicle v with convoy := none } else s.vehicle v) ∧
        (∀ r, t.lane r =
          if .convoy i ∈ (s.lane r).waiting then
            Lane.grant (s.laneCapacity r)
              { s.lane r with waiting := (s.lane r).waiting.filter (fun u => u ≠ .convoy i) }
          else s.lane r)))

/-- ZONE_RELEASE, by its checks and its effect on the one range (R135, R129).

A grant moves waiting units to the holders, the oldest first and entered no, while there are fewer holders than the
capacity, and stops there (R129).

The capacity that a grant goes by is the range's while it is valid (R129). -/
def Obligations.ZoneReleaseAndGrant : Prop :=
  (∀ (source tag r kind index : Byte) (rest : List MgmtEntry) (s : State), s.hasHead source 24 tag [r, kind, index] rest →
      (32 ≤ r.toNat ∨ 2 ≤ kind.toNat ∨ (kind = 0 ∧ 12 ≤ index.toNat) ∨ (kind = 1 ∧ 64 ≤ index.toNat) →
        exec .zoneRelease s = .next (s.answered source rest [24, tag, 2, 7])) ∧
      (∀ (z : RangeId) (u : MoveUnit), z.val = r.toNat →
        ((∃ c : ConvoyId, u = .convoy c ∧ kind = 0 ∧ c.val = index.toNat) ∨
          (∃ v : VehicleId, u = .vehicle v ∧ kind = 1 ∧ v.val = index.toNat)) →
        exec .zoneRelease s = .next
          (if (∃ h ∈ (s.lane z).holders, h.unit = u) ∨ u ∈ (s.lane z).waiting then
            (s.setLane z (Lane.grant (s.laneCapacity z)
              ⟨(s.lane z).holders.filter (fun h => h.unit ≠ u), (s.lane z).waiting.filter (fun w => w ≠ u)⟩)).answered
              source rest [24, tag, 0, 0]
          else s.answered source rest [24, tag, 2, 10]))) ∧
  (∀ (capacity : Nat) (l : Lane), ∃ k, k ≤ l.waiting.length ∧
      l.grant capacity = ⟨l.holders ++ (l.waiting.take k).map (fun u => ⟨u, false⟩), l.waiting.drop k⟩ ∧
      (k = l.waiting.length ∨ capacity ≤ l.holders.length + k) ∧ (k = 0 ∨ l.holders.length + k ≤ capacity)) ∧
  (∀ (s : State) (r : RangeId), s.laneCapacity r = if (s.zone r).valid then (s.zone r).rules.capacity else 0)

/-- COUPLE_CONFIRM and COUPLE_REJECT, by their checks and their effect on the trailer; then a start is judged: where no
identification is in flight and a channel is SERVING, the oldest entry that is not blocked begins its first round, with its
poll on each SERVING channel and everything else kept (R148, R143, R144, R38). The decision latches nothing itself (R148); where
no channel is SERVING, each identification that starts fails at once and latches COUPLE_UNRESOLVED (R144, R146; assumption
11). -/
def Obligations.CouplingDecisionSettlesAttachment : Prop :=
  ∀ p ∈ [(Instr.coupleConfirm, (26 : Byte), fun x : VehicleId => some (x, AttachState.confirmed)),
      (Instr.coupleReject, 27, fun _ => none)],
    ∀ (source tag x : Byte) (rest : List MgmtEntry) (s : State), s.hasHead source p.2.1 tag [x] rest →
      (64 ≤ x.toNat → exec p.1 s = .next (s.answered source rest [p.2.1, tag, 2, 7])) ∧
      (∀ v : VehicleId, v.val = x.toNat →
        (∀ w, s.behind v = some w → (s.vehicle w).attachedBehind = some (v, .tentative) →
          let u := s.setVehicle w { s.vehicle w with attachedBehind := p.2.2 v }
          (Leads (exec p.1 s) fun t =>
            ∃ j ls, u.startJudged j ls ∧ j.settledWith t source rest [p.2.1, tag, 0, 0] [ls]) ∧
          (s.coupler.queue = [] → exec p.1 s = .next (u.answered source rest [p.2.1, tag, 0, 0]))) ∧
        ((∀ w, s.behind v = some w → (s.vehicle w).attachedBehind ≠ some (v, .tentative)) →
          exec p.1 s = .next (s.answered source rest [p.2.1, tag, 2, 8])))

/-! ## Channels -/

/-- DIRECT_SEND, by its form (one of fewer than four argument bytes, or of another payload length, is MALFORMED), its checks in
order and its effect: an owned entry joins the channel's list, the send limit
starts, and the command stays at the head, in flight (R40, R166, R179; assumption 5 for the limit). That bits 1 to 7 of the
flags byte are ignored is assumption 23. -/
def Obligations.DirectSendQueuesOwnedFrame : Prop :=
  (∀ (source tag : Byte) (args : List Byte) (rest : List MgmtEntry) (s : State),
    s.hasHead source 32 tag args rest → args.length < 4 →
    exec .directSend s = .next (s.answered source rest [32, tag, 5, 0])) ∧
  ∀ (source tag ch address flags n : Byte) (payload : List Byte) (rest : List MgmtEntry) (s : State),
    s.hasHead source 32 tag (ch :: address :: flags :: n :: payload) rest →
    (payload.length ≠ n.toNat ∨ n.toNat < 1 ∨ 8 < n.toNat →
      exec .directSend s = .next (s.answered source rest [32, tag, 5, 0])) ∧
    (payload.length = n.toNat → 1 ≤ n.toNat → n.toNat ≤ 8 →
      (4 ≤ ch.toNat ∨ address = 0 ∨ address = 255 →
        exec .directSend s = .next (s.answered source rest [32, tag, 2, 7])) ∧
      (∀ c : Channel, ch = channelCode c → address ≠ 0 → address ≠ 255 →
        exec .directSend s = .next
          (if (s.channel c).state ≠ .serving then s.answered source rest [32, tag, 2, 3]
          else if 2 ≤ (s.channel c).direct.length then s.answered source rest [32, tag, 2, 9]
          else
            { s.setChannel c
                { s.channel c with
                  direct := (s.channel c).direct ++ [⟨address, payload, flags.toNat % 2 = 1, true⟩]
                  sendLimit := some (s.fault.time + 500) } with
              mgmt := { s.mgmt with inFlight := true } })))

/-- CHANNEL_RESTART: a code that names no channel is refused BAD_VALUE; otherwise the channel enters LOCKING at once, from
every state, its valid vehicles go LOST as R19 says, with their moving convoys broken, and the command is in flight; the
channel's own restart latches nothing (R28, R23, R27, R19, R94; assumption 5 for the limit). From SERVING its vehicles staged
to another channel depart, one already LOST too (R11, assumption 22), a leaving vehicle whose slot ends is OFF (R27, R13),
and an open poll is reported with no response: while another channel is awaited nothing more happens, and at the last report
the round ends, with what it attaches, starts and latches (R27, R144 to R146; assumption 11 for a latch within this command).
Where no open poll is reported nothing else changes and nothing is latched. -/
def Obligations.ChannelRestartEntersLocking : Prop :=
  ∀ (source tag ch : Byte) (rest : List MgmtEntry) (s : State), s.hasHead source 33 tag [ch] rest →
    (4 ≤ ch.toNat → exec .channelRestart s = .next (s.answered source rest [33, tag, 2, 7])) ∧
    (∀ c : Channel, ch = channelCode c → Leads (exec .channelRestart s) fun t => ∃ u j ls,
      u.channel c =
        { s.channel c with
          state := .locking, counter := 0, attempts := min 255 ((s.channel c).attempts + 1), direct := [],
          pendingPoll := none, limit := some (s.fault.time + 50), sendLimit := none, testFrame := 0, flight := none,
          moduleCommand := .acquire } ∧
      (∀ d, d ≠ c → u.channel d = s.channel d) ∧
      s.serviceEnds u c ((s.channel c).state = .serving) ∧
      (∀ v, (s.vehicle v).valid = false →
        ((∃ address kind ack, (s.channel c).flight = some (.drive v address kind ack)) → (s.channel c).state = .serving →
          u.vehicle v = (s.vehicle v).reachOff) ∧
        ((∀ address kind ack, (s.channel c).flight ≠ some (.drive v address kind ack)) ∨ (s.channel c).state ≠ .serving →
          u.vehicle v = s.vehicle v)) ∧
      u =
        { s with
          vehicles := u.vehicles, convoys := u.convoys, channels := u.channels, freeCount := u.freeCount
          mgmt := { s.mgmt with inFlight := true } } ∧
      ((s.channel c).state = .serving → (s.channel c).pollOpen = true → u.reported j c [] false ls) ∧
      ((s.channel c).state ≠ .serving ∨ (s.channel c).pollOpen = false → j = u ∧ ls = []) ∧
      t = ls.foldl State.latched j) ∧
    (∀ x : Vehicle, x.reachOff =
      { x with
        link := .off, misses := 0, inTransit := false, staged := none, current := none, ahead := none, battery := none,
        fifthWheel := false, kingpin := false, rearHitch := false, speed := 0, direction := .neutral, zeroFrames := 15,
        lastTurn := .ahead, stopReason := none, attachedBehind := none, convoy := none })

/-- The module's report of lock (R23, R24, R26; assumption 7): in LOCKING the self-test begins with the loopback frame of the
bytes 0 to 7; in RELOCKING the channel is SERVING again with its next cycle; in every other state nothing changes.

The expiry of a limit whose time is reached makes the channel FAILED: from LOCKING with CHANNEL_UNLOCK latched, from
RELOCKING with nothing latched; CHANNEL_RESTART in flight for the channel is answered FAILED (7) (R23, R26, R28). That a limit
is held as an expiry time, reached when it lies less than half the counter's range back, and that an expiry before it changes
nothing, are the model's choice (assumptions 5 and 4). Where both come, the output queue keeps its frames in front and takes
the reply and the latch's alert, in either order (R164, R155; assumption 1).

CHANNEL_RESTART is in flight for a channel when it is the head in flight with that channel's code (R28, R166). -/
def Obligations.LockReportAndLimitExpiry : Prop :=
  (∀ (c : Channel) (s : State), ∀ i ∈ [Instr.lockAchieved c, Instr.relock c],
      ((s.channel c).state = .locking → exec i s = .next (s.setChannel c
        { s.channel c with
          state := .testing, limit := none, result := .notRun, detail := none, testFrame := 1, moduleCommand := .loopback,
          sent := [0, 1, 2, 3, 4, 5, 6, 7] })) ∧
      ((s.channel c).state = .relocking → (s.channel c).direct = [] → (s.channel c).pendingPoll = none →
        exec i s = .next
          ((s.setChannel c
            { s.channel c with
              state := .serving, limit := none, counter := ((s.channel c).counter + 1) % 4, slot := 0,
              flight := none }).mapVehicles (fun _ x => x.cycleStart c))) ∧
      ((s.channel c).state = .testing ∨ (s.channel c).state = .serving ∨ (s.channel c).state = .failed →
        exec i s = .next s)) ∧
  (∀ (c : Channel) (limit : Time) (s : State), (s.channel c).limit = some limit →
      ((s.fault.time - limit).toNat < 32768 →
        ((s.channel c).state = .locking → s.restarting c = false →
          exec (.lockLimitExpiry c) s = .next
            ((s.setChannel c { s.channel c with state := .failed, limit := none }).latched
              ⟨.channelUnlock, .channel c, none⟩)) ∧
        (∀ source tag rest, (s.channel c).state = .locking → s.mgmt.inFlight = true →
          s.mgmt.entries = ⟨source, [33, tag, channelCode c], false⟩ :: rest →
          Leads (exec (.lockLimitExpiry c) s) fun t =>
            (s.setChannel c { s.channel c with state := .failed, limit := none }).settledWith t source rest [33, tag, 7, 0]
              [[⟨.channelUnlock, .channel c, none⟩]]) ∧
        ((s.channel c).state = .relocking → s.restarting c = false →
          exec (.relockLimitExpiry c) s = .next (s.setChannel c { s.channel c with state := .failed, limit := none }))) ∧
      (32768 ≤ (s.fault.time - limit).toNat →
        exec (.lockLimitExpiry c) s = .next s ∧ exec (.relockLimitExpiry c) s = .next s)) ∧
  (∀ (c : Channel) (s : State), s.restarting c = true ↔
    s.mgmt.inFlight = true ∧
      ∃ e ∈ s.mgmt.entries.head?, e.payload[0]? = some 33 ∧ e.payload[2]? = some (channelCode c))

/-- The end of a loopback window in TESTING (R24, R25, R29): a frame returned whole sends the next one or, at the eighth,
makes the channel SERVING with counter 0; the first byte that differs or is missing fails the test with its detail, and
SELFTEST_FAIL is latched once. A CHANNEL_RESTART in flight for the channel is answered OK at the pass and FAILED (7) at the
failure (R28); with a failure the output queue keeps its frames in front and takes the reply and the latch's alert, in either
order (R164, R155; assumption 1).

Lock lost (R25, R26): in TESTING with fewer than eight bytes back, or all eight correct, the test fails with the first
index not returned, or 7, and no received byte; in LOCKING, RELOCKING and FAILED nothing changes. -/
def Obligations.SelfTestEnds : Prop :=
  (∀ (c : Channel) (returned : List Byte) (s : State), (s.channel c).state = .testing →
      1 ≤ (s.channel c).testFrame → (s.channel c).testFrame ≤ 8 →
      let k := (s.channel c).testFrame
      let sent (i : Nat) : Byte := BitVec.ofNat 8 (8 * (k - 1) + i)
      let failed (i : Nat) : State := s.setChannel c
        { s.channel c with
          state := .failed, result := .fail, detail := some ⟨k, i, sent i, returned[i]?⟩, testFrame := 0 }
      let passed : State := (s.setChannel c
        { s.channel c with
          state := .serving, result := .pass, testFrame := 0, moduleCommand := .run, counter := 0, slot := 0,
          flight := none }).mapVehicles (fun _ x => x.cycleStart c)
      ((∀ i < 8, returned[i]? = some (sent i)) → k < 8 →
        exec (.loopbackWindowEnd c returned) s = .next (s.setChannel c
          { s.channel c with testFrame := k + 1, sent := (List.range 8).map (fun i => BitVec.ofNat 8 (8 * k + i)) })) ∧
      ((∀ i < 8, returned[i]? = some (sent i)) → k = 8 → (s.channel c).direct = [] → (s.channel c).pendingPoll = none →
        (s.restarting c = false → exec (.loopbackWindowEnd c returned) s = .next passed) ∧
        (∀ source tag rest, s.mgmt.inFlight = true → s.mgmt.entries = ⟨source, [33, tag, channelCode c], false⟩ :: rest →
          exec (.loopbackWindowEnd c returned) s = .next (passed.answered source rest [33, tag, 0, 0]))) ∧
      (∀ i < 8, (∀ j < i, returned[j]? = some (sent j)) → returned[i]? ≠ some (sent i) →
        (s.restarting c = false →
          exec (.loopbackWindowEnd c returned) s = .next ((failed i).latched ⟨.selftestFail, .channel c, none⟩)) ∧
        (∀ source tag rest, s.mgmt.inFlight = true → s.mgmt.entries = ⟨source, [33, tag, channelCode c], false⟩ :: rest →
          Leads (exec (.loopbackWindowEnd c returned) s) fun t =>
            (failed i).settledWith t source rest [33, tag, 7, 0] [[⟨.selftestFail, .channel c, none⟩]]))) ∧
  (∀ (c : Channel) (returned : List Byte) (s : State),
      let failed (i : Nat) : State := s.setChannel c
        { s.channel c with
          state := .failed, result := .fail, testFrame := 0
          detail := some ⟨(s.channel c).testFrame, i, BitVec.ofNat 8 (8 * ((s.channel c).testFrame - 1) + i), none⟩ }
      ((s.channel c).state = .testing →
        ∀ i, (returned.length < 8 ∧ i = returned.length) ∨
            ((∀ j < 8, returned[j]? = some (BitVec.ofNat 8 (8 * ((s.channel c).testFrame - 1) + j))) ∧ i = 7) →
          (s.restarting c = false →
            exec (.lockLost c returned) s = .next ((failed i).latched ⟨.selftestFail, .channel c, none⟩)) ∧
          (∀ source tag rest, s.mgmt.inFlight = true →
            s.mgmt.entries = ⟨source, [33, tag, channelCode c], false⟩ :: rest →
            Leads (exec (.lockLost c returned) s) fun t =>
              (failed i).settledWith t source rest [33, tag, 7, 0] [[⟨.selftestFail, .channel c, none⟩]])) ∧
      ((s.channel c).state = .locking ∨ (s.channel c).state = .relocking ∨ (s.channel c).state = .failed →
        exec (.lockLost c returned) s = .next s))

/-- Lock lost in SERVING (R26, R27, R18, R19, R11; assumption 5 for the limit): the channel is RELOCKING with its slots and
housekeeping gone, its valid vehicles go LOST with their moving convoys broken (R94), and those staged to another channel
depart, one already LOST too (assumption 22); a leaving vehicle whose slot ends is OFF with blank state fields (R13); no other
channel, no attachment and no identification changes by that. An open poll is then reported with no response: while another
channel is awaited nothing more happens, and at the last report the round ends, with what it attaches, starts and latches
(R144, R145, R146). CHANNEL_UNLOCK is latched with the channel as subject, and no VEHICLE_LOST (R19): it is the one latch but
for those of the round, which keep their order (R151; assumption 1). A command in flight whose direct frame the channel held is
answered NOT_READY (8), among the alerts; the frames of the output queue stay in front (R164).

A channel holds an owned direct frame in its list or its slot, and an open poll pending or, counted, in its slot (R27, R40). -/
def Obligations.LockLostLeavesServing : Prop :=
  (∀ (c : Channel) (returned : List Byte) (s : State), (s.channel c).state = .serving →
    Leads (exec (.lockLost c returned) s) fun t => ∃ u j ls,
      u.channel c =
        { s.channel c with
          state := .relocking, attempts := min 255 ((s.channel c).attempts + 1), limit := some (s.fault.time + 50),
          direct := [], sendLimit := none, pendingPoll := none, flight := none } ∧
      (∀ d, d ≠ c → u.channel d = s.channel d) ∧
      s.serviceEnds u c true ∧
      (∀ v, (s.vehicle v).valid = false →
        ((∃ address kind ack, (s.channel c).flight = some (.drive v address kind ack)) → u.vehicle v =
          { s.vehicle v with
            link := .off, misses := 0, inTransit := false, staged := none, current := none, ahead := none, battery := none,
            fifthWheel := false, kingpin := false, rearHitch := false, speed := 0, direction := .neutral, zeroFrames := 15,
            lastTurn := .ahead, stopReason := none, attachedBehind := none, convoy := none }) ∧
        ((∀ address kind ack, (s.channel c).flight ≠ some (.drive v address kind ack)) → u.vehicle v = s.vehicle v)) ∧
      u = { s with vehicles := u.vehicles, convoys := u.convoys, channels := u.channels, freeCount := u.freeCount } ∧
      ((s.channel c).pollOpen = true → u.reported j c [] false ls) ∧
      ((s.channel c).pollOpen = false → j = u ∧ ls = []) ∧
      (∀ source tag args rest, s.mgmt.inFlight = true → s.mgmt.entries = ⟨source, 32 :: tag :: args, false⟩ :: rest →
        (s.channel c).ownsDirect = true →
        j.settledWith t source rest [32, tag, 8, 0] [[⟨.channelUnlock, .channel c, none⟩], ls]) ∧
      ((s.channel c).ownsDirect = false ∨ s.mgmt.inFlight = false →
        j.settled t [[⟨.channelUnlock, .channel c, none⟩], ls])) ∧
  (∀ u : ChannelUnit,
    (u.ownsDirect = true ↔
      (∃ e ∈ u.direct, e.owned = true) ∨ ∃ e response, u.flight = some (.direct e response) ∧ e.owned = true) ∧
    (u.pollOpen = true ↔
      u.pendingPoll ≠ none ∨ ∃ p replies garbled, u.flight = some (.poll p replies garbled true)))

/-! ## The refresh cycle -/

/-- A cycle start of a serving channel with no slot in flight (R29, R37, R41): the counter advances modulo 4, the vehicles
take their staging and acquisition events, and slot 0 carries the pending poll, else the oldest direct frame, else
nothing. On a channel that is not SERVING nothing happens: no slot, no frame (R22, R29, R36).

What a cycle start of a channel does to a valid vehicle (R11, R12, R15): departure, arrival, both as one event on an
unchanged channel, or acquisition. That departures and arrivals come first, and that an arrival on an unchanged channel
keeps the miss count, also for a vehicle in transit that has been staged anew to the channel it left, are assumptions 8 and
9. -/
def Obligations.CycleStartMovesVehiclesAndChoosesSlotZero : Prop :=
  (∀ (c : Channel) (s : State), (s.channel c).state ≠ .serving → exec (.cycleStart c) s = .next s) ∧
  (∀ (c : Channel) (s : State), (s.channel c).state = .serving → (s.channel c).flight = none →
      (∀ p, (s.channel c).pendingPoll = some p →
        exec (.cycleStart c) s = .next ((s.setChannel c
          { s.channel c with
            counter := ((s.channel c).counter + 1) % 4, slot := 0, pendingPoll := none
            flight := some (.poll p [] false true)
            sent := [3, channelCode p.channel, p.address, radioCheck [3, channelCode p.channel, p.address]] }).mapVehicles
          (fun _ x => x.cycleStart c))) ∧
      (∀ e rest, (s.channel c).pendingPoll = none → (s.channel c).direct = e :: rest →
        exec (.cycleStart c) s = .next ((s.setChannel c
          { s.channel c with
            counter := ((s.channel c).counter + 1) % 4, slot := 0, direct := rest
            sendLimit := if e.owned then none else (s.channel c).sendLimit
            flight := some (.direct e none)
            sent := [5, e.address, BitVec.ofNat 8 e.payload.length] ++ e.payload ++
              [radioCheck ([5, e.address, BitVec.ofNat 8 e.payload.length] ++ e.payload)] }).mapVehicles
          (fun _ x => x.cycleStart c))) ∧
      ((s.channel c).pendingPoll = none → (s.channel c).direct = [] →
        exec (.cycleStart c) s = .next ((s.setChannel c
          { s.channel c with counter := ((s.channel c).counter + 1) % 4, slot := 0 }).mapVehicles
          (fun _ x => x.cycleStart c)))) ∧
  (∀ (x : Vehicle) (c : Channel),
      (x.valid = false → x.cycleStart c = x) ∧
      (x.valid = true →
        (x.staged = none → x.cycleStart c =
          if x.link = .waiting ∧ x.inTransit = false ∧ x.active.channel = c then { x with link := .acquiring } else x) ∧
        (∀ a, x.staged = some a →
          (x.inTransit = false → x.active.channel = c → a.channel ≠ c → x.cycleStart c = { x with inTransit := true }) ∧
          (x.inTransit = false → x.active.channel = c → a.channel = c → x.cycleStart c =
            { x with active := a, staged := none, link := if x.link = .waiting then .acquiring else x.link }) ∧
          (x.inTransit = true → a.channel = c → x.active.channel ≠ c → x.cycleStart c =
            { x with active := a, staged := none, inTransit := false, link := .acquiring, misses := 0 }) ∧
          (x.inTransit = true → a.channel = c → x.active.channel = c → x.cycleStart c =
            { x with
              active := a, staged := none, inTransit := false
              link := if x.link = .waiting then .acquiring else x.link }) ∧
          (x.inTransit = true → a.channel ≠ c → x.cycleStart c = x) ∧
          (x.inTransit = false → x.active.channel ≠ c → x.cycleStart c = x))))

/-- A drive slot whose vehicle is v (R32, R33, R76): the shaping state of v's frame is written into its record, the drive
frame's bytes are sent, and the slot is in flight for v; an idle slot sends nothing. On a channel that is not SERVING no slot starts and no frame is sent (R22, R36).

The direction of a speed (R66), and a two-byte value, high byte first (R178). -/
def Obligations.FrameBuildSendsDriveFrame : Prop :=
  (∀ (c : Channel) (slot : SlotNo) (s : State), (s.channel c).state ≠ .serving → exec (.frameBuild c slot) s = .next s) ∧
  (∀ (c : Channel) (slot : SlotNo) (s : State), (s.channel c).state = .serving → (s.channel c).flight = none →
    (s.channel c).slot < slot →
    (s.slotOwner c slot = none → exec (.frameBuild c slot) s = .next (s.setChannel c { s.channel c with slot := slot })) ∧
    (∀ v, s.slotOwner c slot = some v →
      let x := s.vehicle v
      let f := s.shape v
      let body : List Byte :=
        [1, x.address] ++ twoBytes (BitVec.ofInt 16 f.pulse) ++ [f.turn.code] ++ twoBytes f.aux
      exec (.frameBuild c slot) s = .next
        ((s.setVehicle v
          { x with
            speed := f.speed
            direction := if f.speed = 0 then x.direction else directionOf f.speed
            zeroFrames := if f.speed = 0 then min 15 (x.zeroFrames + 1) else 0
            lastTurn := f.turn
            stopReason := f.stopReason }).setChannel c
          { s.channel c with
            slot := slot
            flight := some (.drive v x.address x.kind none)
            sent := body ++ [radioCheck body] }))) ∧
  (∀ x : Int, directionOf x = if 0 < x then .forward else if x < 0 then .reverse else .neutral) ∧
  (∀ h : Half, twoBytes h = [BitVec.ofNat 8 (h.toNat / 256), BitVec.ofNat 8 h.toNat])

/-- The vehicle of a drive slot is a served vehicle of the channel in whose slot set the slot lies and whose cycle this is
(R15, R30, R32), and where no two vehicles hold colliding assignments there is no other (R31).

Two assignments collide exactly where one slot of one cycle would belong to both (R31, R30). -/
def Obligations.SlotServesOneVehicle : Prop :=
  (∀ (s : State) (c : Channel) (slot : SlotNo), s.assignmentsApart →
      (∀ v, (s.vehicle v).active.divisor ∈ [1, 2, 4]) →
      ∀ v, s.slotOwner c slot = some v ↔
        (s.vehicle v).valid = true ∧ (s.vehicle v).inTransit = false ∧
        ((s.vehicle v).link = .acquiring ∨ (s.vehicle v).link = .online ∨ (s.vehicle v).link = .lost) ∧
        (s.vehicle v).active.channel = c ∧ 1 ≤ slot.val ∧
        (s.vehicle v).active.pattern.getLsbD (slot.val % (s.vehicle v).active.period) = true ∧
        (s.channel c).counter % (s.vehicle v).active.divisor = (s.vehicle v).active.phase) ∧
  (∀ a b : Assignment, a.divisor ∈ [1, 2, 4] → b.divisor ∈ [1, 2, 4] → a.phase < a.divisor → b.phase < b.divisor →
      (a.collides b = true ↔
        a.channel = b.channel ∧ ∃ slot : Nat, 1 ≤ slot ∧ slot ≤ 15 ∧ ∃ counter : Nat, counter < 4 ∧
          (a.pattern.getLsbD (slot % a.period) = true ∧ counter % a.divisor = a.phase) ∧
          (b.pattern.getLsbD (slot % b.period) = true ∧ counter % b.divisor = b.phase)))

/-- A frame received in a response window (R34, R39, R41): the first valid ack of a drive slot is kept, a valid IDENT reply
joins the list while it holds fewer than two, the first valid response to a direct frame is kept, and any other frame in a
poll's window marks it garbled; in a drive slot a frame that is no valid ack, or comes after one, is discarded, and in a direct
frame's window one that is no valid response, or comes after one; only the channel's slot changes. -/
def Obligations.ReceivedFrameIsJudged : Prop :=
  ∀ (c : Channel) (bytes : List Byte) (s : State),
    ((s.channel c).flight = none → exec (.radioFrameReceive c bytes) s = .next s) ∧
    (∀ v address kind, (s.channel c).flight = some (.drive v address kind none) →
      (∀ current ahead coupler battery,
        RadioFrame.parse bytes =
          some (.ack address (if kind = .tractor then 0 else 1) current ahead coupler battery) →
        exec (.radioFrameReceive c bytes) s = .next (s.setChannel c
          { s.channel c with
            flight := some (.drive v address kind (some
              { current := current, ahead := ahead
                battery := if coupler.toNat / 8 % 2 = 1 then some battery else none
                fifthWheel := kind = .tractor ∧ coupler.toNat % 2 = 1
                kingpin := kind = .trailer ∧ coupler.toNat / 2 % 2 = 1
                rearHitch := kind = .trailer ∧ coupler.toNat / 4 % 2 = 1 })) })) ∧
      ((∀ current ahead coupler battery,
        RadioFrame.parse bytes ≠
          some (.ack address (if kind = .tractor then 0 else 1) current ahead coupler battery)) →
        exec (.radioFrameReceive c bytes) s = .next s)) ∧
    (∀ v address kind a, (s.channel c).flight = some (.drive v address kind (some a)) →
      exec (.radioFrameReceive c bytes) s = .next s) ∧
    (∀ p replies garbled counted, (s.channel c).flight = some (.poll p replies garbled counted) →
      exec (.radioFrameReceive c bytes) s = .next (s.setChannel c
        { s.channel c with
          flight := some
            (match RadioFrame.parse bytes with
              | some (.identReply ch address own) =>
                if ch = channelCode p.channel ∧ address = p.address ∧ 1 ≤ own.toNat ∧ own.toNat ≤ 254 then
                  .poll p (if replies.length < 2 then replies ++ [own] else replies) garbled counted
                else .poll p replies true counted
              | _ => .poll p replies true counted) })) ∧
    (∀ e, (s.channel c).flight = some (.direct e none) →
      (∀ payload, RadioFrame.parse bytes = some (.directResponse e.address payload) →
        exec (.radioFrameReceive c bytes) s = .next (s.setChannel c
          { s.channel c with flight := some (.direct e (some payload)) })) ∧
      ((∀ payload, RadioFrame.parse bytes ≠ some (.directResponse e.address payload)) →
        exec (.radioFrameReceive c bytes) s = .next s)) ∧
    (∀ e payload, (s.channel c).flight = some (.direct e (some payload)) →
      exec (.radioFrameReceive c bytes) s = .next s)

/-- A response window that ends with no ack, for a valid vehicle (R17, R18): the miss count rises by 1 up to 15; an ACQUIRING
or ONLINE vehicle whose count reaches K goes LOST, with VEHICLE_LOST latched if it was ONLINE; below K, and for a vehicle that
is neither, a convoy member's convoy is not concerned.

The loss of a convoy member (R94): a convoy that is ROLLING, HOLD_PENDING or HOLDING becomes BROKEN with the cause LOST of
that member and no hold reference; in the other states it is kept.

The slot of a vehicle that has become leaving ends with the vehicle OFF, whatever was received: no telemetry, no miss
(R13, R14). -/
def Obligations.MissOrLeavingEndsSlot : Prop :=
  (∀ (c : Channel) (v : VehicleId) (address : Byte) (kind : Kind) (s : State),
      (s.channel c).flight = some (.drive v address kind none) → (s.vehicle v).valid = true →
      let x := s.vehicle v
      let n := min 15 (x.misses + 1)
      let s1 := s.setChannel c { s.channel c with flight := none }
      let lost := s1.setVehicle v
        { x with misses := n, link := .lost, speed := 0, direction := .neutral, zeroFrames := 15 }
      let broken : State :=
        match x.convoy with
        | some i =>
          if (s.convoy i).state = .rolling ∨ (s.convoy i).state = .holdPending ∨ (s.convoy i).state = .holding then
            lost.setConvoy i { s.convoy i with state := .broken, cause := some (.lost v), holdRef := none }
          else lost
        | none => lost
      ((x.link ≠ .acquiring ∧ x.link ≠ .online) ∨ n < s.limits.lostThreshold →
        exec (.responseWindowEnd c) s = .next (s1.setVehicle v { x with misses := n })) ∧
      (x.link = .acquiring → s.limits.lostThreshold ≤ n → exec (.responseWindowEnd c) s = .next broken) ∧
      (x.link = .online → s.limits.lostThreshold ≤ n →
        exec (.responseWindowEnd c) s = .next (broken.latched ⟨.vehicleLost, .vehicle v, x.current⟩))) ∧
  (∀ (c : Channel) (v : VehicleId) (address : Byte) (kind : Kind) (ack : Option Ack) (s : State),
      (s.channel c).flight = some (.drive v address kind ack) → (s.vehicle v).valid = false →
      exec (.responseWindowEnd c) s = .next
        ((s.setChannel c { s.channel c with flight := none }).setVehicle v
          { s.vehicle v with
            link := .off, misses := 0, inTransit := false, staged := none, current := none, ahead := none, battery := none,
            fifthWheel := false, kingpin := false, rearHitch := false, speed := 0, direction := .neutral, zeroFrames := 15,
            lastTurn := .ahead, stopReason := none, attachedBehind := none, convoy := none }))

/-- A response window that ends with a valid ack (R16): the vehicle is ONLINE with miss count 0 and the reported telemetry,
its speed and configuration as they were; BATTERY_LOW is latched where the battery has newly fallen below the floor. The
Convoy Engine, the Lane Arbiter and the Coupling Identifier act on that telemetry, each as its own statement says
(Obligations.ConvoyFollowsAcks, LaneListsFollowAcks, CouplerEventsFollowAcks): the convoys, lanes, attachments, identification
and polls are theirs. The latches of the four blocks, BATTERY_LOW with the vehicle as subject and its new current segment first
among them, are taken one after another with their alerts, in an order that keeps each block's own (R151, R16; assumption
1). -/
def Obligations.ValidAckWritesTelemetry : Prop :=
  ∀ (c : Channel) (v : VehicleId) (address : Byte) (kind : Kind) (a : Ack) (s : State),
    (s.channel c).flight = some (.drive v address kind (some a)) → (s.vehicle v).valid = true →
    let before := s.vehicle v
    let written : Vehicle :=
      { before with
        link := .online, misses := 0, current := a.current, ahead := a.ahead, battery := a.battery
        fifthWheel := before.kind = .tractor && a.fifthWheel
        kingpin := before.kind = .trailer && a.kingpin
        rearHitch := before.kind = .trailer && a.rearHitch }
    let batteryFalls : Bool :=
      match a.battery with
      | some b => decide (b.toNat < s.limits.batteryFloor ∧ ∀ o ∈ before.battery, s.limits.batteryFloor ≤ o.toNat)
      | none => false
    let s1 := (s.setChannel c { s.channel c with flight := none }).setVehicle v written
    let convoy := s1.convoyAck v before.current
    let lane := convoy.1.laneAck v
    let couple := lane.1.couplerAck v before
    Leads (exec (.responseWindowEnd c) s) fun t =>
      t.vehicle v = { written with attachedBehind := (t.vehicle v).attachedBehind } ∧
      (∀ w, w ≠ v → t.vehicle w = { s.vehicle w with attachedBehind := (t.vehicle w).attachedBehind }) ∧
      couple.1.settled t
        [if batteryFalls then [⟨.batteryLow, .vehicle v, a.current⟩] else [], convoy.2, lane.2, couple.2] ∧
      (∀ k, t.fault.flag k = (s.fault.flag k || (batteryFalls && decide (k = .batteryLow)) ||
        (convoy.2 ++ lane.2 ++ couple.2).any (fun l => k = l.cls))) ∧
      (∀ i, (s.vehicle v).convoy ≠ some i → t.convoy i = s.convoy i) ∧
      ((s.vehicle v).kind = .trailer → t.lanes = s.lanes) ∧
      (t.channel c).flight = none ∧
      (∀ d, t.channel d =
        { s.channel d with pendingPoll := (t.channel d).pendingPoll, flight := (t.channel d).flight }) ∧
      t =
        { s with
          vehicles := couple.1.vehicles, convoys := couple.1.convoys, lanes := couple.1.lanes, coupler := couple.1.coupler
          channels := couple.1.channels, fault := t.fault, freeCount := t.freeCount
          link := { s.link with queue := t.link.queue } }

/-- What the Convoy Engine does at an ack of a member (R91, R92, R93, R95, R99, R100, R102, R103, R104): the gaps of the
vehicle and of the one that follows it are computed afresh; a lead that enters a junction in a convoy that is not FORMING
records it with its last turn sent, or has TRAIL_FULL latched when the trail holds sixteen; a follower that enters the
segment of the entry at its cursor passes it, and the oldest entries that every member has passed are dropped, and no more
(`dropOldest`, Obligations.PassedEntriesAreDropped); a follower whose ahead segment is a junction that the entry at its cursor
does not name breaks a moving convoy with TRAIL_MISS; and HOLD_PENDING ends where the lead has left the hold reference. The
record is that of the vehicle's own convoy, and each latch names it and the vehicle's current segment. -/
def Obligations.ConvoyFollowsAcks : Prop :=
  (∀ (s : State) (c : Convoy) (v : VehicleId) (before : Option Segment), c.cursorsSound →
    let r := s.convoyAfterAck c v before
    let x := s.vehicle v
    let enters (g : Option Segment) : Prop := x.current ≠ none ∧ x.current ≠ before ∧ g = x.current
    let remeasured : List Member → List Member
      | f :: fs => { f with gap := gapBetween x.current (s.vehicle f.tractor).current } :: fs
      | [] => []
    (∀ lead followers, c.members = lead :: followers → lead.tractor = v →
      let left := c.state = .holdPending ∧ (x.current = none ∨ x.current ≠ c.holdRef)
      let kept : Convoy :=
        { c with
          members := lead :: remeasured followers
          state := if left then .holding else c.state
          holdRef := if left then none else c.holdRef }
      (∀ g, enters (some g) → s.isJunction (some g) = true → c.state ≠ .free → c.state ≠ .forming →
        (c.trail.length < 16 → r =
          (Convoy.dropOldest
            { kept with
              trail := c.trail ++ [⟨g, x.lastTurn⟩]
              members := { lead with cursor := lead.cursor + 1 } :: remeasured followers }, none)) ∧
        (16 ≤ c.trail.length → r = (kept, some .trailFull))) ∧
      (x.current = none ∨ x.current = before ∨ s.isJunction x.current = false ∨ c.state = .free ∨ c.state = .forming →
        r = (kept, none))) ∧
    (∀ pre p m post, c.members = pre ++ p :: m :: post → m.tractor = v →
      let here : Member := { m with gap := gapBetween (s.vehicle p.tractor).current x.current }
      let passes := enters ((c.trail[m.cursor]?).map TrailEntry.segment)
      let next := c.trail[if passes then m.cursor + 1 else m.cursor]?
      let moved : Convoy :=
        if passes then
          Convoy.dropOldest
            { c with members := pre ++ p :: { here with cursor := m.cursor + 1 } :: remeasured post }
        else { c with members := pre ++ p :: here :: remeasured post }
      let missed := s.isJunction x.ahead = true ∧ next.map TrailEntry.segment ≠ x.ahead ∧
        (c.state = .rolling ∨ c.state = .holdPending)
      (missed →
        r = ({ moved with state := .broken, cause := some (.trailMiss v), holdRef := none }, some .trailMiss)) ∧
      (¬missed → r = (moved, none)))) ∧
  (∀ (s : State) (v : VehicleId) (before : Option Segment),
    ((s.vehicle v).convoy = none → s.convoyAck v before = (s, [])) ∧
    (∀ i, (s.vehicle v).convoy = some i →
      let r := s.convoyAfterAck (s.convoy i) v before
      (s.convoyAck v before).1 = s.setConvoy i r.1 ∧
        (r.2 = none → (s.convoyAck v before).2 = []) ∧
        (∀ k, r.2 = some k → (s.convoyAck v before).2 = ([⟨k, .convoy i, (s.vehicle v).current⟩] : List Latch))))

/-- What the Lane Arbiter does at an ack of a tractor (R126 to R132): in the single-lane range of its current segment the unit
that holds it is entered, and one that does not is admitted as the last holder, entered, and leaves the waiting list, or
ZONE_OVERFULL is latched and the lists are kept when four others hold it. In another single-lane range that it looks into, an
entered holder none of whose members stands there is released, and a lead that may cross into it, and neither holds it nor
waits for it then, is put at the end of the waiting list unless that holds eight; every other holder and waiting unit keeps
its place. A range that the tractor neither stands in nor looks into lets the unit go by the conditions of R131 and R128. A
grant is judged for a range whose lists have changed, and for no other.

The single-lane range of a segment, the lead of a unit and its members (R113, R125, R126, R82). -/
def Obligations.LaneListsFollowAcks : Prop :=
  (∀ (s : State) (v : VehicleId), (s.vehicle v).kind = .tractor → s.convoysSound →
    let u := s.unitOf v
    let x := s.vehicle v
    let t := (s.laneAck v).1
    let judged (r : RangeId) (l : Lane) : Lane := if l = s.lane r then s.lane r else l.grant (s.laneCapacity r)
    t = { s with lanes := t.lanes } ∧
    (∀ r, s.laneRangeOf x.current = some r →
      ((∃ h ∈ (s.lane r).holders, h.unit = u) →
        (s.laneAck v).2 = [] ∧
        t.lane r = judged r
          { s.lane r with
            holders := (s.lane r).holders.map (fun h => if h.unit = u then { h with entered := true } else h) }) ∧
      ((∀ h ∈ (s.lane r).holders, h.unit ≠ u) → (s.lane r).holders.length < 4 →
        (s.laneAck v).2 = [] ∧
        t.lane r = judged r
          ⟨(s.lane r).holders ++ [⟨u, true⟩], (s.lane r).waiting.filter (fun w => w ≠ u)⟩) ∧
      ((∃ h ∈ (s.lane r).holders, h.unit = u) ∨ (s.lane r).holders.length < 4 →
        ∃ h ∈ (t.lane r).holders, h.unit = u ∧ h.entered = true) ∧
      ((∀ h ∈ (s.lane r).holders, h.unit ≠ u) → 4 ≤ (s.lane r).holders.length →
        (s.laneAck v).2 = ([⟨.zoneOverfull, .range r, x.current⟩] : List Latch) ∧ t.lane r = s.lane r)) ∧
    (s.laneRangeOf x.current = none → (s.laneAck v).2 = []) ∧
    (∀ r, s.laneRangeOf x.ahead = some r → s.lookupOf x.current ≠ some r →
      let kept := (s.lane r).holders.filter
        (fun h => ¬(h.unit = u ∧ h.entered = true ∧ ∀ m ∈ s.unitMembers u, s.lookupOf (s.vehicle m).current ≠ some r))
      let free := s.leadsUnit v = true ∧ (∀ h ∈ kept, h.unit ≠ u) ∧ u ∉ (s.lane r).waiting ∧
        s.crossingReason x.current x.ahead (s.controllingClass v) = none
      (free → (s.lane r).waiting.length < 8 → t.lane r = judged r ⟨kept, (s.lane r).waiting ++ [u]⟩) ∧
      (¬free ∨ 8 ≤ (s.lane r).waiting.length → t.lane r = judged r ⟨kept, (s.lane r).waiting⟩)) ∧
    (∀ r, s.laneRangeOf x.current ≠ some r → s.laneRangeOf x.ahead ≠ some r →
      let out := s.lookupOf x.current ≠ some r ∧ s.lookupOf x.ahead ≠ some r ∧ s.leadsUnit v = true
      let empty := ∀ m ∈ s.unitMembers u, s.lookupOf (s.vehicle m).current ≠ some r
      t.lane r = judged r
        { holders := (s.lane r).holders.filter (fun h => ¬(h.unit = u ∧ if h.entered then empty else out))
          waiting := if out then (s.lane r).waiting.filter (fun w => w ≠ u) else (s.lane r).waiting })) ∧
  (∀ (s : State) (g : Option Segment) (r : RangeId), s.laneRangeOf g = some r ↔
    s.lookupOf g = some r ∧ (s.zone r).valid = true ∧ 1 ≤ (s.zone r).rules.capacity) ∧
  (∀ (s : State) (v : VehicleId),
    ((s.vehicle v).convoy = none → s.leadsUnit v = true) ∧
      ∀ c, (s.vehicle v).convoy = some c →
        (s.leadsUnit v = true ↔ ∃ m ∈ (s.convoy c).members.head?, m.tractor = v)) ∧
  (∀ (s : State), (∀ v, s.unitMembers (.vehicle v) = [v]) ∧
    ∀ c, s.unitMembers (.convoy c) = (s.convoy c).members.map Member.tractor)

/-- What the Coupling Identifier does at an ack (R139 to R143, R147). A kingpin release of a trailer attached behind something
comes first: the trailer and every vehicle behind it are detached, and a start is judged. Then the front-side coupler, on what
the release has left: an opening detaches every vehicle behind, cancels the vehicle's own entry, with its polls withdrawn when
it is in flight, and a start is judged; a closure with a vehicle attached behind is ignored, one of a second trailer or with
four entries queued latches COUPLE_UNRESOLVED, and any other joins the end of the queue, and a start is judged; a flag that has
not changed does nothing. Nothing else changes, the latches are those of the release and then those of the coupler, and every
slot in flight is kept but for the counted mark of a cancelled poll. That a start is judged where CONFIRMED attachments alone
were dissolved is the model's choice (assumption 25).

The front-side coupler of a vehicle, what is attached behind it and behind that, and when an entry is blocked (R139, R138,
R143). -/
def Obligations.CouplerEventsFollowAcks : Prop :=
  (∀ (s : State) (x : VehicleId) (before : Vehicle),
    let now := s.vehicle x
    let t := (s.couplerAck x before).1
    ∃ m ls₁ ls₂, (s.couplerAck x before).2 = ls₁ ++ ls₂ ∧
      (now.kind = .trailer ∧ before.kingpin = true ∧ now.kingpin = false ∧ now.attachedBehind ≠ none →
        ∃ d, s.detached d (x :: s.rear x) ∧ d.startJudged m ls₁) ∧
      (¬(now.kind = .trailer ∧ before.kingpin = true ∧ now.kingpin = false ∧ now.attachedBehind ≠ none) →
        m = s ∧ ls₁ = []) ∧
      (before.frontCoupler = now.frontCoupler → t = m ∧ ls₂ = []) ∧
      (before.frontCoupler = true → now.frontCoupler = false →
        ∃ d u, m.detached d (m.rear x) ∧ d.entryCancelled u x ∧ u.startJudged t ls₂) ∧
      (before.frontCoupler = false → now.frontCoupler = true →
        let second := now.kind = .trailer ∧ ∃ f ∈ (m.vehicle x).attachedBehind, (m.vehicle f.1).kind = .trailer
        (m.behind x ≠ none → t = m ∧ ls₂ = []) ∧
        (m.behind x = none → second ∨ 4 ≤ m.coupler.queue.length →
          t = m ∧ ls₂ = [⟨.coupleUnresolved, .vehicle x, now.current⟩]) ∧
        (m.behind x = none → ¬second → m.coupler.queue.length < 4 →
          State.startJudged { m with coupler := { m.coupler with queue := m.coupler.queue ++ [x] } } t ls₂))) ∧
  (∀ x : Vehicle, x.frontCoupler = if x.kind = .tractor then x.fifthWheel else x.rearHitch) ∧
  (∀ (s : State) (v : VehicleId),
    (∀ w, s.behind v = some w → s.attached w v) ∧ (s.behind v = none → ∀ w, ¬s.attached w v) ∧
    (s.stringsSound → (s.behind v = none → s.rear v = []) ∧ ∀ w, s.behind v = some w → s.rear v = w :: s.rear w) ∧
    (s.blocked v = true ↔
      ∃ w f, (s.vehicle w).attachedBehind = some (f, .tentative) ∧ s.foremost w = s.foremost v))

/-- The end of slot 0's window (R39, R41, R43): an owned direct frame has its command answered OK, with the response when one
was expected, or TIMEOUT (6); an unowned one gives no reply; a poll whose report is discarded ends with nothing, and one whose
round still waits for another channel adds its report.

The send limit's expiry before the frame is sent: the command is answered TIMEOUT (6), and its entry stays in its place,
unowned (R42). That the limit is held as an expiry time, reached when it lies less than half the counter's range back, and
that an expiry before it changes nothing, are the model's choice (assumptions 5 and 4). -/
def Obligations.HousekeepingWindowAnswersOrReports : Prop :=
  (∀ (c : Channel) (s : State),
      (∀ e response source tag args rest, (s.channel c).flight = some (.direct e response) → e.owned = true →
        s.mgmt.inFlight = true → s.mgmt.entries = ⟨source, 32 :: tag :: args, false⟩ :: rest →
        exec (.housekeepingWindowEnd c) s = .next
          ((s.setChannel c { s.channel c with flight := none }).answered source rest
            (if e.expectReply then
              match response with
              | some p => [32, tag, 0, 0, BitVec.ofNat 8 p.length] ++ p
              | none => [32, tag, 6, 0]
            else [32, tag, 0, 0, 0]))) ∧
      (∀ e response, (s.channel c).flight = some (.direct e response) → e.owned = false →
        exec (.housekeepingWindowEnd c) s = .next (s.setChannel c { s.channel c with flight := none })) ∧
      (∀ p replies garbled, (s.channel c).flight = some (.poll p replies garbled false) →
        exec (.housekeepingWindowEnd c) s = .next (s.setChannel c { s.channel c with flight := none })) ∧
      (∀ p replies garbled i d, (s.channel c).flight = some (.poll p replies garbled true) → s.coupler.ident = some i →
        c ∈ i.awaiting → d ∈ i.awaiting → d ≠ c →
        exec (.housekeepingWindowEnd c) s = .next
          { s.setChannel c { s.channel c with flight := none } with
            coupler :=
              { s.coupler with
                ident := some
                  { i with
                    awaiting := i.awaiting.filter (fun x => x ≠ c)
                    replies := i.replies ++ replies.map (fun r => (c, r))
                    garbled := i.garbled || garbled } } })) ∧
  (∀ (c : Channel) (limit : Time) (s : State), (s.channel c).sendLimit = some limit →
      ((s.fault.time - limit).toNat < 32768 → (∃ e ∈ (s.channel c).direct, e.owned = true) → s.mgmt.inFlight = true →
        ∀ (source tag : Byte) (args : List Byte) (rest : List MgmtEntry),
          s.mgmt.entries = ⟨source, 32 :: tag :: args, false⟩ :: rest →
          exec (.sendLimitExpiry c) s = .next
            ((s.setChannel c
              { s.channel c with
                direct := (s.channel c).direct.map (fun e => { e with owned := false }), sendLimit := none }).answered
              source rest [32, tag, 6, 0])) ∧
      (32768 ≤ (s.fault.time - limit).toNat → exec (.sendLimitExpiry c) s = .next s))

/-- The end of a round (R145, R146): with exactly one reply, no garbled frame and a suitable trailer, the trailer is attached
behind the subject as TENTATIVE, and COUPLE_PENDING is latched with the foremost vehicle of the string as its subject and the
identification's vehicle's current segment; a failure short of round 3, with a channel SERVING, begins the next round; after
round 3, or with no channel SERVING (R144), COUPLE_UNRESOLVED is latched with the vehicle and its current segment. After a
success or the last failure the entry leaves the queue and a start is judged, whose latches come after. A round fails with no
reply or several, with a garbled frame, and with a reply that names no vehicle or none that is suitable. Of the channels only
the slot of this one ends, and only polls of the next round or identification are placed.

The vehicle that a reply names (R7: there is one at most), the trailers that are suitable, the vehicles reached by following
attachments forward, and the foremost of a string (R145, R7, R138). -/
def Obligations.RoundEndAttachesOrPollsAgain : Prop :=
  (∀ (c : Channel) (p : PollSubject) (replies : List Byte) (garbled : Bool) (i : Identification) (s : State),
    (s.channel c).flight = some (.poll p replies garbled true) → s.coupler.ident = some i → i.awaiting = [c] →
    let s1 := s.setChannel c { s.channel c with flight := none }
    Leads (exec (.housekeepingWindowEnd c) s) fun t => ∃ j ls,
      s1.roundEnded j
        { i with
          awaiting := [], replies := i.replies ++ replies.map (fun r => (c, r)), garbled := i.garbled || garbled } ls ∧
      t = ls.foldl State.latched j) ∧
  (∀ (s : State) (c : Channel) (address : Byte),
    let names (y : VehicleId) : Prop := (s.vehicle y).valid = true ∧ (s.vehicle y).address = address ∧
      (((s.vehicle y).active.channel = c ∧ (s.vehicle y).inTransit = false) ∨ ∃ a ∈ (s.vehicle y).staged, a.channel = c)
    (∀ y, s.occupant c address = some y → names y) ∧ (s.occupant c address = none → ∀ y, ¬names y) ∧
      (s.addressesApart → ∀ y, names y → s.occupant c address = some y)) ∧
  (∀ (s : State) (x y : VehicleId), s.suitable x y = true ↔
    (s.vehicle y).kind = .trailer ∧ (s.vehicle y).attachedBehind = none ∧ (s.vehicle y).kingpin = true ∧
      y ∉ s.forwardBy 64 x ∧
      (s.forwardBy 64 x).countP (fun w => (s.vehicle w).kind = .trailer) +
        (y :: s.rear y).countP (fun w => (s.vehicle w).kind = .trailer) ≤ 2) ∧
  (∀ (s : State) (v : VehicleId),
    ((s.vehicle v).attachedBehind = none → s.forwardBy 64 v = [v] ∧ s.foremost v = v) ∧
    (s.stringsSound → (s.vehicle (s.foremost v)).attachedBehind = none ∧
      ∀ f st, (s.vehicle v).attachedBehind = some (f, st) →
        s.forwardBy 64 v = v :: s.forwardBy 64 f ∧ s.foremost v = s.foremost f))

/-! ## Timers and inputs -/

/-- The silence timer's expiry (R54): throttle 0, turn AHEAD, timer STOPPED, aux flags kept; an ARMED binding becomes DISARMED
with BINDING_SILENT latched. Where a frame is accepted first at the moment of the expiry, the timer is restarted and the
expiry does not happen. That a timer is held as an expiry time, reached when it lies less than half the counter's range back,
and that an expiry before it changes nothing, are the model's choice (assumptions 5 and 4).

The time counter rises by 1 each millisecond and wraps from 65535 to 0, and nothing else changes (R152). -/
def Obligations.SilenceTimerAndTimeCounter : Prop :=
  (∀ (b : BindingId) (expiry : Time) (s : State), (s.binding b).timer = some expiry →
      ((s.fault.time - expiry).toNat < 32768 →
        ((s.binding b).state = .armed → exec (.silenceExpiry b) s = .next
          ((s.setBinding b { s.binding b with state := .disarmed, throttle := 0, turn := .ahead, timer := none }).latched
            ⟨.bindingSilent, .binding b, none⟩)) ∧
        ((s.binding b).state = .disarmed → exec (.silenceExpiry b) s = .next
          (s.setBinding b { s.binding b with throttle := 0, turn := .ahead, timer := none }))) ∧
      (32768 ≤ (s.fault.time - expiry).toNat → exec (.silenceExpiry b) s = .next s)) ∧
  (∀ (header : LinkHeader) (received : List Byte) (check : Half)
      (destination source g x y : Byte) (b : BindingId) (s : State),
      (destination = 0 ∨ destination = s.link.address) → 16 ≤ source.toNat → source.toNat ≤ 63 →
      s.bindingWithKey source (g.toNat % 4) = some b → 100 ≤ s.limits.silence → s.limits.silence ≤ 2000 →
      ∀ p ∈ [(Instr.drive header received check, (1 : Byte), [g, x]), (Instr.aux header received check, 2, [g, x, y])],
        LinkFrame.parse (linkBytes header received check) = some ⟨destination, source, p.2.1, p.2.2⟩ →
        Leads (exec p.1 s) fun t => exec (.silenceExpiry b) t = .next t) ∧
  (∀ s : State, Leads (exec .timeCounterTick s) fun t =>
      t = { s with fault := { s.fault with time := t.fault.time } } ∧
      t.fault.time.toNat = if s.fault.time.toNat = 65535 then 0 else s.fault.time.toNat + 1)

/-- The E-stop and supply-monitor inputs (R55, R156): an assertion edge latches once, and E-stop's disarms every ARMED
binding; a release changes the level and nothing else. -/
def Obligations.InputEdgesLatchOnce : Prop :=
  ∀ s : State,
    (s.pins.estop = false → exec .estopAssertionEdge s = .next
      (State.latched { s.mapBindings Binding.disarm with pins := { s.pins with estop := true } } ⟨.estop, .none, none⟩)) ∧
    (s.pins.supply = false → exec .supplyMonitorAssertionEdge s = .next
      (State.latched { s with pins := { s.pins with supply := true } } ⟨.supplyLow, .none, none⟩)) ∧
    exec .estopRelease s = .next { s with pins := { s.pins with estop := false } } ∧
    exec .supplyMonitorRelease s = .next { s with pins := { s.pins with supply := false } } ∧
    ∀ b, (s.mapBindings Binding.disarm).binding b =
      { s.binding b with state := if (s.binding b).state = .armed then .disarmed else (s.binding b).state }

/-! ## Faults -/

/-- What one latch does to the Fault Unit: its class's summary flag becomes set and the others are kept (R153), the record
captures it, is kept, or stays blank by the three rows of R154's table, and the time counter is kept (R152).

An alert is due exactly where the class's flag was clear, its alert enable is on and the alert node is not 0; its frame
goes from the router to the alert node with class code 5, the class, the subject and the summary flags as the latch leaves
them (R153, R155, R179).

The numbers of the classes (R151), and the kind byte and index byte of each subject (R179). -/
def Obligations.LatchIsCapturedAndAlerted : Prop :=
  (∀ (u : FaultUnit) (filter : CaptureFilter) (l : Latch),
      (∀ k, (u.take filter l).flag k = (u.flag k || decide (k = l.cls))) ∧
      (u.record = none → filter = .all ∨ l.cls.severe = true →
        (u.take filter l).record = some ⟨l, u.time⟩ ∧ (u.take filter l).multiple = u.multiple) ∧
      (u.record = none → filter = .severe → l.cls.severe = false →
        (u.take filter l).record = none ∧ (u.take filter l).multiple = u.multiple) ∧
      (∀ r, u.record = some r → (u.take filter l).record = some r ∧ (u.take filter l).multiple = true) ∧
      (u.take filter l).time = u.time ∧
      (∀ k : FaultClass, k.severe = true ↔
        k ∈ [FaultClass.vehicleLost, .trailMiss, .channelUnlock, .selftestFail, .supplyLow, .estop])) ∧
  (∀ (s : State) (l : Latch),
      (s.alertDue l.cls = true ↔
        s.fault.flag l.cls = false ∧ s.limits.alertEnable.getLsbD l.cls.number.val = true ∧ s.limits.alertNode ≠ 0) ∧
      s.alertFrame l =
        { destination := BitVec.ofNat 8 s.limits.alertNode, source := s.link.address, cls := 5
          payload := [BitVec.ofNat 8 l.cls.number.val] ++ l.subject.bytes ++
            [BitVec.ofNat 8 ((s.fault.take s.limits.filter l).summary.toNat / 256),
              BitVec.ofNat 8 (s.fault.take s.limits.filter l).summary.toNat] }) ∧
  [FaultClass.linkCheck, .unboundDrive, .bindingSilent, .vehicleLost, .batteryLow, .trailFull, .trailMiss, .couplePending,
    .coupleUnresolved, .zoneOverfull, .channelUnlock, .selftestFail, .supplyLow, .estop].map FaultClass.number =
    [0, 1, 2, 3, 4, 5, 6, 7, 8, 9, 10, 11, 12, 13] ∧
  (∀ (u : FaultUnit) (k : FaultClass), u.flag k = u.summary.getLsbD k.number.val) ∧
  Subject.none.bytes = [0, 0] ∧ (∀ n, (Subject.node n).bytes = [1, n]) ∧
  (∀ b : BindingId, (Subject.binding b).bytes = [2, BitVec.ofNat 8 b.val]) ∧
  (∀ v : VehicleId, (Subject.vehicle v).bytes = [3, BitVec.ofNat 8 v.val]) ∧
  (∀ c : ConvoyId, (Subject.convoy c).bytes = [4, BitVec.ofNat 8 c.val]) ∧
  (∀ r : RangeId, (Subject.range r).bytes = [5, BitVec.ofNat 8 r.val]) ∧
  [Channel.A, .B, .C, .D].map (fun c => (Subject.channel c).bytes) = [[6, 0], [6, 1], [6, 2], [6, 3]]

/-! ## Speed shaping -/

/-- The demand of a tractor (R57): the latest throttle of its ARMED unit binding, for a convoy member only while the convoy is
ROLLING or HOLD_PENDING, and 0 in every other case.

The measured gap of a follower (R91).

The gap factor and the load derating (R64, R65): F is 16 but for a follower with a known gap and positive demand, where it is
that of the follower's own entry, and D1 and T are the truncated products.

The unit of a tractor (R82), and the binding on a target: a non-empty one with that target, and none only where no such
binding stands (R46).

The chain of a tractor: itself and the vehicles behind it, two at most (R65, R138). -/
def Obligations.DemandGapAndLoad : Prop :=
  (∀ (s : State) (v : VehicleId),
      ((∀ b, s.bindingOn (s.unitOf v) = some b → b.state ≠ .armed) → s.demand v = 0) ∧
      (∀ b, s.bindingOn (s.unitOf v) = some b → b.state = .armed →
        ((s.vehicle v).convoy = none → s.unitOf v = .vehicle v ∧ s.demand v = b.throttle) ∧
        (∀ c, (s.vehicle v).convoy = some c → s.unitOf v = .convoy c ∧
          s.demand v = if (s.convoy c).state = .rolling ∨ (s.convoy c).state = .holdPending then b.throttle else 0))) ∧
  ((∀ p q : Segment, gapBetween (some p) (some q) =
      if p.val / 64 = q.val / 64 ∧ q.val % 64 ≤ p.val % 64 then .known (p.val % 64 - q.val % 64) else .unknown) ∧
    (∀ x, gapBetween none x = .unknown) ∧ (∀ x, gapBetween x none = .unknown)) ∧
  ((∀ (demand : Int) (gap : Gap) (gmin gmax : Nat),
      gapFactor demand gap gmin gmax =
        if 0 < demand then
          match gap with
          | .known g =>
            if g < gmin then max 0 (16 - 6 * ((gmin : Int) - g))
            else if g ≤ gmax then 16
            else min 20 (16 + 2 * ((g : Int) - gmax))
          | _ => 16
        else 16) ∧
    (∀ (s : State) (v : VehicleId), (s.vehicle v).convoy = none → s.gapFactorOf v = 16) ∧
    (∀ (s : State) (v : VehicleId) (c : ConvoyId), (s.vehicle v).convoy = some c →
      (∀ lead followers, (s.convoy c).members = lead :: followers → lead.tractor = v → s.gapFactorOf v = 16) ∧
      (∀ lead pre m post, (s.convoy c).members = lead :: (pre ++ m :: post) → lead.tractor ≠ v → m.tractor = v →
        (∀ n ∈ pre, n.tractor ≠ v) → s.gapFactorOf v = gapFactor (s.demand v) m.gap m.gmin m.gmax)) ∧
    (∀ (s : State) (v : VehicleId), s.targetSpeed v =
      (max (-127) (min 127 ((s.demand v * s.gapFactorOf v).tdiv 16)) * (32 - 2 * (s.chainLoad v : Int))).tdiv 32) ∧
    (∀ (s : State) (v : VehicleId),
      (s.behind v = none → s.chainLoad v = 0) ∧
      (∀ a, s.behind v = some a →
        (s.behind a = none → s.chainLoad v = (s.vehicle a).loadClass) ∧
        (∀ b, s.behind a = some b → s.chainLoad v = (s.vehicle a).loadClass + (s.vehicle b).loadClass)))) ∧
  (∀ (s : State) (v : VehicleId),
    ((s.vehicle v).convoy = none → s.unitOf v = .vehicle v) ∧
      ∀ c, (s.vehicle v).convoy = some c → s.unitOf v = .convoy c) ∧
  (∀ (s : State) (target : MoveUnit),
    let ties (b : BindingId) : Prop := (s.binding b).state ≠ .empty ∧ ∃ t ∈ (s.binding b).tie, t.target = target
    (∀ x, s.bindingOn target = some x → ∃ b, ties b ∧ x = s.binding b) ∧
      (s.bindingOn target = none → ∀ b, ¬ties b) ∧
      (s.bindingsDistinct → ∀ b, ties b → s.bindingOn target = some (s.binding b))) ∧
  (∀ (s : State) (v : VehicleId),
    (s.behind v = none → s.chain v = [v]) ∧
      ∀ a, s.behind v = some a →
        (s.behind a = none → s.chain v = [v, a]) ∧ ∀ b, s.behind a = some b → s.chain v = [v, a, b])

/-- The ramp and the reversal dwell, by the cases of R66 and R67. -/
def Obligations.RampFollowsStepsAndDwell : Prop :=
  ∀ (target previous : Int) (up down dwell : Nat) (direction : Direction) (z : Nat),
    let r := rampSpeed target previous up down dwell direction z
    (target = 0 → r = previous.sign * max 0 ((previous.natAbs : Int) - down)) ∧
    (previous ≠ 0 → target ≠ 0 → target.sign = previous.sign → previous.natAbs ≤ target.natAbs →
      r = target.sign * min (target.natAbs : Int) (previous.natAbs + up)) ∧
    (previous ≠ 0 → target ≠ 0 → target.sign = previous.sign → target.natAbs < previous.natAbs →
      r = previous.sign * max (target.natAbs : Int) (previous.natAbs - down)) ∧
    (previous ≠ 0 → target ≠ 0 → target.sign ≠ previous.sign →
      r = previous.sign * max 0 ((previous.natAbs : Int) - down)) ∧
    (previous = 0 → target ≠ 0 →
      r = if direction = .neutral ∨ (direction = .forward ∧ 0 < target) ∨ (direction = .reverse ∧ target < 0) ∨ dwell ≤ z
        then target.sign * min (target.natAbs : Int) up else 0) ∧
    r.natAbs ≤ max target.natAbs previous.natAbs

/-- A tractor's drive frame carries the ramped speed clamped by its forward and reverse caps, or 0 under the hard zero, not
forward under a forward-stop reason; a trailer's carries 0 and 1500; every pulse value lies in 1000–2000 (R62, R71, R72,
R73). The caps are the zone cap, the LIMITS reverse cap and the crawl term of its chain's batteries (R70, R71).

The pulse value is 1500 plus the offset plus the trim, clamped; the offset is speed × span ÷ 127 rounded to the nearest
integer, halves away from zero (R73).

The forward-stop reason: the crossing reason, else LANE_WAIT, else the trail's own (R68, R101, R134). The turn code (R58,
R74) and the aux flags (R59). -/
def Obligations.FrameStaysWithinCaps : Prop :=
  (∀ (s : State) (v : VehicleId),
      let x := s.vehicle v
      let f := s.shape v
      let zone := s.zoneCap x.current x.ahead
      (x.kind = .tractor →
        (s.pins.estop = true ∨ x.link ≠ .online → f.speed = 0) ∧
        (s.pins.estop = false → x.link = .online → f.speed = max (-(s.capReverse v : Int)) (min (s.capForward v)
          (rampSpeed (s.targetSpeed v) x.speed x.accelUp x.accelDown x.dwell x.direction x.zeroFrames))) ∧
        f.pulse = pulseValue f.speed x.span x.trim ∧
        -(s.capReverse v : Int) ≤ f.speed ∧ f.speed ≤ s.capForward v ∧ (f.stopReason ≠ none → f.speed ≤ 0) ∧
        ((∃ w ∈ s.chain v, ∀ b ∈ (s.vehicle w).battery, b.toNat < s.limits.batteryFloor) →
          s.capForward v = (if f.stopReason = none then min zone s.limits.crawlCap else 0) ∧
          s.capReverse v = min (min zone s.limits.reverseCap) s.limits.crawlCap) ∧
        ((∀ w ∈ s.chain v, ∃ b ∈ (s.vehicle w).battery, s.limits.batteryFloor ≤ b.toNat) →
          s.capForward v = (if f.stopReason = none then zone else 0) ∧
          s.capReverse v = min zone s.limits.reverseCap)) ∧
      (x.kind = .trailer → f.speed = 0 ∧ f.pulse = 1500 ∧ f.turn = .ahead ∧ f.stopReason = none) ∧
      1000 ≤ f.pulse ∧ f.pulse ≤ 2000) ∧
  (∀ (speed : Int) (span : Nat) (trim : Int),
      pulseValue speed span trim = max 1000 (min 2000 (1500 + pulseOffset speed span + trim)) ∧
      2 * |127 * pulseOffset speed span - speed * span| ≤ 127 ∧
      (2 * |127 * pulseOffset speed span - speed * span| = 127 → |speed * span| < |127 * pulseOffset speed span|)) ∧
  (∀ (s : State) (v : VehicleId), (s.vehicle v).kind = .tractor →
      let x := s.vehicle v
      let reason := (s.shape v).stopReason
      let crossing := s.crossingReason x.current x.ahead (s.controllingClass v)
      let waits := ∃ r, s.lookupOf x.ahead = some r ∧ s.lookupOf x.current ≠ some r ∧ 1 ≤ (s.zone r).rules.capacity ∧
        ∀ h ∈ (s.lane r).holders, h.unit ≠ s.unitOf v
      (∀ k, crossing = some k → reason = some k) ∧
      (crossing = none → waits → reason = some .laneWait) ∧
      (crossing = none → ¬waits → x.convoy = none → reason = none) ∧
      (∀ c, crossing = none → ¬waits → x.convoy = some c →
        (∀ lead followers, (s.convoy c).members = lead :: followers → lead.tractor = v →
          reason = if (s.convoy c).trail.length = 16 ∧ s.isJunction x.ahead = true then some .trailFull else none) ∧
        (∀ lead pre m post, (s.convoy c).members = lead :: (pre ++ m :: post) → lead.tractor ≠ v → m.tractor = v →
          (∀ n ∈ pre, n.tractor ≠ v) →
          reason =
            if s.isJunction x.ahead = true ∧ ((s.convoy c).trail[m.cursor]?).map TrailEntry.segment ≠ x.ahead then
              some .trailMiss
            else none)) ∧
      s.controllingClass v =
        (match s.bindingOn (s.unitOf v) with
          | some ⟨_, some t, _, _, _, _⟩ => t.cls
          | _ => .driver)) ∧
  (∀ (s : State) (v : VehicleId),
      let x := s.vehicle v
      let request : Turn := match s.bindingOn (s.unitOf v) with
        | some b => b.turn
        | none => .ahead
      let lights (t : VehicleId) : Half := match s.bindingOn (.vehicle t), (s.vehicle t).convoy with
        | some b, _ => b.aux
        | none, some c => (match s.bindingOn (.convoy c) with
          | some b => b.aux
          | none => 0)
        | none, none => 0
      (x.kind = .tractor →
        (x.convoy = none → (s.shape v).turn = request) ∧
        (∀ c lead followers, x.convoy = some c → (s.convoy c).members = lead :: followers → lead.tractor = v →
          (s.shape v).turn = request) ∧
        (∀ c lead pre m post, x.convoy = some c → (s.convoy c).members = lead :: (pre ++ m :: post) → lead.tractor ≠ v →
          m.tractor = v → (∀ n ∈ pre, n.tractor ≠ v) →
          (∀ e, (s.convoy c).trail[m.cursor]? = some e → some e.segment = x.ahead → s.isJunction x.ahead = true →
            (s.shape v).turn = e.turn) ∧
          (s.isJunction x.ahead = false ∨ ((s.convoy c).trail[m.cursor]?).map TrailEntry.segment ≠ x.ahead →
            (s.shape v).turn = .ahead)) ∧
        (s.shape v).aux = lights v) ∧
      (x.kind = .trailer →
        (∀ b, s.bindingOn (.vehicle v) = some b → (s.shape v).aux = b.aux) ∧
        (s.bindingOn (.vehicle v) = none → (s.shape v).aux =
          if (s.vehicle (s.foremost v)).kind = .tractor then lights (s.foremost v) &&& 15 else 0)))

/-! ## Zone Map, gaps and trails -/

/-- The zone cap and the crossing reason (R69, R118, R119, R120).

The range of a segment: a valid one that covers it, and none only where no such range stands (R112). A junction segment is
one of a valid range with the junction attribute (R98), and an absent segment is none. -/
def Obligations.CrossingReasonFollowsRoadRules : Prop :=
  ∀ (s : State) (current ahead : Option Segment) (cls : DriverClass),
    let here := s.rulesOf (s.lookupOf current)
    let there := s.rulesOf (s.lookupOf ahead)
    (s.crossingReason current ahead cls =
      if ahead = none ∨ s.lookupOf ahead = s.lookupOf current then none
      else if there.entry = false then some .entryClosed
      else if here.exit = false then some .exitClosed
      else if there.marshalOnly = true ∧ here.marshalOnly = false ∧ cls = .driver then some .marshalOnly
      else none) ∧
    (s.zoneCap current ahead =
      min (if current = none then s.limits.unknownCap else here.cap)
        (if ahead = none then (if current = none then s.limits.unknownCap else here.cap) else there.cap)) ∧
    (s.rulesOf none = ⟨s.limits.openCap, true, true, false, false, 0⟩) ∧
    (∀ g r, s.lookup g = some r → (s.zone r).valid = true ∧ (s.zone r).first ≤ g ∧ g ≤ (s.zone r).last ∧
      s.rulesOf (s.lookup g) = (s.zone r).rules) ∧
    (∀ g, s.lookup g = none →
      ∀ r, ¬((s.zone r).valid = true ∧ (s.zone r).first ≤ g ∧ g ≤ (s.zone r).last)) ∧
    s.lookupOf none = none ∧ (∀ g, s.lookupOf (some g) = s.lookup g) ∧
    s.isJunction none = false ∧
    (∀ g, s.isJunction (some g) = true → ∃ r, (s.zone r).valid = true ∧ (s.zone r).first ≤ g ∧ g ≤ (s.zone r).last ∧
      (s.zone r).rules.junction = true) ∧
    (s.rangesApart → ∀ g r, (s.zone r).valid = true → (s.zone r).first ≤ g → g ≤ (s.zone r).last →
      (s.zone r).rules.junction = true → s.isJunction (some g) = true)

/-- The oldest entries that every member has passed are dropped, and no more: afterwards the trail is empty or some member has
a cursor of 0 (R104). -/
def Obligations.PassedEntriesAreDropped : Prop :=
  ∀ c : Convoy, c.members ≠ [] → (∀ m ∈ c.members, m.cursor ≤ c.trail.length) →
    ∃ k, (∀ m ∈ c.members, k ≤ m.cursor) ∧
      c.dropOldest =
        { c with trail := c.trail.drop k, members := c.members.map (fun m => { m with cursor := m.cursor - k }) } ∧
      (c.dropOldest.trail = [] ∨ ∃ m ∈ c.dropOldest.members, m.cursor = 0)

/-! ## Headline results -/

/-- A link frame of at most 128 payload bytes that goes out on the link is read back as it is: no bit of the layout of R179
is dropped. Bytes are read as a frame only where they are that frame's own bytes (R162, R179).

The link frame check (R179): it starts at 65535 and takes each byte's bits from the high one down, shifting left and combining
with 4129 where the bit shifted out differs from the data bit. -/
def Obligations.LinkFrameRoundTrip : Prop :=
  (∀ f : LinkFrame, f.payload.length ≤ 128 → LinkFrame.parse f.encode = some f) ∧
  (∀ (bytes : List Byte) (f : LinkFrame), LinkFrame.parse bytes = some f → bytes = f.encode ∧ f.payload.length ≤ 128) ∧
  (∀ (header : LinkHeader) (payload : List Byte) (check : Half), linkBytes header payload check =
    [header.destination, header.source, header.cls, header.length] ++ payload ++
      [BitVec.ofNat 8 (check.toNat / 256), BitVec.ofNat 8 check.toNat]) ∧
  linkCheck [] = 65535 ∧
  (∀ (bytes : List Byte) (b : Byte), linkCheck (bytes ++ [b]) =
    [7, 6, 5, 4, 3, 2, 1, 0].foldl
      (fun (check : Half) k => if check.getLsbD 15 ≠ b.getLsbD k then (check <<< 1) ^^^ 4129 else check <<< 1) (linkCheck bytes)) ∧
  (∀ f : LinkFrame,
    let body : List Byte := [f.destination, f.source, f.cls, BitVec.ofNat 8 f.payload.length] ++ f.payload
    f.encode =
      body ++ [BitVec.ofNat 8 ((linkCheck body).toNat / 256), BitVec.ofNat 8 (linkCheck body).toNat])

/-- A radio frame of R181 that goes out on a channel is read back as it is, with payloads in their lengths. Bytes are read as a
frame only where they are that frame's own bytes, check, type, length and segment values included; all others are refused (R34,
R39, R41, R181).

The codes in a radio frame: channels A to D are 0 to 3, and the turns AHEAD, LEFT and RIGHT are 0, 1 and 2 (R178).

The radio frame check (R181): it starts at 0 and takes each byte's bits from the high one down, shifting left and combining
with 7 where the bit shifted out differs from the data bit.

The bytes of each frame: its type, its fields and the check over them (R181). -/
def Obligations.RadioFrameRoundTrip : Prop :=
  (∀ f : RadioFrame,
    (∀ a p, f = .direct a p → 1 ≤ p.length ∧ p.length ≤ 8) → (∀ a p, f = .directResponse a p → p.length ≤ 8) →
    RadioFrame.parse f.encode = some f) ∧
  (∀ (bytes : List Byte) (f : RadioFrame), RadioFrame.parse bytes = some f →
    bytes = f.encode ∧ (∀ a p, f = .direct a p → 1 ≤ p.length ∧ p.length ≤ 8) ∧
      (∀ a p, f = .directResponse a p → p.length ≤ 8)) ∧
  [Channel.A, .B, .C, .D].map channelCode = ([0, 1, 2, 3] : List Byte) ∧
  [Turn.ahead, .left, .right].map Turn.code = ([0, 1, 2] : List Byte) ∧
  radioCheck [] = 0 ∧
  (∀ (bytes : List Byte) (b : Byte), radioCheck (bytes ++ [b]) =
    [7, 6, 5, 4, 3, 2, 1, 0].foldl
      (fun (check : Byte) k => if check.getLsbD 7 ≠ b.getLsbD k then (check <<< 1) ^^^ 7 else check <<< 1) (radioCheck bytes)) ∧
  (∀ f : RadioFrame,
    let segment (g : Option Segment) : List Byte := match g with
      | some g => [BitVec.ofNat 8 (g.val / 256), BitVec.ofNat 8 g.val]
      | none => [255, 255]
    let two (h : Half) : List Byte := [BitVec.ofNat 8 (h.toNat / 256), BitVec.ofNat 8 h.toNat]
    let body : List Byte := match f with
      | .drive address pulse turn aux => [1, address] ++ two pulse ++ [turn] ++ two aux
      | .ack address marker current ahead coupler battery =>
        [2, address, marker] ++ segment current ++ segment ahead ++ [coupler, battery]
      | .identPoll channel address => [3, channel, address]
      | .identReply channel address own => [4, channel, address, own]
      | .direct address payload => [5, address, BitVec.ofNat 8 payload.length] ++ payload
      | .directResponse address payload => [6, address, BitVec.ofNat 8 payload.length] ++ payload
    f.encode = body ++ [radioCheck body])

/-- Every queue and list stays within its capacity. -/
def Obligations.QueuesStayWithinCapacity : Prop :=
  KeptBySteps State.withinCapacity

/-- No two valid ranges ever cover the same segment (R115).

No unit ever comes to stand twice in the two lists of a range, and the lists of a range that is not single-lane stay empty
(R125). -/
def Obligations.RangesStayApart : Prop :=
  (KeptBySteps State.rangesApart) ∧
  (KeptBySteps State.lanesSound)

/-- No two non-empty bindings ever share a key or a target (R46). -/
def Obligations.BindingsStayDistinct : Prop :=
  KeptBySteps State.bindingsDistinct

/-- No slot of any cycle ever belongs to two vehicles: no two vehicles come to hold colliding assignments, through staging,
departure, arrival and invalidation (R8, R31).

No two valid vehicles ever come to share both a channel and a radio address (R7).

Only trailers are ever attached, at most one behind each vehicle, in strings without a loop and with at most two trailers
(R138).

The configuration fields of every record, the active and the staged assignment among them, stay in the ranges of R3, with a
cycle divisor of 1, 2 or 4. -/
def Obligations.FleetStaysApart : Prop :=
  (KeptBySteps State.assignmentsApart) ∧
  (KeptBySteps State.addressesApart) ∧
  (KeptBySteps State.stringsSound) ∧
  (KeptBySteps fun s => ∀ v, (s.vehicle v).configSound)

/-- Every vehicle's shaping state stays sound: the speed in −127…+127, a nonzero speed going with its direction and a
zero-frame count of 0 (R66, R73). -/
def Obligations.ShapingStateStaysSound : Prop :=
  KeptBySteps fun s => ∀ v, (s.vehicle v).shapingSound

/-- Every convoy's cursors stay in its trail, the lead's at its end, and no tractor comes to be a member twice (R80, R98,
R104). A hold reference stays present exactly in HOLD_PENDING and a break cause only in BROKEN; an allocated convoy keeps a
member and a FREE one none and no trail; bands and gaps stay in their ranges; and every member stays a valid tractor whose
convoy field names the convoy (R79, R80, R81). -/
def Obligations.TrailCursorsStaySound : Prop :=
  KeptBySteps State.convoysSound

/-- The multiple flag is set only while the record is locked, and a locked record's class keeps its summary flag (R154,
R158). -/
def Obligations.FaultRecordStaysSound : Prop :=
  KeptBySteps fun s => s.fault.sound

/-- The invariants hold at the reset state. -/
def Obligations.InvariantsHoldAtReset : Prop :=
  State.reset.withinCapacity ∧ State.reset.rangesApart ∧ State.reset.bindingsDistinct ∧ State.reset.assignmentsApart ∧
    State.reset.addressesApart ∧ (∀ v, (State.reset.vehicle v).shapingSound) ∧ State.reset.convoysSound ∧
    State.reset.fault.sound ∧ State.reset.lanesSound ∧ State.reset.stringsSound ∧
    ∀ v, (State.reset.vehicle v).configSound
end

