-- ==== Sys2Proof/Laws/State.lean ====
section
/-! SUPPORT. What each update of the state leaves alone, field by field, and what reading a table after writing it gives. -/

namespace Sys2Proof.Machine

/-! ### setVehicle -/

@[simp] theorem setVehicle_pins (s : State) (v : VehicleId) (x : Vehicle) : (s.setVehicle v x).pins = s.pins := rfl
@[simp] theorem setVehicle_link (s : State) (v : VehicleId) (x : Vehicle) : (s.setVehicle v x).link = s.link := rfl
@[simp] theorem setVehicle_mgmt (s : State) (v : VehicleId) (x : Vehicle) : (s.setVehicle v x).mgmt = s.mgmt := rfl
@[simp] theorem setVehicle_bindings (s : State) (v : VehicleId) (x : Vehicle) : (s.setVehicle v x).bindings = s.bindings := rfl
@[simp] theorem setVehicle_channels (s : State) (v : VehicleId) (x : Vehicle) : (s.setVehicle v x).channels = s.channels := rfl
@[simp] theorem setVehicle_convoys (s : State) (v : VehicleId) (x : Vehicle) : (s.setVehicle v x).convoys = s.convoys := rfl
@[simp] theorem setVehicle_zones (s : State) (v : VehicleId) (x : Vehicle) : (s.setVehicle v x).zones = s.zones := rfl
@[simp] theorem setVehicle_lanes (s : State) (v : VehicleId) (x : Vehicle) : (s.setVehicle v x).lanes = s.lanes := rfl
@[simp] theorem setVehicle_coupler (s : State) (v : VehicleId) (x : Vehicle) : (s.setVehicle v x).coupler = s.coupler := rfl
@[simp] theorem setVehicle_limits (s : State) (v : VehicleId) (x : Vehicle) : (s.setVehicle v x).limits = s.limits := rfl
@[simp] theorem setVehicle_fault (s : State) (v : VehicleId) (x : Vehicle) : (s.setVehicle v x).fault = s.fault := rfl
@[simp] theorem setVehicle_freeCount (s : State) (v : VehicleId) (x : Vehicle) : (s.setVehicle v x).freeCount = s.freeCount := rfl
@[simp] theorem setVehicle_pending (s : State) (v : VehicleId) (x : Vehicle) : (s.setVehicle v x).pending = s.pending := rfl
@[simp] theorem setVehicle_binding (s : State) (v : VehicleId) (x : Vehicle) (i : BindingId) : (s.setVehicle v x).binding i = s.binding i := rfl
@[simp] theorem setVehicle_convoy (s : State) (v : VehicleId) (x : Vehicle) (i : ConvoyId) : (s.setVehicle v x).convoy i = s.convoy i := rfl
@[simp] theorem setVehicle_zone (s : State) (v : VehicleId) (x : Vehicle) (i : RangeId) : (s.setVehicle v x).zone i = s.zone i := rfl
@[simp] theorem setVehicle_lane (s : State) (v : VehicleId) (x : Vehicle) (i : RangeId) : (s.setVehicle v x).lane i = s.lane i := rfl
@[simp] theorem setVehicle_channel (s : State) (v : VehicleId) (x : Vehicle) (i : Channel) : (s.setVehicle v x).channel i = s.channel i := rfl

/-! ### setBinding -/

@[simp] theorem setBinding_pins (s : State) (b : BindingId) (x : Binding) : (s.setBinding b x).pins = s.pins := rfl
@[simp] theorem setBinding_link (s : State) (b : BindingId) (x : Binding) : (s.setBinding b x).link = s.link := rfl
@[simp] theorem setBinding_mgmt (s : State) (b : BindingId) (x : Binding) : (s.setBinding b x).mgmt = s.mgmt := rfl
@[simp] theorem setBinding_vehicles (s : State) (b : BindingId) (x : Binding) : (s.setBinding b x).vehicles = s.vehicles := rfl
@[simp] theorem setBinding_channels (s : State) (b : BindingId) (x : Binding) : (s.setBinding b x).channels = s.channels := rfl
@[simp] theorem setBinding_convoys (s : State) (b : BindingId) (x : Binding) : (s.setBinding b x).convoys = s.convoys := rfl
@[simp] theorem setBinding_zones (s : State) (b : BindingId) (x : Binding) : (s.setBinding b x).zones = s.zones := rfl
@[simp] theorem setBinding_lanes (s : State) (b : BindingId) (x : Binding) : (s.setBinding b x).lanes = s.lanes := rfl
@[simp] theorem setBinding_coupler (s : State) (b : BindingId) (x : Binding) : (s.setBinding b x).coupler = s.coupler := rfl
@[simp] theorem setBinding_limits (s : State) (b : BindingId) (x : Binding) : (s.setBinding b x).limits = s.limits := rfl
@[simp] theorem setBinding_fault (s : State) (b : BindingId) (x : Binding) : (s.setBinding b x).fault = s.fault := rfl
@[simp] theorem setBinding_freeCount (s : State) (b : BindingId) (x : Binding) : (s.setBinding b x).freeCount = s.freeCount := rfl
@[simp] theorem setBinding_pending (s : State) (b : BindingId) (x : Binding) : (s.setBinding b x).pending = s.pending := rfl
@[simp] theorem setBinding_vehicle (s : State) (b : BindingId) (x : Binding) (i : VehicleId) : (s.setBinding b x).vehicle i = s.vehicle i := rfl
@[simp] theorem setBinding_convoy (s : State) (b : BindingId) (x : Binding) (i : ConvoyId) : (s.setBinding b x).convoy i = s.convoy i := rfl
@[simp] theorem setBinding_zone (s : State) (b : BindingId) (x : Binding) (i : RangeId) : (s.setBinding b x).zone i = s.zone i := rfl
@[simp] theorem setBinding_lane (s : State) (b : BindingId) (x : Binding) (i : RangeId) : (s.setBinding b x).lane i = s.lane i := rfl
@[simp] theorem setBinding_channel (s : State) (b : BindingId) (x : Binding) (i : Channel) : (s.setBinding b x).channel i = s.channel i := rfl

/-! ### setConvoy -/

@[simp] theorem setConvoy_pins (s : State) (c : ConvoyId) (x : Convoy) : (s.setConvoy c x).pins = s.pins := rfl
@[simp] theorem setConvoy_link (s : State) (c : ConvoyId) (x : Convoy) : (s.setConvoy c x).link = s.link := rfl
@[simp] theorem setConvoy_mgmt (s : State) (c : ConvoyId) (x : Convoy) : (s.setConvoy c x).mgmt = s.mgmt := rfl
@[simp] theorem setConvoy_bindings (s : State) (c : ConvoyId) (x : Convoy) : (s.setConvoy c x).bindings = s.bindings := rfl
@[simp] theorem setConvoy_vehicles (s : State) (c : ConvoyId) (x : Convoy) : (s.setConvoy c x).vehicles = s.vehicles := rfl
@[simp] theorem setConvoy_channels (s : State) (c : ConvoyId) (x : Convoy) : (s.setConvoy c x).channels = s.channels := rfl
@[simp] theorem setConvoy_zones (s : State) (c : ConvoyId) (x : Convoy) : (s.setConvoy c x).zones = s.zones := rfl
@[simp] theorem setConvoy_lanes (s : State) (c : ConvoyId) (x : Convoy) : (s.setConvoy c x).lanes = s.lanes := rfl
@[simp] theorem setConvoy_coupler (s : State) (c : ConvoyId) (x : Convoy) : (s.setConvoy c x).coupler = s.coupler := rfl
@[simp] theorem setConvoy_limits (s : State) (c : ConvoyId) (x : Convoy) : (s.setConvoy c x).limits = s.limits := rfl
@[simp] theorem setConvoy_fault (s : State) (c : ConvoyId) (x : Convoy) : (s.setConvoy c x).fault = s.fault := rfl
@[simp] theorem setConvoy_freeCount (s : State) (c : ConvoyId) (x : Convoy) : (s.setConvoy c x).freeCount = s.freeCount := rfl
@[simp] theorem setConvoy_pending (s : State) (c : ConvoyId) (x : Convoy) : (s.setConvoy c x).pending = s.pending := rfl
@[simp] theorem setConvoy_vehicle (s : State) (c : ConvoyId) (x : Convoy) (i : VehicleId) : (s.setConvoy c x).vehicle i = s.vehicle i := rfl
@[simp] theorem setConvoy_binding (s : State) (c : ConvoyId) (x : Convoy) (i : BindingId) : (s.setConvoy c x).binding i = s.binding i := rfl
@[simp] theorem setConvoy_zone (s : State) (c : ConvoyId) (x : Convoy) (i : RangeId) : (s.setConvoy c x).zone i = s.zone i := rfl
@[simp] theorem setConvoy_lane (s : State) (c : ConvoyId) (x : Convoy) (i : RangeId) : (s.setConvoy c x).lane i = s.lane i := rfl
@[simp] theorem setConvoy_channel (s : State) (c : ConvoyId) (x : Convoy) (i : Channel) : (s.setConvoy c x).channel i = s.channel i := rfl

/-! ### setZone -/

@[simp] theorem setZone_pins (s : State) (r : RangeId) (x : Range) : (s.setZone r x).pins = s.pins := rfl
@[simp] theorem setZone_link (s : State) (r : RangeId) (x : Range) : (s.setZone r x).link = s.link := rfl
@[simp] theorem setZone_mgmt (s : State) (r : RangeId) (x : Range) : (s.setZone r x).mgmt = s.mgmt := rfl
@[simp] theorem setZone_bindings (s : State) (r : RangeId) (x : Range) : (s.setZone r x).bindings = s.bindings := rfl
@[simp] theorem setZone_vehicles (s : State) (r : RangeId) (x : Range) : (s.setZone r x).vehicles = s.vehicles := rfl
@[simp] theorem setZone_channels (s : State) (r : RangeId) (x : Range) : (s.setZone r x).channels = s.channels := rfl
@[simp] theorem setZone_convoys (s : State) (r : RangeId) (x : Range) : (s.setZone r x).convoys = s.convoys := rfl
@[simp] theorem setZone_lanes (s : State) (r : RangeId) (x : Range) : (s.setZone r x).lanes = s.lanes := rfl
@[simp] theorem setZone_coupler (s : State) (r : RangeId) (x : Range) : (s.setZone r x).coupler = s.coupler := rfl
@[simp] theorem setZone_limits (s : State) (r : RangeId) (x : Range) : (s.setZone r x).limits = s.limits := rfl
@[simp] theorem setZone_fault (s : State) (r : RangeId) (x : Range) : (s.setZone r x).fault = s.fault := rfl
@[simp] theorem setZone_freeCount (s : State) (r : RangeId) (x : Range) : (s.setZone r x).freeCount = s.freeCount := rfl
@[simp] theorem setZone_pending (s : State) (r : RangeId) (x : Range) : (s.setZone r x).pending = s.pending := rfl
@[simp] theorem setZone_vehicle (s : State) (r : RangeId) (x : Range) (i : VehicleId) : (s.setZone r x).vehicle i = s.vehicle i := rfl
@[simp] theorem setZone_binding (s : State) (r : RangeId) (x : Range) (i : BindingId) : (s.setZone r x).binding i = s.binding i := rfl
@[simp] theorem setZone_convoy (s : State) (r : RangeId) (x : Range) (i : ConvoyId) : (s.setZone r x).convoy i = s.convoy i := rfl
@[simp] theorem setZone_lane (s : State) (r : RangeId) (x : Range) (i : RangeId) : (s.setZone r x).lane i = s.lane i := rfl
@[simp] theorem setZone_channel (s : State) (r : RangeId) (x : Range) (i : Channel) : (s.setZone r x).channel i = s.channel i := rfl

/-! ### setLane -/

@[simp] theorem setLane_pins (s : State) (r : RangeId) (x : Lane) : (s.setLane r x).pins = s.pins := rfl
@[simp] theorem setLane_link (s : State) (r : RangeId) (x : Lane) : (s.setLane r x).link = s.link := rfl
@[simp] theorem setLane_mgmt (s : State) (r : RangeId) (x : Lane) : (s.setLane r x).mgmt = s.mgmt := rfl
@[simp] theorem setLane_bindings (s : State) (r : RangeId) (x : Lane) : (s.setLane r x).bindings = s.bindings := rfl
@[simp] theorem setLane_vehicles (s : State) (r : RangeId) (x : Lane) : (s.setLane r x).vehicles = s.vehicles := rfl
@[simp] theorem setLane_channels (s : State) (r : RangeId) (x : Lane) : (s.setLane r x).channels = s.channels := rfl
@[simp] theorem setLane_convoys (s : State) (r : RangeId) (x : Lane) : (s.setLane r x).convoys = s.convoys := rfl
@[simp] theorem setLane_zones (s : State) (r : RangeId) (x : Lane) : (s.setLane r x).zones = s.zones := rfl
@[simp] theorem setLane_coupler (s : State) (r : RangeId) (x : Lane) : (s.setLane r x).coupler = s.coupler := rfl
@[simp] theorem setLane_limits (s : State) (r : RangeId) (x : Lane) : (s.setLane r x).limits = s.limits := rfl
@[simp] theorem setLane_fault (s : State) (r : RangeId) (x : Lane) : (s.setLane r x).fault = s.fault := rfl
@[simp] theorem setLane_freeCount (s : State) (r : RangeId) (x : Lane) : (s.setLane r x).freeCount = s.freeCount := rfl
@[simp] theorem setLane_pending (s : State) (r : RangeId) (x : Lane) : (s.setLane r x).pending = s.pending := rfl
@[simp] theorem setLane_vehicle (s : State) (r : RangeId) (x : Lane) (i : VehicleId) : (s.setLane r x).vehicle i = s.vehicle i := rfl
@[simp] theorem setLane_binding (s : State) (r : RangeId) (x : Lane) (i : BindingId) : (s.setLane r x).binding i = s.binding i := rfl
@[simp] theorem setLane_convoy (s : State) (r : RangeId) (x : Lane) (i : ConvoyId) : (s.setLane r x).convoy i = s.convoy i := rfl
@[simp] theorem setLane_zone (s : State) (r : RangeId) (x : Lane) (i : RangeId) : (s.setLane r x).zone i = s.zone i := rfl
@[simp] theorem setLane_channel (s : State) (r : RangeId) (x : Lane) (i : Channel) : (s.setLane r x).channel i = s.channel i := rfl

/-! ### setChannel -/

@[simp] theorem setChannel_pins (s : State) (c : Channel) (x : ChannelUnit) : (s.setChannel c x).pins = s.pins := rfl
@[simp] theorem setChannel_link (s : State) (c : Channel) (x : ChannelUnit) : (s.setChannel c x).link = s.link := rfl
@[simp] theorem setChannel_mgmt (s : State) (c : Channel) (x : ChannelUnit) : (s.setChannel c x).mgmt = s.mgmt := rfl
@[simp] theorem setChannel_bindings (s : State) (c : Channel) (x : ChannelUnit) : (s.setChannel c x).bindings = s.bindings := rfl
@[simp] theorem setChannel_vehicles (s : State) (c : Channel) (x : ChannelUnit) : (s.setChannel c x).vehicles = s.vehicles := rfl
@[simp] theorem setChannel_convoys (s : State) (c : Channel) (x : ChannelUnit) : (s.setChannel c x).convoys = s.convoys := rfl
@[simp] theorem setChannel_zones (s : State) (c : Channel) (x : ChannelUnit) : (s.setChannel c x).zones = s.zones := rfl
@[simp] theorem setChannel_lanes (s : State) (c : Channel) (x : ChannelUnit) : (s.setChannel c x).lanes = s.lanes := rfl
@[simp] theorem setChannel_coupler (s : State) (c : Channel) (x : ChannelUnit) : (s.setChannel c x).coupler = s.coupler := rfl
@[simp] theorem setChannel_limits (s : State) (c : Channel) (x : ChannelUnit) : (s.setChannel c x).limits = s.limits := rfl
@[simp] theorem setChannel_fault (s : State) (c : Channel) (x : ChannelUnit) : (s.setChannel c x).fault = s.fault := rfl
@[simp] theorem setChannel_freeCount (s : State) (c : Channel) (x : ChannelUnit) : (s.setChannel c x).freeCount = s.freeCount := rfl
@[simp] theorem setChannel_pending (s : State) (c : Channel) (x : ChannelUnit) : (s.setChannel c x).pending = s.pending := rfl
@[simp] theorem setChannel_vehicle (s : State) (c : Channel) (x : ChannelUnit) (i : VehicleId) : (s.setChannel c x).vehicle i = s.vehicle i := rfl
@[simp] theorem setChannel_binding (s : State) (c : Channel) (x : ChannelUnit) (i : BindingId) : (s.setChannel c x).binding i = s.binding i := rfl
@[simp] theorem setChannel_convoy (s : State) (c : Channel) (x : ChannelUnit) (i : ConvoyId) : (s.setChannel c x).convoy i = s.convoy i := rfl
@[simp] theorem setChannel_zone (s : State) (c : Channel) (x : ChannelUnit) (i : RangeId) : (s.setChannel c x).zone i = s.zone i := rfl
@[simp] theorem setChannel_lane (s : State) (c : Channel) (x : ChannelUnit) (i : RangeId) : (s.setChannel c x).lane i = s.lane i := rfl

/-! ### mapVehicles -/

@[simp] theorem mapVehicles_pins (s : State) (f : VehicleId → Vehicle → Vehicle) : (s.mapVehicles f).pins = s.pins := rfl
@[simp] theorem mapVehicles_link (s : State) (f : VehicleId → Vehicle → Vehicle) : (s.mapVehicles f).link = s.link := rfl
@[simp] theorem mapVehicles_mgmt (s : State) (f : VehicleId → Vehicle → Vehicle) : (s.mapVehicles f).mgmt = s.mgmt := rfl
@[simp] theorem mapVehicles_bindings (s : State) (f : VehicleId → Vehicle → Vehicle) : (s.mapVehicles f).bindings = s.bindings := rfl
@[simp] theorem mapVehicles_channels (s : State) (f : VehicleId → Vehicle → Vehicle) : (s.mapVehicles f).channels = s.channels := rfl
@[simp] theorem mapVehicles_convoys (s : State) (f : VehicleId → Vehicle → Vehicle) : (s.mapVehicles f).convoys = s.convoys := rfl
@[simp] theorem mapVehicles_zones (s : State) (f : VehicleId → Vehicle → Vehicle) : (s.mapVehicles f).zones = s.zones := rfl
@[simp] theorem mapVehicles_lanes (s : State) (f : VehicleId → Vehicle → Vehicle) : (s.mapVehicles f).lanes = s.lanes := rfl
@[simp] theorem mapVehicles_coupler (s : State) (f : VehicleId → Vehicle → Vehicle) : (s.mapVehicles f).coupler = s.coupler := rfl
@[simp] theorem mapVehicles_limits (s : State) (f : VehicleId → Vehicle → Vehicle) : (s.mapVehicles f).limits = s.limits := rfl
@[simp] theorem mapVehicles_fault (s : State) (f : VehicleId → Vehicle → Vehicle) : (s.mapVehicles f).fault = s.fault := rfl
@[simp] theorem mapVehicles_freeCount (s : State) (f : VehicleId → Vehicle → Vehicle) : (s.mapVehicles f).freeCount = s.freeCount := rfl
@[simp] theorem mapVehicles_pending (s : State) (f : VehicleId → Vehicle → Vehicle) : (s.mapVehicles f).pending = s.pending := rfl
@[simp] theorem mapVehicles_binding (s : State) (f : VehicleId → Vehicle → Vehicle) (i : BindingId) : (s.mapVehicles f).binding i = s.binding i := rfl
@[simp] theorem mapVehicles_convoy (s : State) (f : VehicleId → Vehicle → Vehicle) (i : ConvoyId) : (s.mapVehicles f).convoy i = s.convoy i := rfl
@[simp] theorem mapVehicles_zone (s : State) (f : VehicleId → Vehicle → Vehicle) (i : RangeId) : (s.mapVehicles f).zone i = s.zone i := rfl
@[simp] theorem mapVehicles_lane (s : State) (f : VehicleId → Vehicle → Vehicle) (i : RangeId) : (s.mapVehicles f).lane i = s.lane i := rfl
@[simp] theorem mapVehicles_channel (s : State) (f : VehicleId → Vehicle → Vehicle) (i : Channel) : (s.mapVehicles f).channel i = s.channel i := rfl

/-! ### mapBindings -/

@[simp] theorem mapBindings_pins (s : State) (f : Binding → Binding) : (s.mapBindings f).pins = s.pins := rfl
@[simp] theorem mapBindings_link (s : State) (f : Binding → Binding) : (s.mapBindings f).link = s.link := rfl
@[simp] theorem mapBindings_mgmt (s : State) (f : Binding → Binding) : (s.mapBindings f).mgmt = s.mgmt := rfl
@[simp] theorem mapBindings_vehicles (s : State) (f : Binding → Binding) : (s.mapBindings f).vehicles = s.vehicles := rfl
@[simp] theorem mapBindings_channels (s : State) (f : Binding → Binding) : (s.mapBindings f).channels = s.channels := rfl
@[simp] theorem mapBindings_convoys (s : State) (f : Binding → Binding) : (s.mapBindings f).convoys = s.convoys := rfl
@[simp] theorem mapBindings_zones (s : State) (f : Binding → Binding) : (s.mapBindings f).zones = s.zones := rfl
@[simp] theorem mapBindings_lanes (s : State) (f : Binding → Binding) : (s.mapBindings f).lanes = s.lanes := rfl
@[simp] theorem mapBindings_coupler (s : State) (f : Binding → Binding) : (s.mapBindings f).coupler = s.coupler := rfl
@[simp] theorem mapBindings_limits (s : State) (f : Binding → Binding) : (s.mapBindings f).limits = s.limits := rfl
@[simp] theorem mapBindings_fault (s : State) (f : Binding → Binding) : (s.mapBindings f).fault = s.fault := rfl
@[simp] theorem mapBindings_freeCount (s : State) (f : Binding → Binding) : (s.mapBindings f).freeCount = s.freeCount := rfl
@[simp] theorem mapBindings_pending (s : State) (f : Binding → Binding) : (s.mapBindings f).pending = s.pending := rfl
@[simp] theorem mapBindings_vehicle (s : State) (f : Binding → Binding) (i : VehicleId) : (s.mapBindings f).vehicle i = s.vehicle i := rfl
@[simp] theorem mapBindings_convoy (s : State) (f : Binding → Binding) (i : ConvoyId) : (s.mapBindings f).convoy i = s.convoy i := rfl
@[simp] theorem mapBindings_zone (s : State) (f : Binding → Binding) (i : RangeId) : (s.mapBindings f).zone i = s.zone i := rfl
@[simp] theorem mapBindings_lane (s : State) (f : Binding → Binding) (i : RangeId) : (s.mapBindings f).lane i = s.lane i := rfl
@[simp] theorem mapBindings_channel (s : State) (f : Binding → Binding) (i : Channel) : (s.mapBindings f).channel i = s.channel i := rfl

/-! ### mapConvoys -/

@[simp] theorem mapConvoys_pins (s : State) (f : Convoy → Convoy) : (s.mapConvoys f).pins = s.pins := rfl
@[simp] theorem mapConvoys_link (s : State) (f : Convoy → Convoy) : (s.mapConvoys f).link = s.link := rfl
@[simp] theorem mapConvoys_mgmt (s : State) (f : Convoy → Convoy) : (s.mapConvoys f).mgmt = s.mgmt := rfl
@[simp] theorem mapConvoys_bindings (s : State) (f : Convoy → Convoy) : (s.mapConvoys f).bindings = s.bindings := rfl
@[simp] theorem mapConvoys_vehicles (s : State) (f : Convoy → Convoy) : (s.mapConvoys f).vehicles = s.vehicles := rfl
@[simp] theorem mapConvoys_channels (s : State) (f : Convoy → Convoy) : (s.mapConvoys f).channels = s.channels := rfl
@[simp] theorem mapConvoys_zones (s : State) (f : Convoy → Convoy) : (s.mapConvoys f).zones = s.zones := rfl
@[simp] theorem mapConvoys_lanes (s : State) (f : Convoy → Convoy) : (s.mapConvoys f).lanes = s.lanes := rfl
@[simp] theorem mapConvoys_coupler (s : State) (f : Convoy → Convoy) : (s.mapConvoys f).coupler = s.coupler := rfl
@[simp] theorem mapConvoys_limits (s : State) (f : Convoy → Convoy) : (s.mapConvoys f).limits = s.limits := rfl
@[simp] theorem mapConvoys_fault (s : State) (f : Convoy → Convoy) : (s.mapConvoys f).fault = s.fault := rfl
@[simp] theorem mapConvoys_freeCount (s : State) (f : Convoy → Convoy) : (s.mapConvoys f).freeCount = s.freeCount := rfl
@[simp] theorem mapConvoys_pending (s : State) (f : Convoy → Convoy) : (s.mapConvoys f).pending = s.pending := rfl
@[simp] theorem mapConvoys_vehicle (s : State) (f : Convoy → Convoy) (i : VehicleId) : (s.mapConvoys f).vehicle i = s.vehicle i := rfl
@[simp] theorem mapConvoys_binding (s : State) (f : Convoy → Convoy) (i : BindingId) : (s.mapConvoys f).binding i = s.binding i := rfl
@[simp] theorem mapConvoys_zone (s : State) (f : Convoy → Convoy) (i : RangeId) : (s.mapConvoys f).zone i = s.zone i := rfl
@[simp] theorem mapConvoys_lane (s : State) (f : Convoy → Convoy) (i : RangeId) : (s.mapConvoys f).lane i = s.lane i := rfl
@[simp] theorem mapConvoys_channel (s : State) (f : Convoy → Convoy) (i : Channel) : (s.mapConvoys f).channel i = s.channel i := rfl

/-! ### mapLanes -/

@[simp] theorem mapLanes_pins (s : State) (f : RangeId → Lane → Lane) : (s.mapLanes f).pins = s.pins := rfl
@[simp] theorem mapLanes_link (s : State) (f : RangeId → Lane → Lane) : (s.mapLanes f).link = s.link := rfl
@[simp] theorem mapLanes_mgmt (s : State) (f : RangeId → Lane → Lane) : (s.mapLanes f).mgmt = s.mgmt := rfl
@[simp] theorem mapLanes_bindings (s : State) (f : RangeId → Lane → Lane) : (s.mapLanes f).bindings = s.bindings := rfl
@[simp] theorem mapLanes_vehicles (s : State) (f : RangeId → Lane → Lane) : (s.mapLanes f).vehicles = s.vehicles := rfl
@[simp] theorem mapLanes_channels (s : State) (f : RangeId → Lane → Lane) : (s.mapLanes f).channels = s.channels := rfl
@[simp] theorem mapLanes_convoys (s : State) (f : RangeId → Lane → Lane) : (s.mapLanes f).convoys = s.convoys := rfl
@[simp] theorem mapLanes_zones (s : State) (f : RangeId → Lane → Lane) : (s.mapLanes f).zones = s.zones := rfl
@[simp] theorem mapLanes_coupler (s : State) (f : RangeId → Lane → Lane) : (s.mapLanes f).coupler = s.coupler := rfl
@[simp] theorem mapLanes_limits (s : State) (f : RangeId → Lane → Lane) : (s.mapLanes f).limits = s.limits := rfl
@[simp] theorem mapLanes_fault (s : State) (f : RangeId → Lane → Lane) : (s.mapLanes f).fault = s.fault := rfl
@[simp] theorem mapLanes_freeCount (s : State) (f : RangeId → Lane → Lane) : (s.mapLanes f).freeCount = s.freeCount := rfl
@[simp] theorem mapLanes_pending (s : State) (f : RangeId → Lane → Lane) : (s.mapLanes f).pending = s.pending := rfl
@[simp] theorem mapLanes_vehicle (s : State) (f : RangeId → Lane → Lane) (i : VehicleId) : (s.mapLanes f).vehicle i = s.vehicle i := rfl
@[simp] theorem mapLanes_binding (s : State) (f : RangeId → Lane → Lane) (i : BindingId) : (s.mapLanes f).binding i = s.binding i := rfl
@[simp] theorem mapLanes_convoy (s : State) (f : RangeId → Lane → Lane) (i : ConvoyId) : (s.mapLanes f).convoy i = s.convoy i := rfl
@[simp] theorem mapLanes_zone (s : State) (f : RangeId → Lane → Lane) (i : RangeId) : (s.mapLanes f).zone i = s.zone i := rfl
@[simp] theorem mapLanes_channel (s : State) (f : RangeId → Lane → Lane) (i : Channel) : (s.mapLanes f).channel i = s.channel i := rfl

/-! ### mapChannels -/

@[simp] theorem mapChannels_pins (s : State) (f : ChannelUnit → ChannelUnit) : (s.mapChannels f).pins = s.pins := rfl
@[simp] theorem mapChannels_link (s : State) (f : ChannelUnit → ChannelUnit) : (s.mapChannels f).link = s.link := rfl
@[simp] theorem mapChannels_mgmt (s : State) (f : ChannelUnit → ChannelUnit) : (s.mapChannels f).mgmt = s.mgmt := rfl
@[simp] theorem mapChannels_bindings (s : State) (f : ChannelUnit → ChannelUnit) : (s.mapChannels f).bindings = s.bindings := rfl
@[simp] theorem mapChannels_vehicles (s : State) (f : ChannelUnit → ChannelUnit) : (s.mapChannels f).vehicles = s.vehicles := rfl
@[simp] theorem mapChannels_convoys (s : State) (f : ChannelUnit → ChannelUnit) : (s.mapChannels f).convoys = s.convoys := rfl
@[simp] theorem mapChannels_zones (s : State) (f : ChannelUnit → ChannelUnit) : (s.mapChannels f).zones = s.zones := rfl
@[simp] theorem mapChannels_lanes (s : State) (f : ChannelUnit → ChannelUnit) : (s.mapChannels f).lanes = s.lanes := rfl
@[simp] theorem mapChannels_coupler (s : State) (f : ChannelUnit → ChannelUnit) : (s.mapChannels f).coupler = s.coupler := rfl
@[simp] theorem mapChannels_limits (s : State) (f : ChannelUnit → ChannelUnit) : (s.mapChannels f).limits = s.limits := rfl
@[simp] theorem mapChannels_fault (s : State) (f : ChannelUnit → ChannelUnit) : (s.mapChannels f).fault = s.fault := rfl
@[simp] theorem mapChannels_freeCount (s : State) (f : ChannelUnit → ChannelUnit) : (s.mapChannels f).freeCount = s.freeCount := rfl
@[simp] theorem mapChannels_pending (s : State) (f : ChannelUnit → ChannelUnit) : (s.mapChannels f).pending = s.pending := rfl
@[simp] theorem mapChannels_vehicle (s : State) (f : ChannelUnit → ChannelUnit) (i : VehicleId) : (s.mapChannels f).vehicle i = s.vehicle i := rfl
@[simp] theorem mapChannels_binding (s : State) (f : ChannelUnit → ChannelUnit) (i : BindingId) : (s.mapChannels f).binding i = s.binding i := rfl
@[simp] theorem mapChannels_convoy (s : State) (f : ChannelUnit → ChannelUnit) (i : ConvoyId) : (s.mapChannels f).convoy i = s.convoy i := rfl
@[simp] theorem mapChannels_zone (s : State) (f : ChannelUnit → ChannelUnit) (i : RangeId) : (s.mapChannels f).zone i = s.zone i := rfl
@[simp] theorem mapChannels_lane (s : State) (f : ChannelUnit → ChannelUnit) (i : RangeId) : (s.mapChannels f).lane i = s.lane i := rfl

/-! ### appendFrame -/

@[simp] theorem appendFrame_pins (s : State) (g : LinkFrame) : (s.appendFrame g).pins = s.pins := rfl
@[simp] theorem appendFrame_mgmt (s : State) (g : LinkFrame) : (s.appendFrame g).mgmt = s.mgmt := rfl
@[simp] theorem appendFrame_bindings (s : State) (g : LinkFrame) : (s.appendFrame g).bindings = s.bindings := rfl
@[simp] theorem appendFrame_vehicles (s : State) (g : LinkFrame) : (s.appendFrame g).vehicles = s.vehicles := rfl
@[simp] theorem appendFrame_channels (s : State) (g : LinkFrame) : (s.appendFrame g).channels = s.channels := rfl
@[simp] theorem appendFrame_convoys (s : State) (g : LinkFrame) : (s.appendFrame g).convoys = s.convoys := rfl
@[simp] theorem appendFrame_zones (s : State) (g : LinkFrame) : (s.appendFrame g).zones = s.zones := rfl
@[simp] theorem appendFrame_lanes (s : State) (g : LinkFrame) : (s.appendFrame g).lanes = s.lanes := rfl
@[simp] theorem appendFrame_coupler (s : State) (g : LinkFrame) : (s.appendFrame g).coupler = s.coupler := rfl
@[simp] theorem appendFrame_limits (s : State) (g : LinkFrame) : (s.appendFrame g).limits = s.limits := rfl
@[simp] theorem appendFrame_fault (s : State) (g : LinkFrame) : (s.appendFrame g).fault = s.fault := rfl
@[simp] theorem appendFrame_freeCount (s : State) (g : LinkFrame) : (s.appendFrame g).freeCount = s.freeCount := rfl
@[simp] theorem appendFrame_pending (s : State) (g : LinkFrame) : (s.appendFrame g).pending = s.pending := rfl
@[simp] theorem appendFrame_vehicle (s : State) (g : LinkFrame) (i : VehicleId) : (s.appendFrame g).vehicle i = s.vehicle i := rfl
@[simp] theorem appendFrame_binding (s : State) (g : LinkFrame) (i : BindingId) : (s.appendFrame g).binding i = s.binding i := rfl
@[simp] theorem appendFrame_convoy (s : State) (g : LinkFrame) (i : ConvoyId) : (s.appendFrame g).convoy i = s.convoy i := rfl
@[simp] theorem appendFrame_zone (s : State) (g : LinkFrame) (i : RangeId) : (s.appendFrame g).zone i = s.zone i := rfl
@[simp] theorem appendFrame_lane (s : State) (g : LinkFrame) (i : RangeId) : (s.appendFrame g).lane i = s.lane i := rfl
@[simp] theorem appendFrame_channel (s : State) (g : LinkFrame) (i : Channel) : (s.appendFrame g).channel i = s.channel i := rfl

/-! ### popHead -/

@[simp] theorem popHead_pins (s : State) : (s.popHead).pins = s.pins := rfl
@[simp] theorem popHead_link (s : State) : (s.popHead).link = s.link := rfl
@[simp] theorem popHead_bindings (s : State) : (s.popHead).bindings = s.bindings := rfl
@[simp] theorem popHead_vehicles (s : State) : (s.popHead).vehicles = s.vehicles := rfl
@[simp] theorem popHead_channels (s : State) : (s.popHead).channels = s.channels := rfl
@[simp] theorem popHead_convoys (s : State) : (s.popHead).convoys = s.convoys := rfl
@[simp] theorem popHead_zones (s : State) : (s.popHead).zones = s.zones := rfl
@[simp] theorem popHead_lanes (s : State) : (s.popHead).lanes = s.lanes := rfl
@[simp] theorem popHead_coupler (s : State) : (s.popHead).coupler = s.coupler := rfl
@[simp] theorem popHead_limits (s : State) : (s.popHead).limits = s.limits := rfl
@[simp] theorem popHead_fault (s : State) : (s.popHead).fault = s.fault := rfl
@[simp] theorem popHead_freeCount (s : State) : (s.popHead).freeCount = s.freeCount := rfl
@[simp] theorem popHead_pending (s : State) : (s.popHead).pending = s.pending := rfl
@[simp] theorem popHead_vehicle (s : State) (i : VehicleId) : (s.popHead).vehicle i = s.vehicle i := rfl
@[simp] theorem popHead_binding (s : State) (i : BindingId) : (s.popHead).binding i = s.binding i := rfl
@[simp] theorem popHead_convoy (s : State) (i : ConvoyId) : (s.popHead).convoy i = s.convoy i := rfl
@[simp] theorem popHead_zone (s : State) (i : RangeId) : (s.popHead).zone i = s.zone i := rfl
@[simp] theorem popHead_lane (s : State) (i : RangeId) : (s.popHead).lane i = s.lane i := rfl
@[simp] theorem popHead_channel (s : State) (i : Channel) : (s.popHead).channel i = s.channel i := rfl

/-! ### headGoesInFlight -/

@[simp] theorem headGoesInFlight_pins (s : State) : (s.headGoesInFlight).pins = s.pins := rfl
@[simp] theorem headGoesInFlight_link (s : State) : (s.headGoesInFlight).link = s.link := rfl
@[simp] theorem headGoesInFlight_bindings (s : State) : (s.headGoesInFlight).bindings = s.bindings := rfl
@[simp] theorem headGoesInFlight_vehicles (s : State) : (s.headGoesInFlight).vehicles = s.vehicles := rfl
@[simp] theorem headGoesInFlight_channels (s : State) : (s.headGoesInFlight).channels = s.channels := rfl
@[simp] theorem headGoesInFlight_convoys (s : State) : (s.headGoesInFlight).convoys = s.convoys := rfl
@[simp] theorem headGoesInFlight_zones (s : State) : (s.headGoesInFlight).zones = s.zones := rfl
@[simp] theorem headGoesInFlight_lanes (s : State) : (s.headGoesInFlight).lanes = s.lanes := rfl
@[simp] theorem headGoesInFlight_coupler (s : State) : (s.headGoesInFlight).coupler = s.coupler := rfl
@[simp] theorem headGoesInFlight_limits (s : State) : (s.headGoesInFlight).limits = s.limits := rfl
@[simp] theorem headGoesInFlight_fault (s : State) : (s.headGoesInFlight).fault = s.fault := rfl
@[simp] theorem headGoesInFlight_freeCount (s : State) : (s.headGoesInFlight).freeCount = s.freeCount := rfl
@[simp] theorem headGoesInFlight_pending (s : State) : (s.headGoesInFlight).pending = s.pending := rfl
@[simp] theorem headGoesInFlight_vehicle (s : State) (i : VehicleId) : (s.headGoesInFlight).vehicle i = s.vehicle i := rfl
@[simp] theorem headGoesInFlight_binding (s : State) (i : BindingId) : (s.headGoesInFlight).binding i = s.binding i := rfl
@[simp] theorem headGoesInFlight_convoy (s : State) (i : ConvoyId) : (s.headGoesInFlight).convoy i = s.convoy i := rfl
@[simp] theorem headGoesInFlight_zone (s : State) (i : RangeId) : (s.headGoesInFlight).zone i = s.zone i := rfl
@[simp] theorem headGoesInFlight_lane (s : State) (i : RangeId) : (s.headGoesInFlight).lane i = s.lane i := rfl
@[simp] theorem headGoesInFlight_channel (s : State) (i : Channel) : (s.headGoesInFlight).channel i = s.channel i := rfl

/-! ### Reading a table after writing it -/

@[simp] theorem vehicle_setVehicle_same (s : State) (i : VehicleId) (x : Vehicle) : (s.setVehicle i x).vehicle i = x := by
  simp [State.setVehicle, State.vehicle]
theorem vehicle_setVehicle_other (s : State) (i j : VehicleId) (x : Vehicle) (h : j ≠ i) : (s.setVehicle i x).vehicle j = s.vehicle j := by
  have : i.val ≠ j.val := fun e => h (Fin.ext e.symm)
  simp [State.setVehicle, State.vehicle, Vector.getElem_set_ne, this]
theorem vehicle_setVehicle (s : State) (i j : VehicleId) (x : Vehicle) : (s.setVehicle i x).vehicle j = if j = i then x else s.vehicle j := by
  by_cases h : j = i
  · subst h; simp
  · simp [vehicle_setVehicle_other _ _ _ _ h, h]

@[simp] theorem binding_setBinding_same (s : State) (i : BindingId) (x : Binding) : (s.setBinding i x).binding i = x := by
  simp [State.setBinding, State.binding]
theorem binding_setBinding_other (s : State) (i j : BindingId) (x : Binding) (h : j ≠ i) : (s.setBinding i x).binding j = s.binding j := by
  have : i.val ≠ j.val := fun e => h (Fin.ext e.symm)
  simp [State.setBinding, State.binding, Vector.getElem_set_ne, this]
theorem binding_setBinding (s : State) (i j : BindingId) (x : Binding) : (s.setBinding i x).binding j = if j = i then x else s.binding j := by
  by_cases h : j = i
  · subst h; simp
  · simp [binding_setBinding_other _ _ _ _ h, h]

@[simp] theorem convoy_setConvoy_same (s : State) (i : ConvoyId) (x : Convoy) : (s.setConvoy i x).convoy i = x := by
  simp [State.setConvoy, State.convoy]
theorem convoy_setConvoy_other (s : State) (i j : ConvoyId) (x : Convoy) (h : j ≠ i) : (s.setConvoy i x).convoy j = s.convoy j := by
  have : i.val ≠ j.val := fun e => h (Fin.ext e.symm)
  simp [State.setConvoy, State.convoy, Vector.getElem_set_ne, this]
theorem convoy_setConvoy (s : State) (i j : ConvoyId) (x : Convoy) : (s.setConvoy i x).convoy j = if j = i then x else s.convoy j := by
  by_cases h : j = i
  · subst h; simp
  · simp [convoy_setConvoy_other _ _ _ _ h, h]

@[simp] theorem zone_setZone_same (s : State) (i : RangeId) (x : Range) : (s.setZone i x).zone i = x := by
  simp [State.setZone, State.zone]
theorem zone_setZone_other (s : State) (i j : RangeId) (x : Range) (h : j ≠ i) : (s.setZone i x).zone j = s.zone j := by
  have : i.val ≠ j.val := fun e => h (Fin.ext e.symm)
  simp [State.setZone, State.zone, Vector.getElem_set_ne, this]
theorem zone_setZone (s : State) (i j : RangeId) (x : Range) : (s.setZone i x).zone j = if j = i then x else s.zone j := by
  by_cases h : j = i
  · subst h; simp
  · simp [zone_setZone_other _ _ _ _ h, h]

@[simp] theorem lane_setLane_same (s : State) (i : RangeId) (x : Lane) : (s.setLane i x).lane i = x := by
  simp [State.setLane, State.lane]
theorem lane_setLane_other (s : State) (i j : RangeId) (x : Lane) (h : j ≠ i) : (s.setLane i x).lane j = s.lane j := by
  have : i.val ≠ j.val := fun e => h (Fin.ext e.symm)
  simp [State.setLane, State.lane, Vector.getElem_set_ne, this]
theorem lane_setLane (s : State) (i j : RangeId) (x : Lane) : (s.setLane i x).lane j = if j = i then x else s.lane j := by
  by_cases h : j = i
  · subst h; simp
  · simp [lane_setLane_other _ _ _ _ h, h]

theorem channelIndex_injective {c d : Channel} (h : channelIndex c = channelIndex d) : c = d := by
  cases c <;> cases d <;> first | rfl | (exact absurd h (by decide))

@[simp] theorem channel_setChannel_same (s : State) (c : Channel) (x : ChannelUnit) : (s.setChannel c x).channel c = x := by
  simp [State.setChannel, State.channel]

theorem channel_setChannel_other (s : State) (c d : Channel) (x : ChannelUnit) (h : d ≠ c) :
    (s.setChannel c x).channel d = s.channel d := by
  have : (channelIndex c).val ≠ (channelIndex d).val := fun e => h (channelIndex_injective (Fin.ext e.symm))
  simp [State.setChannel, State.channel, Vector.getElem_set_ne, this]

theorem channel_setChannel (s : State) (c d : Channel) (x : ChannelUnit) :
    (s.setChannel c x).channel d = if d = c then x else s.channel d := by
  by_cases h : d = c
  · subst h; simp
  · simp [channel_setChannel_other _ _ _ _ h, h]

/-- Writing back a record as it is changes nothing. -/
@[simp] theorem setChannel_self (s : State) (c : Channel) : s.setChannel c (s.channel c) = s := by
  simp [State.setChannel, State.channel]

@[simp] theorem vehicle_mapVehicles_same (s : State) (f : VehicleId → Vehicle → Vehicle) (i : VehicleId) : (s.mapVehicles f).vehicle i = f i (s.vehicle i) := by
  simp [State.mapVehicles, State.vehicle]

@[simp] theorem binding_mapBindings_same (s : State) (f : Binding → Binding) (i : BindingId) : (s.mapBindings f).binding i = f (s.binding i) := by
  simp [State.mapBindings, State.binding]

@[simp] theorem convoy_mapConvoys_same (s : State) (f : Convoy → Convoy) (i : ConvoyId) : (s.mapConvoys f).convoy i = f (s.convoy i) := by
  simp [State.mapConvoys, State.convoy]

@[simp] theorem lane_mapLanes_same (s : State) (f : RangeId → Lane → Lane) (i : RangeId) : (s.mapLanes f).lane i = f i (s.lane i) := by
  simp [State.mapLanes, State.lane]

@[simp] theorem channel_mapChannels_same (s : State) (f : ChannelUnit → ChannelUnit) (i : Channel) : (s.mapChannels f).channel i = f (s.channel i) := by
  simp [State.mapChannels, State.channel]

end Sys2Proof.Machine
end

