-- ==== Sys2Proof/Laws/Settle.lean ====
section
/-! SUPPORT. What the end of an event can do: latches change the Fault Unit alone, frames change the output queue alone, and
the choices consulted change the model's counter alone. -/

namespace Sys2Proof.Machine

/-! ### Frames joining the output queue -/

theorem offerFrame_cases (n : Nat) (s : State) (f : LinkFrame) :
    s.offerFrame n f = s.appendFrame f ∧ s.link.queue.length + n < 8 ∨
      s.offerFrame n f = s ∧ 8 ≤ s.link.queue.length + n := by
  unfold State.offerFrame; split <;> simp_all

/-- Offering frames one after another changes the output queue alone, only by appending, and never past its capacity. -/
theorem offerAll_spec (n : Nat) (fs : List LinkFrame) (s : State) :
    ∃ q, fs.foldl (State.offerFrame n) s = { s with link := { s.link with queue := s.link.queue ++ q } } ∧
      (s.link.queue.length + n ≤ 8 → s.link.queue.length + q.length + n ≤ 8) := by
  induction fs generalizing s with
  | nil => exact ⟨[], by simp⟩
  | cons f fs ih =>
    rcases offerFrame_cases n s f with ⟨h, hlt⟩ | ⟨h, _⟩
    · obtain ⟨q, hq, hl⟩ := ih (s.appendFrame f)
      refine ⟨f :: q, ?_, ?_⟩
      · rw [List.foldl_cons, h, hq]; simp [State.appendFrame]
      · intro _
        have : (s.appendFrame f).link.queue.length = s.link.queue.length + 1 := by simp [State.appendFrame]
        have := hl (by omega)
        simp only [List.length_cons]; omega
    · obtain ⟨q, hq, hl⟩ := ih s
      exact ⟨q, by rw [List.foldl_cons, h, hq], hl⟩

/-- What `emit` does: it appends to the output queue, within its capacity where the event's reply has its place. -/
theorem emit_spec (s : State) (reply : Option LinkFrame) (alerts : List LinkFrame) :
    ∃ q n, s.emit reply alerts =
        { s with link := { s.link with queue := s.link.queue ++ q }, freeCount := n } ∧
      (s.outCount + reply.toList.length ≤ 8 → s.link.queue.length + q.length + s.reserved ≤ 8) ∧
      (∀ r, reply = some r → r ∈ q) := by
  unfold State.emit State.outCount
  split
  · obtain ⟨q, hq, hl⟩ := offerAll_spec s.reserved alerts s
    exact ⟨q, s.freeCount, by rw [hq], by simpa using hl, by simp⟩
  · rename_i r
    exact ⟨[r], s.freeCount, rfl, by simp; omega, by simp⟩
  · rename_i r a as
    obtain ⟨q1, h1, l1⟩ := offerAll_spec (s.reserved + 1)
      ((a :: as).take (Config.freeChoice s.freeCount % ((a :: as).length + 1))) { s with freeCount := s.freeCount + 1 }
    dsimp only
    rw [h1]
    obtain ⟨q2, h2, l2⟩ := offerAll_spec s.reserved
      ((a :: as).drop (Config.freeChoice s.freeCount % ((a :: as).length + 1)))
      (State.appendFrame { s with link := { s.link with queue := s.link.queue ++ q1 }, freeCount := s.freeCount + 1 } r)
    rw [h2]
    refine ⟨q1 ++ r :: q2, s.freeCount + 1, by simp [State.appendFrame], ?_, by simp⟩
    intro h
    have e1 := l1 (by simp at h ⊢; omega)
    simp only [State.appendFrame, List.length_append, List.length_singleton] at l2
    simp only [List.length_append, List.length_cons] at *
    have := l2 (by omega)
    omega

/-! ### Latches -/

/-- Latches change the Fault Unit alone, and leave its time counter counting (R152). -/
theorem takeLatches_state (ls : List Latch) (s : State) :
    (takeLatches ls s).1 = { s with fault := ls.foldl (fun u l => u.take s.limits.filter l) s.fault } := by
  induction ls generalizing s with
  | nil => rfl
  | cons l ls ih => simp only [takeLatches, State.takeLatch]; rw [ih]; rfl

theorem takeAll_time (filter : CaptureFilter) (ls : List Latch) (u : FaultUnit) :
    (ls.foldl (fun u l => u.take filter l) u).time = u.time := by
  induction ls generalizing u with
  | nil => rfl
  | cons l ls ih => rw [List.foldl_cons, ih]; rfl

theorem orderLatches_empty (fuel count : Nat) (blocks : List (List Latch)) (h : blocks.flatten = []) :
    orderLatches fuel count blocks = ([], count) := by
  cases fuel with
  | zero => simp [orderLatches, h]
  | succ n =>
    have : liveBlocks blocks = [] := by
      simp only [liveBlocks, List.filter_eq_nil_iff]
      intro b hb
      have := List.flatten_eq_nil_iff.mp h b hb
      simp [this]
    simp [orderLatches, this]

/-! ### The end of an event -/

/-- What the end of an event can do, whatever its latches: the Fault Unit, the output queue and the counter of choices. -/
theorem settle_spec (w : Work) :
    ∃ u q n, w.settle =
        { w.state with fault := u, link := { w.state.link with queue := w.state.link.queue ++ q }, freeCount := n } ∧
      u.time = w.state.fault.time ∧
      (w.state.outCount + w.reply.toList.length ≤ 8 →
        w.state.link.queue.length + q.length + w.state.reserved ≤ 8) ∧
      (∀ r, w.reply = some r → r ∈ q) := by
  unfold Work.settle
  dsimp only
  rw [takeLatches_state]
  obtain ⟨q, n, h, hl, hm⟩ := emit_spec
    { w.state with
      freeCount := (orderLatches w.latches.flatten.length w.state.freeCount w.latches).2
      fault := (orderLatches w.latches.flatten.length w.state.freeCount w.latches).1.foldl
        (fun u l => u.take w.state.limits.filter l) w.state.fault }
    w.reply
    (takeLatches (orderLatches w.latches.flatten.length w.state.freeCount w.latches).1
      { w.state with freeCount := (orderLatches w.latches.flatten.length w.state.freeCount w.latches).2 }).2
  exact ⟨_, q, n, h, takeAll_time _ _ _, hl, hm⟩

/-- An event without latches and without a reply ends as it is. -/
theorem settle_quiet (w : Work) (hl : w.latches.flatten = []) (hr : w.reply = none) : w.settle = w.state := by
  unfold Work.settle
  rw [orderLatches_empty _ _ _ hl, hr]
  rfl

/-- An event without latches appends its reply and does nothing else. -/
theorem settle_reply (w : Work) (r : LinkFrame) (hl : w.latches.flatten = []) (hr : w.reply = some r) :
    w.settle = w.state.appendFrame r := by
  unfold Work.settle
  rw [orderLatches_empty _ _ _ hl, hr]
  rfl

/-- An event with one latch and no reply takes that latch, and its alert, if one is due, joins the output queue. -/
theorem settle_latch (s : State) (l : Latch) :
    Work.settle { state := s, latches := [[l]] } =
      (if s.alertDue l.cls then
        State.offerFrame s.reserved { s with fault := s.fault.take s.limits.filter l } (s.alertFrame l)
      else { s with fault := s.fault.take s.limits.filter l }) := by
  by_cases h : s.alertDue l.cls <;>
    simp [Work.settle, orderLatches, liveBlocks, takeLatches, State.takeLatch, State.emit, h]
  all_goals rfl

/-! ### Commands answered at once -/

/-- A state that has no executable head of the code is left as it is (assumption 4). -/
theorem atOnce_none (code : Byte) (run : List Byte → State → Done) (s : State) (h : s.readyFor code = none) :
    atOnce code run s = s := by
  simp [atOnce, h]

theorem atOnce_some (code : Byte) (run : List Byte → State → Done) (s : State) (e : MgmtEntry) (args : List Byte)
    (h : s.readyFor code = some (e, args)) : atOnce code run s = ((run args s).finish e).settle := by
  simp [atOnce, h]

/-- What a command answered at once does: its effect, and its reply at the end of the output queue. -/
theorem finish_settle (d : Done) (e : MgmtEntry) (hb : e.broadcast = false) (hl : d.latches = []) :
    (d.finish e).settle = d.state.popHead.appendFrame (d.state.replyTo e.source e.payload d.answer) :=
  settle_reply _ _ (by simp [Done.finish, hl]) (by simp [Done.finish, hb])

/-- A broadcast command leaves with no reply. -/
theorem finish_settle_broadcast (d : Done) (e : MgmtEntry) (hb : e.broadcast = true) (hl : d.latches = []) :
    (d.finish e).settle = d.state.popHead :=
  settle_quiet _ (by simp [Done.finish, hl]) (by simp [Done.finish, hb])

/-- The executable head of a code, from what the queues hold (R166). -/
theorem readyFor_head (s : State) (code tag source : Byte) (args : List Byte) (rest : List MgmtEntry)
    (he : s.mgmt.entries = ⟨source, code :: tag :: args, false⟩ :: rest) (hf : s.mgmt.inFlight = false)
    (hq : s.link.queue.length < 8) :
    s.readyFor code = some (⟨source, code :: tag :: args, false⟩, args) := by
  simp [State.readyFor, State.ready, State.outCount, State.reserved, he, hf, hq]

/-- A command in flight that is answered frees its place for its reply (R164). -/
theorem answerInFlight_settle (s : State) (code : Byte) (a : Answer) (e : MgmtEntry) (rest : List MgmtEntry)
    (he : s.mgmt.entries = e :: rest) (hf : s.inFlightCode code = true) :
    (s.answerInFlight code a).settle =
      State.appendFrame { s with mgmt := ⟨rest, false⟩ } (s.replyTo e.source e.payload a) := by
  rw [settle_reply _ (s.replyTo e.source e.payload a)] <;> simp [State.answerInFlight, he, hf]

/-! ### The forms that the statements use -/

theorem offerFrame_eq (n : Nat) (s : State) (f : LinkFrame) :
    s.offerFrame n f =
      { s with link := { s.link with queue := s.link.queue ++ if s.link.queue.length + n < 8 then [f] else [] } } := by
  unfold State.offerFrame
  split <;> simp [State.appendFrame]

theorem settle_latched (s : State) (l : Latch) :
    Work.settle { state := s, latches := [[l]] } = s.latched l := by
  rw [settle_latch]
  unfold State.latched State.outCount
  rw [offerFrame_eq]
  by_cases h : s.alertDue l.cls = true <;> simp [h]

/-- The frames of an event offered one after another, as the output queue takes them (R164). -/
def offerQueue (n : Nat) (fs : List LinkFrame) (q : List LinkFrame) : List LinkFrame :=
  fs.foldl (fun q f => if q.length + n < 8 then q ++ [f] else q) q

theorem offerAll_eq (n : Nat) (fs : List LinkFrame) (s : State) :
    fs.foldl (State.offerFrame n) s = { s with link := { s.link with queue := offerQueue n fs s.link.queue } } := by
  induction fs generalizing s with
  | nil => rfl
  | cons f fs ih =>
    rw [List.foldl_cons, ih]
    unfold State.offerFrame offerQueue
    rw [List.foldl_cons]
    split <;> rfl

/-- The alerts of some latches depend on the Fault Unit, LIMITS and the router's address alone. -/
theorem takeLatches_congr (ls : List Latch) (s t : State) (hf : t.fault = s.fault) (hl : t.limits = s.limits)
    (ha : t.link.address = s.link.address) : (takeLatches ls t).2 = (takeLatches ls s).2 := by
  induction ls generalizing s t with
  | nil => rfl
  | cons l ls ih =>
    have e1 : t.alertDue l.cls = s.alertDue l.cls := by simp [State.alertDue, hf, hl]
    have e2 : t.alertFrame l = s.alertFrame l := by simp [State.alertFrame, hf, hl, ha]
    simp only [takeLatches, State.takeLatch, e1, e2]
    rw [ih { s with fault := s.fault.take s.limits.filter l } { t with fault := t.fault.take t.limits.filter l }
      (by simp [hf, hl]) hl ha]

/-- Latches taken one after another with their alerts: what they leave in the Fault Unit and in the output queue. -/
theorem latched_fold (ls : List Latch) (t : State) :
    ls.foldl State.latched t =
      { t with
        fault := ls.foldl (fun u l => u.take t.limits.filter l) t.fault
        link := { t.link with queue := offerQueue t.reserved (takeLatches ls t).2 t.link.queue } } := by
  induction ls generalizing t with
  | nil => rfl
  | cons l ls ih =>
    have h : (takeLatches ls (t.latched l)).2 =
        (takeLatches ls { t with fault := t.fault.take t.limits.filter l }).2 :=
      takeLatches_congr ls { t with fault := t.fault.take t.limits.filter l } (t.latched l) rfl rfl rfl
    rw [List.foldl_cons, ih, h]
    by_cases hd : t.alertDue l.cls = true
    · simp only [takeLatches, State.takeLatch, hd, if_true, Option.toList_some, List.singleton_append, offerQueue,
        List.foldl_cons, true_and, State.outCount]
      by_cases hq : t.link.queue.length + t.reserved < 8 <;>
        simp only [hq, if_true, if_false, List.append_nil] <;> rfl
    · simp only [takeLatches, State.takeLatch, hd, Bool.false_eq_true, if_false, Option.toList_none, List.nil_append,
        false_and, List.append_nil]
      rfl

theorem takeLatches_append (before after : List Latch) (s : State) :
    (takeLatches (before ++ after) s).2 =
      (takeLatches before s).2 ++ (takeLatches after (takeLatches before s).1).2 := by
  induction before generalizing s with
  | nil => rfl
  | cons l ls ih => simp only [List.cons_append, takeLatches, ih, List.append_assoc]

/-- Where the alerts of some latches are parted, the latches can be. -/
theorem takeLatches_part (ls : List Latch) (s : State) (k : Nat) :
    ∃ before after, ls = before ++ after ∧ (takeLatches before s).2 = (takeLatches ls s).2.take k ∧
      (takeLatches after (takeLatches before s).1).2 = (takeLatches ls s).2.drop k := by
  induction ls generalizing s k with
  | nil => exact ⟨[], [], rfl, by simp [takeLatches], by simp [takeLatches]⟩
  | cons l ls ih =>
    by_cases hd : s.alertDue l.cls = true
    · cases k with
      | zero => exact ⟨[], l :: ls, rfl, by simp [takeLatches], by simp [takeLatches]⟩
      | succ k =>
        obtain ⟨b, a, h1, h2, h3⟩ := ih (s.takeLatch l).1 k
        refine ⟨l :: b, a, by rw [h1]; rfl, ?_, ?_⟩ <;>
          simp [takeLatches, State.takeLatch, hd] <;> simpa [State.takeLatch, hd] using by assumption
    · obtain ⟨b, a, h1, h2, h3⟩ := ih (s.takeLatch l).1 k
      refine ⟨l :: b, a, by rw [h1]; rfl, ?_, ?_⟩ <;>
        simp [takeLatches, State.takeLatch, hd] <;> simpa [State.takeLatch, hd] using by assumption

/-! ### The order of an event's latches -/

theorem interleaves_empty_block (pre post : List (List Latch)) (ls : List Latch) (h : Interleaves (pre ++ post) ls) :
    Interleaves (pre ++ [] :: post) ls := by
  induction ls generalizing pre post with
  | nil =>
    simp only [Interleaves, List.mem_append, List.mem_cons] at h ⊢
    rintro b (hb | rfl | hb)
    · exact h b (Or.inl hb)
    · rfl
    · exact h b (Or.inr hb)
  | cons l ls ih =>
    obtain ⟨p, r, q, he, hi⟩ := h
    rcases List.append_eq_append_iff.mp he with ⟨m, e1, e2⟩ | ⟨m, e1, e2⟩
    · refine ⟨pre ++ [] :: m, r, q, by rw [e2]; simp, ?_⟩
      rw [e1] at hi
      have := ih pre (m ++ r :: q) (by simpa using hi)
      simpa using this
    · cases m with
      | nil =>
        simp only [List.nil_append] at e2
        refine ⟨pre ++ [[]], r, q, by rw [← e2]; simp, ?_⟩
        rw [List.append_nil] at e1
        have := ih pre (r :: q) (by rw [e1]; exact hi)
        simpa using this
      | cons x m =>
        simp only [List.cons_append, List.cons.injEq] at e2
        obtain ⟨rfl, e2⟩ := e2
        refine ⟨p, r, m ++ [] :: post, by rw [e1]; simp, ?_⟩
        have := ih (p ++ r :: m) post (by rw [e2] at hi; simpa using hi)
        simpa using this

theorem interleaves_liveBlocks (pre blocks : List (List Latch)) (ls : List Latch)
    (h : Interleaves (pre ++ liveBlocks blocks) ls) : Interleaves (pre ++ blocks) ls := by
  induction blocks generalizing pre with
  | nil => exact h
  | cons b bs ih =>
    cases b with
    | nil => exact interleaves_empty_block pre bs ls (ih pre (by simpa [liveBlocks] using h))
    | cons l b =>
      have e : liveBlocks ((l :: b) :: bs) = (l :: b) :: liveBlocks bs := rfl
      rw [e] at h
      have := ih (pre ++ [l :: b]) (by simpa using h)
      simpa using this

theorem interleaves_one (b : List Latch) : Interleaves [b] b := by
  induction b with
  | nil => simp [Interleaves]
  | cons l b ih => exact ⟨[], b, [], rfl, ih⟩

/-- With one block there is one order. -/
theorem interleaves_one_eq {b ls : List Latch} (h : Interleaves [b] ls) : ls = b := by
  induction ls generalizing b with
  | nil => exact (h b (by simp)).symm
  | cons l ls ih =>
    obtain ⟨p, r, q, he, hi⟩ := h
    cases p with
    | nil =>
      simp only [List.nil_append, List.cons.injEq] at he
      obtain ⟨rfl, rfl⟩ := he
      rw [ih hi]
    | cons x p => simp at he

theorem interleaves_flatten (pre blocks : List (List Latch)) (hp : ∀ b ∈ pre, b = []) :
    Interleaves (pre ++ blocks) blocks.flatten := by
  induction blocks generalizing pre with
  | nil => simpa [Interleaves] using hp
  | cons b bs ih =>
    induction b with
    | nil =>
      have := ih (pre ++ [[]]) (by simpa [or_imp, forall_and] using hp)
      simpa using this
    | cons l b ih2 => exact ⟨pre, b, bs, rfl, by simpa using ih2⟩

/-- The order that is chosen is one that keeps each block's own order (R151). -/
theorem orderLatches_interleaves (fuel count : Nat) (blocks : List (List Latch)) :
    Interleaves blocks (orderLatches fuel count blocks).1 := by
  induction fuel generalizing count blocks with
  | zero => exact interleaves_flatten [] blocks (by simp)
  | succ n ih =>
    refine interleaves_liveBlocks [] blocks _ ?_
    rw [List.nil_append]
    unfold orderLatches
    split
    · rename_i h; rw [h]; simp [Interleaves]
    · rename_i b h; rw [h]; exact interleaves_one b
    · rename_i b bs _ h
      dsimp only
      rw [h]
      split
      · rename_i l rest hk
        obtain ⟨hlt, he⟩ := List.getElem?_eq_some_iff.mp hk
        refine ⟨(b :: bs).take (Config.freeChoice count % (b :: bs).length), rest,
          (b :: bs).drop (Config.freeChoice count % (b :: bs).length + 1), ?_, ?_⟩
        · rw [← he, List.cons_getElem_drop_succ, List.take_append_drop]
        · have := ih (count + 1) ((b :: bs).set (Config.freeChoice count % (b :: bs).length) rest)
          rw [List.set_eq_take_append_cons_drop, if_pos hlt] at this ⊢
          exact this
      · exact interleaves_flatten [] (b :: bs) (by simp)

/-! ### The end of an event in the words of the statements -/

/-- The latches of an event that gives no reply are taken in an order that keeps each block's own. -/
theorem settle_settled (w : Work) (hr : w.reply = none) : w.state.settled w.settle w.latches := by
  refine ⟨_, orderLatches_interleaves w.latches.flatten.length w.state.freeCount w.latches, ?_, ?_⟩
  · unfold Work.settle
    dsimp only
    rw [hr]
    generalize horder : orderLatches w.latches.flatten.length w.state.freeCount w.latches = o
    unfold State.emit
    simp only
    rw [offerAll_eq, takeLatches_state, latched_fold]
    rw [takeLatches_congr o.1 w.state { w.state with freeCount := o.2 } rfl rfl rfl]
    rfl
  · intro h
    rw [settle_quiet w h hr]

/-- The latches of an event that answers a command are taken in such an order, and its reply falls somewhere among their
alerts. -/
theorem settle_settledWith (w : Work) (j : State) (source : Byte) (rest : List MgmtEntry) (payload : List Byte)
    (hs : w.state = { j with mgmt := ⟨rest, false⟩ }) (hr : w.reply = some ⟨source, j.link.address, 4, payload⟩) :
    j.settledWith w.settle source rest payload w.latches := by
  have hi := orderLatches_interleaves w.latches.flatten.length w.state.freeCount w.latches
  generalize horder : orderLatches w.latches.flatten.length w.state.freeCount w.latches = o at hi
  have hset : w.settle = ((takeLatches o.1 { w.state with freeCount := o.2 }).1.emit
      (some ⟨source, j.link.address, 4, payload⟩) (takeLatches o.1 { w.state with freeCount := o.2 }).2) := by
    unfold Work.settle
    dsimp only
    rw [horder, hr]
  have hcount : w.latches.flatten = [] → w.settle.freeCount = j.freeCount := by
    intro h
    rw [settle_reply w _ h hr, hs]
    rfl
  have key (k : Nat) (m : Nat) :
      ∃ before after, Interleaves w.latches (before ++ after) ∧
        ((((takeLatches o.1 { w.state with freeCount := o.2 }).2.drop k).foldl (State.offerFrame 0)
          ((((takeLatches o.1 { w.state with freeCount := o.2 }).2.take k).foldl (State.offerFrame 1)
            { (takeLatches o.1 { w.state with freeCount := o.2 }).1 with freeCount := m }).appendFrame
              ⟨source, j.link.address, 4, payload⟩)) =
          { after.foldl State.latched
              ((before.foldl State.latched { j with mgmt := { j.mgmt with inFlight := true } }).answered source rest
                payload) with
            freeCount := m }) := by
    obtain ⟨b, a, h1, h2, h3⟩ := takeLatches_part o.1 { w.state with freeCount := o.2 } k
    refine ⟨b, a, h1 ▸ hi, ?_⟩
    rw [← h2, ← h3, offerAll_eq, offerAll_eq, latched_fold, latched_fold, takeLatches_state]
    rw [takeLatches_congr b { w.state with freeCount := o.2 } { j with mgmt := { j.mgmt with inFlight := true } }
      (by rw [hs]) (by rw [hs]) (by rw [hs])]
    rw [takeLatches_congr a (takeLatches b { w.state with freeCount := o.2 }).1 (State.answered _ source rest payload)
      (by rw [takeLatches_state, hs]) (by rw [takeLatches_state, hs]) (by rw [takeLatches_state, hs])]
    simp only [h1, List.foldl_append, hs, State.appendFrame, State.reserved, if_true, Bool.false_eq_true, if_false]
  rw [hset] at hcount ⊢
  have h0 : (takeLatches o.1 { w.state with freeCount := o.2 }).1.reserved = 0 := by
    rw [takeLatches_state, hs]; rfl
  cases ha : (takeLatches o.1 { w.state with freeCount := o.2 }).2 with
  | nil =>
    rw [ha] at hcount
    obtain ⟨b, a, h1, h2⟩ := key 0 o.2
    refine ⟨b, a, h1, ?_, hcount⟩
    rw [ha] at h2
    simp only [List.take_nil, List.drop_nil, List.foldl_nil] at h2
    have e : (takeLatches o.1 { w.state with freeCount := o.2 }).1.freeCount = o.2 := by rw [takeLatches_state]
    have e2 : { (takeLatches o.1 { w.state with freeCount := o.2 }).1 with freeCount := o.2 } =
        (takeLatches o.1 { w.state with freeCount := o.2 }).1 := by rw [takeLatches_state]
    rw [e2] at h2
    have e3 : ((takeLatches o.1 { w.state with freeCount := o.2 }).1.emit
      (some ⟨source, j.link.address, 4, payload⟩) []) = (takeLatches o.1 { w.state with freeCount := o.2 }).1.appendFrame
      ⟨source, j.link.address, 4, payload⟩ := rfl
    rw [e3, h2]
  | cons f fs =>
    rw [ha] at hcount
    obtain ⟨b, a, h1, h2⟩ := key
      (Config.freeChoice (takeLatches o.1 { w.state with freeCount := o.2 }).1.freeCount % ((f :: fs).length + 1))
      ((takeLatches o.1 { w.state with freeCount := o.2 }).1.freeCount + 1)
    refine ⟨b, a, h1, ?_, hcount⟩
    rw [ha] at h2
    unfold State.emit
    simp only [h0, Nat.zero_add]
    rw [h2]

/-- An event with the latches of one block and no reply takes them in their order. -/
theorem settle_latches (s : State) (ls : List Latch) :
    Work.settle { state := s, latches := [ls] } = ls.foldl State.latched s := by
  have ho : orderLatches ls.length s.freeCount [ls] = (ls, s.freeCount) := by
    cases ls with
    | nil => rfl
    | cons l ls => simp [orderLatches, liveBlocks]
  unfold Work.settle
  simp only [List.flatten_cons, List.flatten_nil, List.append_nil, ho, State.emit]
  rw [offerAll_eq, takeLatches_state, latched_fold]
  rfl

/-- A command answered at once, whole: its effect, its latches, and its reply among their alerts. -/
theorem finish_settledWith (d : Done) (s : State) {source code tag : Byte} {args : List Byte} {rest : List MgmtEntry}
    (h : s.hasHead source code tag args rest) (hm : d.state.mgmt = s.mgmt) :
    d.state.settledWith (d.finish ⟨source, code :: tag :: args, false⟩).settle source rest
      ([code, tag, d.answer.status.code, d.answer.reason.code] ++ d.answer.data) [d.latches] := by
  refine settle_settledWith (d.finish ⟨source, code :: tag :: args, false⟩) d.state source rest _ ?_ rfl
  simp [Done.finish, State.popHead, hm, h.1, h.2.1]

/-- What the end of an event without a reply changes: the Fault Unit, the output queue and the model's own counter. -/
theorem settled_frame {s t : State} {blocks : List (List Latch)} (h : s.settled t blocks) :
    t = { s with fault := t.fault, link := { s.link with queue := t.link.queue }, freeCount := t.freeCount } := by
  obtain ⟨o, -, ht, -⟩ := h
  rw [latched_fold] at ht
  have hf : t.fault = o.foldl (fun u l => u.take s.limits.filter l) s.fault := by rw [ht]
  have hq : t.link.queue = offerQueue s.reserved (takeLatches o s).2 s.link.queue := by rw [ht]
  rw [hf, hq]
  exact ht

/-- What the end of an event that answers a command changes, besides the command that leaves. -/
theorem settledWith_frame {s t : State} {source : Byte} {rest : List MgmtEntry} {payload : List Byte}
    {blocks : List (List Latch)} (h : s.settledWith t source rest payload blocks) :
    t =
      { s with
        mgmt := ⟨rest, false⟩, fault := t.fault, link := { s.link with queue := t.link.queue }, freeCount := t.freeCount } := by
  obtain ⟨b, a, -, ht, -⟩ := h
  rw [latched_fold, latched_fold] at ht
  generalize hf : List.foldl _ (List.foldl _ _ _) _ = u at ht
  generalize hq : offerQueue _ _ (State.answered _ _ _ _).link.queue = q at ht
  have hf' : t.fault = _ := congrArg State.fault ht
  have hq' : t.link.queue = _ := congrArg (fun x => x.link.queue) ht
  dsimp only at hf' hq'
  rw [hf', hq']
  exact ht

/-- Where nothing is latched the reply is all. -/
theorem settledWith_quiet {s t : State} {source : Byte} {rest : List MgmtEntry} {payload : List Byte}
    (h : s.settledWith t source rest payload [[]]) : t = s.answered source rest payload := by
  obtain ⟨b, a, hi, ht, hc⟩ := h
  have := interleaves_one_eq hi
  obtain ⟨rfl, rfl⟩ := List.append_eq_nil_iff.mp this
  rw [ht, hc rfl]
  rfl

theorem hasHead_ready {s : State} {source code tag : Byte} {args : List Byte} {rest : List MgmtEntry}
    (h : s.hasHead source code tag args rest) :
    s.readyFor code = some (⟨source, code :: tag :: args, false⟩, args) :=
  readyFor_head s code tag source args rest h.1 h.2.1 h.2.2

theorem atOnce_head {s : State} {source code tag : Byte} {args : List Byte} {rest : List MgmtEntry}
    (h : s.hasHead source code tag args rest) (run : List Byte → State → Done) (hl : (run args s).latches = []) :
    atOnce code run s = ((run args s).state.popHead.appendFrame
       ((run args s).state.replyTo source (code :: tag :: args) (run args s).answer)) := by
  rw [atOnce_some _ _ _ _ _ (hasHead_ready h), finish_settle _ _ rfl hl]

/-- The head leaves and its reply joins the output queue, from a state whose Management Queue is as it was. -/
theorem pop_answered (t s : State) {source code tag : Byte} {args : List Byte} {rest : List MgmtEntry}
    (h : s.hasHead source code tag args rest) (hm : t.mgmt = s.mgmt) (a : Answer) :
    t.popHead.appendFrame (t.replyTo source (code :: tag :: args) a) =
      t.answered source rest ([code, tag, a.status.code, a.reason.code] ++ a.data) := by
  obtain ⟨h1, h2, h3⟩ := h
  unfold State.popHead State.appendFrame State.replyTo State.answered
  simp [hm, h1, h2, codeOf, tagOf, classReply]

theorem atOnce_ok {s t : State} {source code tag : Byte} {args data : List Byte} {rest : List MgmtEntry}
    (h : s.hasHead source code tag args rest) (run : List Byte → State → Done)
    (hr : run args s = Done.ok t data) (hm : t.mgmt = s.mgmt) :
    atOnce code run s = t.answered source rest ([code, tag, 0, 0] ++ data) := by
  rw [atOnce_head h run (by rw [hr]; rfl), hr]
  exact pop_answered t s h hm _

theorem atOnce_refused {s : State} {source code tag : Byte} {args : List Byte} {rest : List MgmtEntry}
    (h : s.hasHead source code tag args rest) (run : List Byte → State → Done) (r : Reason)
    (hr : run args s = Done.refused s r) :
    atOnce code run s = s.answered source rest [code, tag, 2, r.code] := by
  rw [atOnce_head h run (by rw [hr]; rfl), hr]
  exact pop_answered s s h rfl _

theorem atOnce_malformed {s : State} {source code tag : Byte} {args : List Byte} {rest : List MgmtEntry}
    (h : s.hasHead source code tag args rest) (run : List Byte → State → Done) 
    (hr : run args s = Done.malformed s) :
    atOnce code run s = s.answered source rest [code, tag, 5, 0] := by
  rw [atOnce_head h run (by rw [hr]; rfl), hr]
  exact pop_answered s s h rfl _

/-- A command at the head that is answered OK, as a step's outcome. -/
theorem next_ok {s t : State} {source code tag : Byte} {args data : List Byte} {rest : List MgmtEntry}
    (h : s.hasHead source code tag args rest) (run : List Byte → State → Done)
    (hr : run args s = Done.ok t data) (hm : t.mgmt = s.mgmt) :
    (.next (atOnce code run s) : Result) = .next (t.answered source rest ([code, tag, 0, 0] ++ data)) :=
  congrArg _ (atOnce_ok h run hr hm)

/-- A command at the head that is refused, as a step's outcome. -/
theorem next_refused {s : State} {source code tag : Byte} {args : List Byte} {rest : List MgmtEntry}
    (h : s.hasHead source code tag args rest) (run : List Byte → State → Done) (r : Reason)
    (hr : run args s = Done.refused s r) :
    (.next (atOnce code run s) : Result) = .next (s.answered source rest [code, tag, 2, r.code]) :=
  congrArg _ (atOnce_refused h run r hr)

/-- A command at the head that is malformed, as a step's outcome. -/
theorem next_malformed {s : State} {source code tag : Byte} {args : List Byte} {rest : List MgmtEntry}
    (h : s.hasHead source code tag args rest) (run : List Byte → State → Done) (hr : run args s = Done.malformed s) :
    (.next (atOnce code run s) : Result) = .next (s.answered source rest [code, tag, 5, 0]) :=
  congrArg _ (atOnce_malformed h run hr)

end Sys2Proof.Machine
end

