-- ==== Sys2Proof/Laws/Convoys.lean ====
section
/-! SUPPORT. What the Convoy Engine's operations can change: losses, gaps, the trail with its cursors, and the soundness of a
record. -/

namespace Sys2Proof.Machine

/-! ### Losses -/

theorem pick_state (s : State) (n : Nat) : (s.pick n).2 = { s with freeCount := (s.pick n).2.freeCount } := by
  unfold State.pick
  split <;> rfl

theorem pick_lt (s : State) (n : Nat) (h : 0 < n) : (s.pick n).1 < n := by
  unfold State.pick
  split
  · exact h
  · exact Nat.mod_lt _ h

/-- The loss of members of one convoy: it breaks with one of them as its cause where it moves or holds; nothing else but the
counter of choices changes (R94). -/
theorem loseMembersOf_spec (s : State) (lost : List VehicleId) (c : ConvoyId) :
    ∃ n, (s.loseMembersOf lost c = { s with freeCount := n } ∧
        ((s.convoy c).breaksOnLoss = false ∨ ∀ v ∈ lost, (s.vehicle v).convoy ≠ some c)) ∨
      ∃ v ∈ lost, (s.vehicle v).convoy = some c ∧ (s.convoy c).breaksOnLoss = true ∧
        s.loseMembersOf lost c = { s.setConvoy c ((s.convoy c).break (.lost v)) with freeCount := n } := by
  unfold State.loseMembersOf
  dsimp only
  split
  · rename_i h
    simp only [Bool.and_eq_true, Bool.not_eq_eq_eq_not, Bool.not_true, List.isEmpty_eq_false_iff] at h
    have hlt := pick_lt s _ (List.length_pos_iff.mpr h.2)
    have hs := pick_state s (lost.filter (fun v => (s.vehicle v).convoy = some c)).length
    refine ⟨(s.pick (lost.filter (fun v => (s.vehicle v).convoy = some c)).length).2.freeCount, Or.inr ?_⟩
    rw [List.getElem?_eq_getElem hlt]
    have hm := List.getElem_mem hlt
    rw [List.mem_filter] at hm
    refine ⟨_, hm.1, by simpa using hm.2, h.1, ?_⟩
    dsimp only
    rw [hs]
    rfl
  · rename_i h
    refine ⟨s.freeCount, Or.inl ⟨rfl, ?_⟩⟩
    by_cases hb : (s.convoy c).breaksOnLoss = true
    · right
      intro v hv he
      apply h
      simp only [hb, Bool.true_and, Bool.not_eq_eq_eq_not, Bool.not_true, List.isEmpty_eq_false_iff]
      exact List.ne_nil_of_mem (List.mem_filter.mpr ⟨hv, by simpa using he⟩)
    · left
      simpa using hb

theorem loseFold_spec (lost : List VehicleId) (cs : List ConvoyId) (s : State) (hn : cs.Nodup) :
    ∃ n ks, cs.foldl (fun s c => s.loseMembersOf lost c) s = { s with convoys := ks, freeCount := n } ∧
      ∀ c : ConvoyId,
        (c ∉ cs → ks[c] = s.convoys[c]) ∧
        (c ∈ cs →
          (ks[c] = s.convoys[c] ∧ ((s.convoy c).breaksOnLoss = false ∨ ∀ v ∈ lost, (s.vehicle v).convoy ≠ some c)) ∨
          ∃ v ∈ lost, (s.vehicle v).convoy = some c ∧ (s.convoy c).breaksOnLoss = true ∧
            ks[c] = (s.convoy c).break (.lost v)) := by
  induction cs generalizing s with
  | nil => exact ⟨s.freeCount, s.convoys, rfl, fun c => ⟨fun _ => rfl, fun h => absurd h (by simp)⟩⟩
  | cons d cs ih =>
    obtain ⟨hd, hn⟩ := List.nodup_cons.mp hn
    rw [List.foldl_cons]
    obtain ⟨n, ⟨h, hq⟩ | ⟨v, hv, hc, hb, h⟩⟩ := loseMembersOf_spec s lost d
    · rw [h]
      obtain ⟨m, ks, hk, hs⟩ := ih { s with freeCount := n } hn
      refine ⟨m, ks, hk, fun c => ⟨fun hc => ?_, fun hc => ?_⟩⟩
      · exact (hs c).1 (fun e => hc (List.mem_cons_of_mem _ e))
      · rcases List.mem_cons.mp hc with rfl | hc
        · exact Or.inl ⟨(hs c).1 hd, hq⟩
        · exact (hs c).2 hc
    · rw [h]
      obtain ⟨m, ks, hk, hs⟩ := ih { s.setConvoy d ((s.convoy d).break (.lost v)) with freeCount := n } hn
      refine ⟨m, ks, hk, fun c => ?_⟩
      by_cases e : c = d
      · subst e
        refine ⟨fun hn => absurd (List.mem_cons_self) hn, fun _ => Or.inr ⟨v, hv, hc, hb, ?_⟩⟩
        rw [(hs c).1 hd]
        exact convoy_setConvoy_same s c _
      · have hcv : ({ s.setConvoy d ((s.convoy d).break (.lost v)) with freeCount := n } : State).convoy c = s.convoy c :=
          convoy_setConvoy_other s d c _ e
        refine ⟨fun hn => ?_, fun hm => ?_⟩
        · rw [(hs c).1 (fun x => hn (List.mem_cons_of_mem _ x))]
          exact hcv
        · have := (hs c).2 ((List.mem_cons.mp hm).resolve_left e)
          rw [hcv] at this
          rcases this with ⟨a, b⟩ | ⟨w, hw, a, b, k⟩
          · exact Or.inl ⟨a.trans hcv, b⟩
          · exact Or.inr ⟨w, hw, a, b, k⟩

/-- The loss of members: each convoy that moves or holds and has one among them breaks with one of them as its cause; nothing
else but the counter of choices changes (R94). -/
theorem loseMembers_spec (s : State) (lost : List VehicleId) :
    ∃ n ks, s.loseMembers lost = { s with convoys := ks, freeCount := n } ∧
      ∀ c : ConvoyId,
        (ks[c] = s.convoys[c] ∧ ((s.convoy c).breaksOnLoss = false ∨ ∀ v ∈ lost, (s.vehicle v).convoy ≠ some c)) ∨
          ∃ v ∈ lost, (s.vehicle v).convoy = some c ∧ (s.convoy c).breaksOnLoss = true ∧
            ks[c] = (s.convoy c).break (.lost v) := by
  obtain ⟨n, ks, h, hs⟩ := loseFold_spec lost (indices 12) s (List.nodup_finRange 12)
  exact ⟨n, ks, h, fun c => (hs c).2 (List.mem_finRange c)⟩

/-- The loss of one vehicle breaks its own convoy where that moves or holds, and changes nothing else (R94). -/
theorem loseMembers_one (s : State) (v : VehicleId) :
    s.loseMembers [v] =
      match (s.vehicle v).convoy with
      | some i => if (s.convoy i).breaksOnLoss then s.setConvoy i ((s.convoy i).break (.lost v)) else s
      | none => s := by
  have one (t : State) (c : ConvoyId) : t.loseMembersOf [v] c =
      if (t.vehicle v).convoy = some c ∧ (t.convoy c).breaksOnLoss then t.setConvoy c ((t.convoy c).break (.lost v)) else t := by
    unfold State.loseMembersOf
    by_cases h : (t.vehicle v).convoy = some c
    · by_cases h2 : (t.convoy c).breaksOnLoss <;> simp [h, h2, State.pick]
    · simp [h]
  have fold (cs : List ConvoyId) (hn : cs.Nodup) (t : State) : cs.foldl (fun s c => s.loseMembersOf [v] c) t =
      match (t.vehicle v).convoy with
      | some i => if i ∈ cs ∧ (t.convoy i).breaksOnLoss then t.setConvoy i ((t.convoy i).break (.lost v)) else t
      | none => t := by
    induction cs generalizing t with
    | nil => simp; split <;> rfl
    | cons c cs ih =>
      rw [List.foldl_cons, ih (List.nodup_cons.1 hn).2, one]
      cases hc : (t.vehicle v).convoy with
      | none => simp [hc]
      | some i =>
        by_cases e : i = c
        · subst e
          have := (List.nodup_cons.1 hn).1
          by_cases hb : (t.convoy i).breaksOnLoss <;> simp [hc, hb, this]
        · have e' : ¬(some i = some c ∧ (t.convoy c).breaksOnLoss = true) := by simp [e]
          simp only [e', if_false, hc]
          simp [e]
  unfold State.loseMembers indices
  rw [fold _ (List.nodup_finRange 12)]
  cases (s.vehicle v).convoy <;> simp [List.mem_finRange]

/-! ### Gaps -/

theorem measureAfter_tractors (s : State) (due : VehicleId → VehicleId → Bool) (p : VehicleId) (ms : List Member) :
    (s.measureAfter due p ms).map (fun m => (m.tractor, m.gmin, m.gmax, m.cursor)) =
      ms.map (fun m => (m.tractor, m.gmin, m.gmax, m.cursor)) := by
  induction ms generalizing p with
  | nil => rfl
  | cons m ms ih =>
    simp only [State.measureAfter, List.map_cons, ih]
    congr 1
    split <;> rfl

/-- Measuring gaps changes gaps alone (R92). -/
theorem measure_tractors (s : State) (due : VehicleId → VehicleId → Bool) (ms : List Member) :
    (s.measure due ms).map (fun m => (m.tractor, m.gmin, m.gmax, m.cursor)) =
      ms.map (fun m => (m.tractor, m.gmin, m.gmax, m.cursor)) := by
  cases ms with
  | nil => rfl
  | cons m ms => simp only [State.measure, List.map_cons, measureAfter_tractors]

/-- Where nobody is due, every gap is kept (R92). -/
theorem measureAfter_quiet (s : State) (due : VehicleId → VehicleId → Bool) (p : VehicleId) (ms : List Member)
    (h : ∀ q ∈ p :: ms.map Member.tractor, ∀ m ∈ ms, due q m.tractor = false) : s.measureAfter due p ms = ms := by
  induction ms generalizing p with
  | nil => rfl
  | cons m ms ih =>
    rw [State.measureAfter, ih]
    · rw [h p (by simp) m (by simp)]; simp
    · intro q hq n hn
      exact h q (by simp at hq ⊢; tauto) n (by simp [hn])

/-- Where nobody up to p is due, the gaps up to p are kept (R92). -/
theorem measureAfter_append (s : State) (due : VehicleId → VehicleId → Bool) (l p : Member) (pre post : List Member)
    (h : ∀ q ∈ l.tractor :: pre.map Member.tractor, ∀ m ∈ pre ++ [p], due q m.tractor = false) :
    s.measureAfter due l.tractor (pre ++ p :: post) = pre ++ p :: s.measureAfter due p.tractor post := by
  induction pre generalizing l with
  | nil =>
    simp only [List.nil_append, State.measureAfter]
    rw [h l.tractor (by simp) p (by simp)]; simp
  | cons m ms ih =>
    simp only [List.cons_append, State.measureAfter]
    rw [ih]
    · rw [h l.tractor (by simp) m (by simp)]; simp
    · intro q hq n hn
      exact h q (by simp at hq ⊢; tauto) n (by simp at hn ⊢; tauto)

/-- The gaps up to a member that `due` does not name are kept. -/
theorem measure_append (s : State) (due : VehicleId → VehicleId → Bool) (p : Member) (pre post : List Member)
    (h : ∀ q ∈ pre.map Member.tractor, ∀ m ∈ pre ++ [p], due q m.tractor = false) :
    s.measure due (pre ++ p :: post) = pre ++ p :: s.measureAfter due p.tractor post := by
  cases pre with
  | nil => rfl
  | cons l pre =>
    simp only [List.cons_append, State.measure]
    rw [measureAfter_append]
    intro q hq m hm
    exact h q (by simpa using hq) m (by simp at hm ⊢; tauto)

/-! ### Trails -/

theorem dropPassed_spec (t : List TrailEntry) (ms : List Member) (h : ∀ m ∈ ms, m.cursor ≤ t.length) (hne : ms ≠ []) :
    ∃ k, k ≤ t.length ∧ (∀ m ∈ ms, k ≤ m.cursor) ∧
      dropPassed t ms = (t.drop k, ms.map (fun m => { m with cursor := m.cursor - k })) ∧
      (t.drop k = [] ∨ ∃ m ∈ ms, m.cursor - k = 0) := by
  induction t generalizing ms with
  | nil =>
    refine ⟨0, Nat.le_refl _, fun m _ => Nat.zero_le _, ?_, Or.inl rfl⟩
    simp [dropPassed]
  | cons e t ih =>
    unfold dropPassed
    split
    · rename_i hall
      have hall' : ∀ m ∈ ms, 1 ≤ m.cursor := fun m hm => of_decide_eq_true (List.all_eq_true.mp hall m hm)
      have hmap : ∀ m ∈ ms.map (fun m => { m with cursor := m.cursor - 1 }), m.cursor ≤ t.length := by
        intro m hm
        obtain ⟨n, hn, rfl⟩ := List.mem_map.mp hm
        have := h n hn
        have := hall' n hn
        simp only [List.length_cons] at *
        omega
      obtain ⟨k, hk, hle, heq, hz⟩ := ih _ hmap (by simpa using hne)
      refine ⟨k + 1, Nat.succ_le_succ hk, fun m hm => ?_, ?_, ?_⟩
      · have := hle _ (List.mem_map_of_mem hm)
        have := hall' m hm
        simp only at *
        omega
      · rw [heq]
        simp [List.map_map, Function.comp_def, Nat.sub_sub, Nat.add_comm]
      · rcases hz with hz | ⟨m, hm, hz⟩
        · exact Or.inl hz
        · obtain ⟨n, hn, rfl⟩ := List.mem_map.mp hm
          exact Or.inr ⟨n, hn, by simp only at hz; omega⟩
    · rename_i hall
      refine ⟨0, Nat.zero_le _, fun m _ => Nat.zero_le _, by simp, Or.inr ?_⟩
      simp only [List.all_eq_true, decide_eq_true_eq, not_forall] at hall
      obtain ⟨m, hm, hz⟩ := hall
      exact ⟨m, hm, by omega⟩

/-- Dropping the passed entries leaves sound cursors (R104). -/
theorem dropOldest_sound (c : Convoy) (hne : c.members ≠ []) (hn : (c.members.map Member.tractor).Nodup)
    (hb : ∀ m ∈ c.members, m.cursor ≤ c.trail.length) (hl : ∀ m ∈ c.members.head?, m.cursor = c.trail.length) :
    c.dropOldest.cursorsSound := by
  obtain ⟨k, hk, hle, heq, hz⟩ := dropPassed_spec c.trail c.members hb hne
  unfold Convoy.cursorsSound Convoy.dropOldest
  rw [heq]
  dsimp only
  refine ⟨by simpa [List.map_map, Function.comp_def] using hn, ?_, ?_, ?_⟩
  · intro m hm
    obtain ⟨n, hn, rfl⟩ := List.mem_map.mp hm
    have := hb n hn
    simp; omega
  · intro m hm
    rw [List.head?_map] at hm
    simp at hm
    obtain ⟨n, hn, rfl⟩ := hm
    have := hl n (by simp [hn])
    simp; omega
  · rcases hz with hz | ⟨m, hm, hz⟩
    · exact Or.inl hz
    · exact Or.inr ⟨_, List.mem_map_of_mem hm, hz⟩

/-! ### Acks -/

/-- An ack changes the record of the vehicle's own convoy alone, and latches TRAIL_FULL or TRAIL_MISS alone. -/
theorem convoyAck_spec (s : State) (v : VehicleId) (before : Option Segment) :
    (s.convoyAck v before).1 = { s with convoys := (s.convoyAck v before).1.convoys } ∧
      (∀ c, (s.vehicle v).convoy ≠ some c → (s.convoyAck v before).1.convoy c = s.convoy c) ∧
      ∀ l ∈ (s.convoyAck v before).2, l.cls = .trailFull ∨ l.cls = .trailMiss := by
  unfold State.convoyAck
  split
  · rename_i c hc
    dsimp only
    refine ⟨rfl, fun d hd => ?_, fun l hl => ?_⟩
    · exact convoy_setConvoy_other _ _ _ _ (fun e => hd (by rw [e, hc]))
    · obtain ⟨k, hk, rfl⟩ := List.mem_map.mp hl
      simp only [Option.mem_toList] at hk
      unfold State.convoyAfterAck at hk
      dsimp only at hk
      split at hk
      · dsimp only at hk
        split at hk
        · exact Or.inl (Option.some.inj hk).symm
        · simp at hk
      · split at hk
        · exact Or.inr (Option.some.inj hk).symm
        · simp at hk
  · exact ⟨rfl, fun _ _ => rfl, by simp⟩

/-! ### Records (R79, R80, R81) -/

/-- The band and gap of each member, in order. -/
def Convoy.bands (c : Convoy) : List (Nat × Nat × Gap) := c.members.map (fun m => (m.gmin, m.gmax, m.gap))

/-- A convoy's bands are sound by what the list of bands says. -/
theorem bandsSound_iff (c : Convoy) : c.bandsSound ↔
    (∀ b ∈ c.bands, 1 ≤ b.1 ∧ b.1 ≤ 4 ∧ b.1 ≤ b.2.1 ∧ b.2.1 ≤ 8) ∧ (∀ b ∈ c.bands.head?, b.2.2 = .absent) ∧
      ∀ b ∈ c.bands.tail, b.2.2 ∈ Gap.unknown :: (List.range 64).map Gap.known := by
  unfold Convoy.bandsSound Convoy.bands
  simp only [List.forall_mem_map, List.head?_map, ← List.map_tail, Option.mem_def, Option.map_eq_some_iff,
    forall_exists_index, and_imp, forall_apply_eq_imp_iff₂]

/-- What keeps a record's state, hold reference, cause and bands, and does not fill an empty trail, keeps it sound. -/
theorem record_congr {c d : Convoy} (hf : c.fieldsSound) (hb : c.bandsSound) (hs : d.state = c.state) (hr : d.holdRef = c.holdRef)
    (hc : d.cause = c.cause) (hm : d.bands = c.bands) (ht : c.state = .free → d.trail = []) :
    d.fieldsSound ∧ d.bandsSound := by
  refine ⟨⟨by rw [hr, hs]; exact hf.1, by rw [hc, hs]; exact hf.2.1, ?_, fun h => ht (hs ▸ h)⟩, ?_⟩
  · rw [hs, hf.2.2.1]
    have : d.members.length = c.members.length := by simpa [Convoy.bands] using congrArg List.length hm
    rw [← List.length_eq_zero_iff, ← List.length_eq_zero_iff, this]
  · rw [bandsSound_iff, hm, ← bandsSound_iff]; exact hb

/-- Dropping passed entries keeps the bands. -/
theorem dropOldest_bands (c : Convoy) : c.dropOldest.bands = c.bands := by
  unfold Convoy.bands Convoy.dropOldest
  dsimp only
  generalize c.trail = t
  generalize c.members = ms
  induction t generalizing ms with
  | nil => rfl
  | cons e t ih =>
    unfold dropPassed
    split
    · rw [ih]; simp
    · rfl

/-- Raising a cursor keeps the bands. -/
theorem raiseCursor_bands (c : Convoy) (v : VehicleId) : (c.raiseCursor v).bands = c.bands := by
  simp only [Convoy.bands, Convoy.raiseCursor, List.map_map]
  refine List.map_congr_left (fun m _ => ?_)
  simp only [Function.comp]
  split <;> rfl

/-- Dropping passed entries keeps a record sound (R104). -/
theorem dropOldest_record (c : Convoy) (hf : c.fieldsSound) (hb : c.bandsSound) :
    c.dropOldest.fieldsSound ∧ c.dropOldest.bandsSound :=
  record_congr hf hb rfl rfl rfl (dropOldest_bands c) (fun h => by
    unfold Convoy.dropOldest
    rw [hf.2.2.2 h]
    rfl)

theorem gapBetween_mem (p f : Option Segment) : gapBetween p f ∈ Gap.unknown :: (List.range 64).map Gap.known := by
  unfold gapBetween
  split
  · split
    · refine List.mem_cons_of_mem _ (List.mem_map.mpr ⟨_, List.mem_range.mpr ?_, rfl⟩)
      unfold Segment.position
      omega
    · exact List.mem_cons_self
  · exact List.mem_cons_self

/-- Measured gaps are gaps of followers (R91). -/
theorem measureAfter_gaps (s : State) (due : VehicleId → VehicleId → Bool) (p : VehicleId) (ms : List Member)
    (h : ∀ m ∈ ms, m.gap ∈ Gap.unknown :: (List.range 64).map Gap.known) :
    ∀ m ∈ s.measureAfter due p ms, m.gap ∈ Gap.unknown :: (List.range 64).map Gap.known := by
  induction ms generalizing p with
  | nil => simp [State.measureAfter]
  | cons m ms ih =>
    intro n hn
    rw [State.measureAfter] at hn
    rcases List.mem_cons.mp hn with rfl | hn
    · split
      · exact gapBetween_mem _ _
      · exact h m List.mem_cons_self
    · exact ih m.tractor (fun x hx => h x (List.mem_cons_of_mem _ hx)) n hn

/-- Measuring gaps keeps a record sound (R91, R92). -/
theorem measure_record (s : State) (due : VehicleId → VehicleId → Bool) (c : Convoy) (hf : c.fieldsSound)
    (hb : c.bandsSound) :
    ({ c with members := s.measure due c.members } : Convoy).fieldsSound ∧
      ({ c with members := s.measure due c.members } : Convoy).bandsSound := by
  have hmap := measure_tractors s due c.members
  have hnil : s.measure due c.members = [] ↔ c.members = [] := by
    rw [← List.length_eq_zero_iff, ← List.length_eq_zero_iff]
    simpa using congrArg (fun l => l.length = 0) hmap
  refine ⟨⟨hf.1, hf.2.1, by rw [hnil]; exact hf.2.2.1, hf.2.2.2⟩, ?_, ?_, ?_⟩
  · intro m hm
    have : (m.tractor, m.gmin, m.gmax, m.cursor) ∈ c.members.map (fun m => (m.tractor, m.gmin, m.gmax, m.cursor)) := by
      rw [← hmap]; exact List.mem_map_of_mem hm
    obtain ⟨n, hn, e⟩ := List.mem_map.mp this
    have := hb.1 n hn
    simp only [Prod.mk.injEq] at e
    rw [← e.2.1, ← e.2.2.1]
    exact this
  · have := hb.2.1
    dsimp only
    cases hc : c.members with
    | nil => simp [State.measure]
    | cons m ms => rw [hc] at this; simpa [State.measure] using this
  · have := hb.2.2
    dsimp only
    cases hc : c.members with
    | nil => simp [State.measure]
    | cons m ms =>
      rw [hc] at this
      simp only [State.measure, List.tail_cons] at this ⊢
      exact measureAfter_gaps s due _ _ this

/-- A break keeps the record of an allocated convoy sound (R94, R95). -/
theorem break_record (c : Convoy) (k : BreakCause) (ha : c.state ≠ .free) (hf : c.fieldsSound) (hb : c.bandsSound) :
    (c.break k).fieldsSound ∧ (c.break k).bandsSound := by
  refine ⟨⟨by simp [Convoy.break], by simp [Convoy.break], ?_, by simp [Convoy.break]⟩, hb⟩
  have := hf.2.2.1
  simp only [ha, false_iff] at this
  simp [Convoy.break, this]

/-- The end of a wait keeps a record sound (R93). -/
theorem endHold_record (c : Convoy) (g : Option Segment) (hf : c.fieldsSound) (hb : c.bandsSound) :
    (c.endHold g).fieldsSound ∧ (c.endHold g).bandsSound := by
  unfold Convoy.endHold
  split
  · rename_i h
    simp only [Bool.and_eq_true, decide_eq_true_eq] at h
    have h3 := hf.2.2.1
    have h2 := hf.2.1
    simp only [h.1] at h3 h2
    exact ⟨⟨by simp, by simpa using h2, by simpa using h3, by simp⟩, hb⟩
  · exact ⟨hf, hb⟩

/-- RESTART keeps a record sound (R97). -/
theorem restart_record (c : Convoy) (hf : c.fieldsSound) (hb : c.bandsSound) :
    c.restart.fieldsSound ∧ c.restart.bandsSound := by
  unfold Convoy.restart
  split
  · rename_i h
    simp only [Bool.or_eq_true, decide_eq_true_eq] at h
    have h3 := hf.2.2.1
    have h2 := hf.2.1
    rcases h with h | h <;> simp only [h] at h3 h2 <;>
      exact ⟨⟨by simp, by simpa using h2, by simpa using h3, by simp⟩, hb⟩
  · exact ⟨hf, hb⟩

/-- CONVOY_HOLD keeps the record of an allocated convoy sound (R88). -/
theorem holdConvoy_record (s : State) (c : Convoy) (mode : HoldMode) (hf : c.fieldsSound) (hb : c.bandsSound) :
    (s.holdConvoy c mode).fieldsSound ∧ (s.holdConvoy c mode).bandsSound := by
  have h1 := hf.1
  have h2 := hf.2.1
  have h3 := hf.2.2.1
  unfold State.holdConvoy
  split
  · rename_i h; simp only [h] at h1 h2 h3
    exact ⟨⟨by simpa using h1, by simpa using h2, by simpa using h3, by simp⟩, hb⟩
  · rename_i h; simp only [h] at h1 h2 h3
    split
    · exact ⟨⟨by simp, by simpa using h2, by simpa using h3, by simp⟩, hb⟩
    · exact ⟨⟨by simpa using h1, by simpa using h2, by simpa using h3, by simp⟩, hb⟩
  · rename_i h; simp only [h] at h1 h2 h3
    exact ⟨⟨by simp, by simpa using h2, by simpa using h3, by simp⟩, hb⟩
  all_goals exact ⟨hf, hb⟩

/-- An ack keeps the record of an allocated convoy sound (R92, R93, R95, R99 to R104). -/
theorem convoyAfterAck_record (s : State) (c : Convoy) (v : VehicleId) (before : Option Segment) (ha : c.state ≠ .free)
    (hf : c.fieldsSound) (hb : c.bandsSound) :
    (s.convoyAfterAck c v before).1.fieldsSound ∧ (s.convoyAfterAck c v before).1.bandsSound := by
  unfold State.convoyAfterAck
  dsimp only
  obtain ⟨mf, mb⟩ := measure_record s (fun p m => p = v || m = v) c hf hb
  generalize hm : ({ c with members := s.measure (fun p m => p = v || m = v) c.members } : Convoy) = m at mf mb ⊢
  have ham : m.state ≠ .free := by rw [← hm]; exact ha
  split
  · have he := endHold_record m (s.vehicle v).current mf mb
    have hae : (m.endHold (s.vehicle v).current).state ≠ .free := by
      unfold Convoy.endHold
      split
      · simp
      · exact ham
    generalize m.endHold (s.vehicle v).current = e at he hae ⊢
    unfold State.recordJunction
    split
    · split
      · split
        · unfold Convoy.append
          exact record_congr he.1 he.2 rfl rfl rfl
            ((dropOldest_bands _).trans (raiseCursor_bands _ _)) (fun h => absurd h hae)
        · exact he
      · exact he
    · exact he
  · have hadv : (s.advanceCursor m v before).fieldsSound ∧ (s.advanceCursor m v before).bandsSound ∧
        (s.advanceCursor m v before).state ≠ .free := by
      unfold State.advanceCursor
      split
      · split
        · split
          · have := record_congr (d := (m.raiseCursor v).dropOldest) mf mb rfl rfl rfl
              ((dropOldest_bands _).trans (raiseCursor_bands m v))
              (fun h => absurd h ham)
            exact ⟨this.1, this.2, ham⟩
          · exact ⟨mf, mb, ham⟩
        · exact ⟨mf, mb, ham⟩
      · exact ⟨mf, mb, ham⟩
    split
    · exact break_record _ _ hadv.2.2 hadv.1 hadv.2.1
    · exact ⟨hadv.1, hadv.2.1⟩

/-- Adding a member keeps the record of an allocated convoy sound, with a band in range (R85). -/
theorem addMember_record (s : State) (c : Convoy) (v : VehicleId) (gmin gmax cursor : Nat) (ha : c.state ≠ .free)
    (h1 : 1 ≤ gmin) (h2 : gmin ≤ 4) (h3 : gmin ≤ gmax) (h4 : gmax ≤ 8) (hf : c.fieldsSound) (hb : c.bandsSound) :
    let d : Convoy := { c with members := s.measure (fun _ m => m = v) (c.members ++ [⟨v, gmin, gmax, .unknown, cursor⟩]) }
    d.dropOldest.fieldsSound ∧ d.dropOldest.bandsSound := by
  intro d
  have hne : c.members ≠ [] := fun e => ha (hf.2.2.1.mpr e)
  let e : Convoy := { c with members := c.members ++ [⟨v, gmin, gmax, .unknown, cursor⟩] }
  have he : e.fieldsSound ∧ e.bandsSound := by
    refine ⟨⟨hf.1, hf.2.1, ?_, hf.2.2.2⟩, ?_, ?_, ?_⟩
    · simp [e, ha]
    · intro m hm
      rcases List.mem_append.mp hm with hm | hm
      · exact hb.1 m hm
      · rw [List.mem_singleton.mp hm]; exact ⟨h1, h2, h3, h4⟩
    · have := hb.2.1
      show ∀ m ∈ (c.members ++ _).head?, _
      rw [List.head?_append_of_ne_nil _ hne]; exact this
    · show ∀ m ∈ (c.members ++ _).tail, _
      rw [List.tail_append_of_ne_nil hne]
      intro m hm
      rcases List.mem_append.mp hm with hm | hm
      · exact hb.2.2 m hm
      · rw [List.mem_singleton.mp hm]; exact List.mem_cons_self
  have hd := measure_record s (fun _ m => m = v) e he.1 he.2
  exact dropOldest_record d hd.1 hd.2

/-- Removing a member from others keeps the record sound (R86, R87). -/
theorem convoyWithout_record (s : State) (c : Convoy) (v : VehicleId) (hn : (c.members.map Member.tractor).Nodup)
    (hl : 1 < c.members.length) (hf : c.fieldsSound) (hb : c.bandsSound) :
    (s.convoyWithout c v).fieldsSound ∧ (s.convoyWithout c v).bandsSound := by
  have hne : c.members ≠ [] := fun e => by simp [e] at hl
  have ha : c.state ≠ .free := fun e => hne (hf.2.2.1.mp e)
  have hcause : causeWithout v c.cause ≠ none → c.state = .broken := fun h => hf.2.1 (fun e => h (by rw [e]; rfl))
  have hsub : (c.members.filter (fun m => m.tractor ≠ v)).Sublist c.members := List.filter_sublist
  unfold State.convoyWithout
  dsimp only
  cases hc : c.members with
  | nil => exact absurd hc hne
  | cons l fs =>
    have hfs : fs ≠ [] := fun e => by simp [hc, e] at hl
    rw [hc] at hn
    obtain ⟨hnl, hnf⟩ := List.nodup_cons.mp hn
    by_cases hlead : l.tractor = v
    · have hrest : (l :: fs).filter (fun m => m.tractor ≠ v) = fs := by
        rw [List.filter_cons_of_neg (by simp [hlead]), List.filter_eq_self.mpr]
        intro m hm
        simp only [ne_eq, decide_not, Bool.not_eq_eq_eq_not, Bool.not_true, decide_eq_false_iff_not]
        intro e
        exact hnl (by rw [hlead, ← e]; exact List.mem_map_of_mem hm)
      rw [if_pos (by simp [Convoy.isLead, hc, hlead]), hrest]
      cases hfs' : fs with
      | nil => exact absurd hfs' hfs
      | cons f gs =>
        refine dropOldest_record _ ⟨hf.1, hcause, by simp [Convoy.promote, ha], fun h => absurd h ha⟩ ⟨?_, ?_, ?_⟩
        · intro m hm
          simp only [Convoy.promote, List.mem_cons, List.mem_map] at hm
          rcases hm with rfl | ⟨n, hn, rfl⟩
          · exact hb.1 f (by simp [hc, hfs'])
          · exact hb.1 n (by simp [hc, hfs', hn])
        · simp [Convoy.promote]
        · intro m hm
          simp only [Convoy.promote, List.tail_cons, List.mem_map] at hm
          obtain ⟨n, hn, rfl⟩ := hm
          exact hb.2.2 n (by simp [hc, hfs', hn])
    · have hrest : (l :: fs).filter (fun m => m.tractor ≠ v) = l :: fs.filter (fun m => m.tractor ≠ v) :=
        List.filter_cons_of_pos (by simp [hlead])
      rw [if_neg (by simp [Convoy.isLead, hc, hlead]), hrest]
      let e : Convoy := { c with cause := causeWithout v c.cause, members := l :: fs.filter (fun m => m.tractor ≠ v) }
      have he : e.fieldsSound ∧ e.bandsSound := by
        refine ⟨⟨hf.1, hcause, by simp [e, ha], fun h => absurd h ha⟩, ?_, ?_, ?_⟩
        · intro m hm
          refine hb.1 m (hsub.subset ?_)
          rw [hc, hrest]; exact hm
        · have := hb.2.1
          rw [hc] at this
          simpa [e] using this
        · intro m hm
          refine hb.2.2 m ?_
          rw [hc]
          exact (List.mem_filter.mp hm).1
      have hd := measure_record s (fun _ m => followerOf v (l :: fs) = some m) e he.1 he.2
      exact dropOldest_record _ hd.1 hd.2

end Sys2Proof.Machine
end

