-- ==== Sys2Proof/Laws/Coupling.lean ====
section
/-! SUPPORT. What the Coupling Identifier's operations can change. -/

namespace Sys2Proof.Machine

/-- Everything but the Coupling Identifier and the polls pending on serving channels is as it was, and no entry has joined the
identification queue. -/
def OnlyPolls (s t : State) : Prop :=
  t = { s with coupler := t.coupler, channels := t.channels } ∧
    (∀ c, t.channel c = { s.channel c with pendingPoll := (t.channel c).pendingPoll }) ∧
    (∀ c, s.serving c = false → t.channel c = s.channel c) ∧
    t.coupler.queue.Sublist s.coupler.queue

theorem onlyPolls_refl (s : State) : OnlyPolls s s := ⟨rfl, fun _ => rfl, fun _ _ => rfl, List.Sublist.refl _⟩

theorem onlyPolls_serving {s t : State} (h : OnlyPolls s t) (c : Channel) : t.serving c = s.serving c := by
  simp only [State.serving]
  rw [h.2.1 c]

theorem onlyPolls_trans {s t u : State} (h : OnlyPolls s t) (k : OnlyPolls t u) : OnlyPolls s u := by
  refine ⟨?_, ?_, ?_, k.2.2.2.trans h.2.2.2⟩
  · rw [k.1, h.1]
  · intro c
    rw [k.2.1 c, h.2.1 c]
  · intro c hc
    rw [k.2.2.1 c ((onlyPolls_serving h c).trans hc), h.2.2.1 c hc]

theorem onlyPolls_placePolls (cs : List Channel) (p : PollSubject) (s : State) (h : ∀ c ∈ cs, s.serving c = true) :
    OnlyPolls s (s.placePolls cs p) ∧ (s.placePolls cs p).coupler = s.coupler := by
  induction cs generalizing s with
  | nil => exact ⟨onlyPolls_refl s, rfl⟩
  | cons c cs ih =>
    have h1 : OnlyPolls s (s.setChannel c { s.channel c with pendingPoll := some p }) := by
      refine ⟨rfl, fun d => ?_, fun d hd => ?_, List.Sublist.refl _⟩
      · rw [channel_setChannel]
        split
        · rename_i e; subst e; rfl
        · rfl
      · rw [channel_setChannel_other]
        rintro rfl
        rw [h d (by simp)] at hd
        exact absurd hd (by decide)
    have h2 := ih (s.setChannel c { s.channel c with pendingPoll := some p })
      (fun d hd => (onlyPolls_serving h1 d).trans (h d (by simp [hd])))
    exact ⟨onlyPolls_trans h1 h2.1, h2.2⟩

theorem onlyPolls_beginRound (s : State) (x : VehicleId) (n : Nat) : OnlyPolls s (s.beginRound x n) := by
  have h := (onlyPolls_placePolls s.servingChannels ⟨(s.vehicle x).active.channel, (s.vehicle x).address⟩ s
    (fun c hc => by simpa [State.servingChannels, State.serving] using (List.mem_filter.mp hc).2)).1
  refine ⟨?_, h.2.1, h.2.2.1, ?_⟩
  · unfold State.beginRound
    dsimp only
    generalize s.placePolls _ _ = q at h
    rw [h.1]
  · exact List.Sublist.refl _

theorem onlyPolls_leaveIdentQueue (s : State) (x : VehicleId) : OnlyPolls s (s.leaveIdentQueue x) :=
  ⟨rfl, fun _ => rfl, fun _ _ => rfl, List.filter_sublist⟩

/-- A start that is judged changes the identifier and polls alone, and its latches are COUPLE_UNRESOLVED (R143). -/
theorem startIdent_spec (n : Nat) (s : State) :
    OnlyPolls s (startIdent n s).1 ∧ ∀ l ∈ (startIdent n s).2, l.cls = .coupleUnresolved := by
  induction n generalizing s with
  | zero => exact ⟨onlyPolls_refl s, by simp [startIdent]⟩
  | succ n ih =>
    unfold startIdent
    split
    · exact ⟨onlyPolls_refl s, by simp⟩
    · split
      · exact ⟨onlyPolls_refl s, by simp⟩
      · rename_i x _
        split
        · have h := ih (s.leaveIdentQueue x)
          refine ⟨onlyPolls_trans (onlyPolls_leaveIdentQueue s x) h.1, ?_⟩
          intro l hl
          rcases List.mem_cons.mp hl with rfl | hl
          · rfl
          · exact h.2 l hl
        · exact ⟨onlyPolls_beginRound s x 1, by simp⟩

theorem judgeStart_spec (s : State) :
    OnlyPolls s s.judgeStart.1 ∧ ∀ l ∈ s.judgeStart.2, l.cls = .coupleUnresolved := startIdent_spec _ s

theorem startIdent_ident (n : Nat) (s : State) (i : Identification) (h : (startIdent n s).1.coupler.ident = some i) :
    s.coupler.ident = some i ∨ i.subject ∈ s.coupler.queue := by
  induction n generalizing s with
  | zero => exact Or.inl h
  | succ n ih =>
    unfold startIdent at h
    split at h
    · exact Or.inl h
    · split at h
      · exact Or.inl h
      · rename_i x hx
        split at h
        · rcases ih (s.leaveIdentQueue x) h with h | h
          · left
            have : (s.leaveIdentQueue x).coupler.ident = s.coupler.ident ∨ (s.leaveIdentQueue x).coupler.ident = none := by
              simp only [State.leaveIdentQueue]
              cases s.coupler.ident with
              | none => simp
              | some j => dsimp only; split <;> simp
            rcases this with e | e
            · rw [← e]; exact h
            · rw [e] at h; exact absurd h (by simp)
          · exact Or.inr (List.mem_of_mem_filter h)
        · right
          have hi : some (⟨x, 1, s.servingChannels, [], false⟩ : Identification) = some i := h
          rw [← Option.some.inj hi]
          exact List.mem_of_find?_eq_some hx

/-- The identification in flight after a start is judged is the one before, or that of a queued entry (R143). -/
theorem judgeStart_ident (s : State) (i : Identification) (h : s.judgeStart.1.coupler.ident = some i) :
    s.coupler.ident = some i ∨ i.subject ∈ s.coupler.queue := startIdent_ident _ s i h

/-- With no entry queued there is nothing to start. -/
theorem judgeStart_empty (s : State) (h : s.coupler.queue = []) : s.judgeStart = (s, []) := by
  simp [State.judgeStart, h, startIdent]

/-- With an identification in flight nothing starts. -/
theorem judgeStart_busy (s : State) (h : s.coupler.ident.isSome = true) : s.judgeStart = (s, []) := by
  unfold State.judgeStart
  cases s.coupler.queue.length with
  | zero => rfl
  | succ n => simp [startIdent, h]

/-- An entry that is cancelled leaves the queue and no identification of it is left; polls alone are withdrawn, and nothing
else changes (R147). -/
theorem cancelEntry_spec (s : State) (x : VehicleId) :
    s.cancelEntry x = { s with coupler := (s.cancelEntry x).coupler, channels := (s.cancelEntry x).channels } ∧
      (∀ c, (s.cancelEntry x).channel c =
        { s.channel c with
          pendingPoll := ((s.cancelEntry x).channel c).pendingPoll, flight := ((s.cancelEntry x).channel c).flight }) ∧
      (∀ c, (s.channel c).flight = none → ((s.cancelEntry x).channel c).flight = none) ∧
      x ∉ (s.cancelEntry x).coupler.queue ∧ (s.cancelEntry x).coupler.queue.Sublist s.coupler.queue ∧
      (∀ i, (s.cancelEntry x).coupler.ident = some i → i.subject ≠ x ∧ s.coupler.ident = some i) := by
  have hq (t : State) : (∀ i, (t.leaveIdentQueue x).coupler.ident = some i → i.subject ≠ x ∧ t.coupler.ident = some i) := by
    intro i hi
    simp only [State.leaveIdentQueue] at hi
    split at hi
    · split at hi
      · simp at hi
      · rename_i j hj hne
        obtain rfl := Option.some.inj hi
        exact ⟨hne, hj⟩
    · simp at hi
  have hc : s.cancelEntry x = s.leaveIdentQueue x ∨
      s.cancelEntry x = (s.mapChannels ChannelUnit.withdrawPoll).leaveIdentQueue x := by
    unfold State.cancelEntry
    cases s.coupler.ident with
    | none => exact Or.inl rfl
    | some i =>
      by_cases e : i.subject = x
      · exact Or.inr (by simp [e])
      · exact Or.inl (by simp [e])
  rcases hc with hc | hc <;> rw [hc]
  · exact ⟨rfl, fun _ => rfl, fun _ h => h, by simp [State.leaveIdentQueue], List.filter_sublist, hq s⟩
  · refine ⟨rfl, fun c => ?_, fun c h => ?_, by simp [State.leaveIdentQueue], List.filter_sublist,
      hq (s.mapChannels ChannelUnit.withdrawPoll)⟩
    · show (s.mapChannels ChannelUnit.withdrawPoll).channel c =
        { s.channel c with
          pendingPoll := ((s.mapChannels ChannelUnit.withdrawPoll).channel c).pendingPoll
          flight := ((s.mapChannels ChannelUnit.withdrawPoll).channel c).flight }
      rw [channel_mapChannels_same]
      rfl
    · show ((s.mapChannels ChannelUnit.withdrawPoll).channel c).flight = none
      rw [channel_mapChannels_same]
      simp [ChannelUnit.withdrawPoll, h]

/-! ### Attachments -/

theorem detachAll_vehicle (vs : List VehicleId) (s : State) (w : VehicleId) :
    (s.detachAll vs).vehicle w = if w ∈ vs then { s.vehicle w with attachedBehind := none } else s.vehicle w := by
  induction vs generalizing s with
  | nil => simp [State.detachAll]
  | cons v vs ih =>
    show ((s.detach v).detachAll vs).vehicle w = _
    rw [ih]
    by_cases hv : w = v
    · subst hv
      simp [State.detach]
    · simp [State.detach, vehicle_setVehicle_other _ _ _ _ hv, hv]

theorem detachAll_frame (vs : List VehicleId) (s : State) :
    s.detachAll vs = { s with vehicles := (s.detachAll vs).vehicles } := by
  induction vs generalizing s with
  | nil => rfl
  | cons v vs ih =>
    have h : s.detachAll (v :: vs) = (s.detach v).detachAll vs := rfl
    rw [h, ih (s.detach v)]
    rfl

/-- The vehicle attached behind v, if one is (R4). -/
theorem behind_attached {s : State} {v w : VehicleId} (h : s.behind v = some w) :
    ((s.vehicle w).attachedBehind.map Prod.fst) = some v := by
  have := List.find?_some h
  simpa using this

/-! ### Reports -/

/-- Everything but the Coupling Identifier, attachments, and the polls pending on serving channels is as it was. -/
def OnlyAttachments (s t : State) : Prop :=
  t = { s with vehicles := t.vehicles, coupler := t.coupler, channels := t.channels } ∧
    (∀ w, t.vehicle w = { s.vehicle w with attachedBehind := (t.vehicle w).attachedBehind }) ∧
    (∀ c, t.channel c = { s.channel c with pendingPoll := (t.channel c).pendingPoll }) ∧
    (∀ c, s.serving c = false → t.channel c = s.channel c)

theorem onlyAttachments_of_polls {s t : State} (h : OnlyPolls s t) : OnlyAttachments s t := by
  refine ⟨?_, fun w => ?_, h.2.1, h.2.2.1⟩
  · have := h.1
    rw [this]
  · have : t.vehicles = s.vehicles := by rw [h.1]
    simp only [State.vehicle, this]

theorem onlyAttachments_then_polls {s t u : State} (h : OnlyAttachments s t) (k : OnlyPolls t u) :
    OnlyAttachments s u := by
  have hs (c : Channel) : t.serving c = s.serving c := by
    simp only [State.serving]
    rw [h.2.2.1 c]
  refine ⟨?_, fun w => ?_, fun c => ?_, fun c hc => ?_⟩
  · rw [k.1, h.1]
  · have : u.vehicles = t.vehicles := by rw [k.1]
    simp only [State.vehicle, this]
    exact h.2.1 w
  · rw [k.2.1 c, h.2.2.1 c]
  · rw [k.2.2.1 c ((hs c).trans hc), h.2.2.2 c hc]

theorem onlyAttachments_attach (s : State) (y : VehicleId) (a : Option (VehicleId × AttachState)) :
    OnlyAttachments s (s.setVehicle y { s.vehicle y with attachedBehind := a }) := by
  refine ⟨rfl, fun w => ?_, fun _ => rfl, fun _ _ => rfl⟩
  rw [vehicle_setVehicle]
  split
  · rename_i e; subst e; rfl
  · rfl

theorem roundEnd_spec (s : State) (i : Identification) :
    OnlyAttachments s (s.roundEnd i).1 ∧
      ∀ l ∈ (s.roundEnd i).2, l.cls = .couplePending ∨ l.cls = .coupleUnresolved := by
  unfold State.roundEnd
  split
  · rename_i y _
    have h := judgeStart_spec
      ((s.setVehicle y { s.vehicle y with attachedBehind := some (i.subject, .tentative) }).leaveIdentQueue i.subject)
    refine ⟨onlyAttachments_then_polls (onlyAttachments_attach s y _)
      (onlyPolls_trans (onlyPolls_leaveIdentQueue _ _) h.1), fun l hl => ?_⟩
    rcases List.mem_cons.mp hl with rfl | hl
    · exact Or.inl rfl
    · exact Or.inr (h.2 l hl)
  · split
    · exact ⟨onlyAttachments_of_polls (onlyPolls_beginRound s _ _), by simp⟩
    · have h := judgeStart_spec (s.leaveIdentQueue i.subject)
      refine ⟨onlyAttachments_of_polls (onlyPolls_trans (onlyPolls_leaveIdentQueue _ _) h.1), fun l hl => ?_⟩
      rcases List.mem_cons.mp hl with rfl | hl
      · exact Or.inr rfl
      · exact Or.inr (h.2 l hl)

/-- A report of a polled channel changes attachments, the identifier, and the polls pending on serving channels alone. -/
theorem pollReport_spec (s : State) (c : Channel) (replies : List Byte) (garbled : Bool) :
    OnlyAttachments s (s.pollReport c replies garbled).1 ∧
      ∀ l ∈ (s.pollReport c replies garbled).2, l.cls = .couplePending ∨ l.cls = .coupleUnresolved := by
  unfold State.pollReport
  split
  · split
    · dsimp only
      split
      · exact roundEnd_spec s _
      · exact ⟨⟨rfl, fun _ => rfl, fun _ => rfl, fun _ _ => rfl⟩, by simp⟩
    · exact ⟨onlyAttachments_of_polls (onlyPolls_refl s), by simp⟩
  · exact ⟨onlyAttachments_of_polls (onlyPolls_refl s), by simp⟩

/-! ### Coupler events -/

/-- Everything but the Coupling Identifier, attachments, and the channels' polls is as it was. -/
def OnlyCoupling (s t : State) : Prop :=
  t = { s with vehicles := t.vehicles, coupler := t.coupler, channels := t.channels } ∧
    (∀ w, t.vehicle w = { s.vehicle w with attachedBehind := (t.vehicle w).attachedBehind }) ∧
    (∀ c, t.channel c =
      { s.channel c with pendingPoll := (t.channel c).pendingPoll, flight := (t.channel c).flight }) ∧
    (∀ c, (s.channel c).flight = none → (t.channel c).flight = none)

theorem onlyCoupling_refl (s : State) : OnlyCoupling s s := ⟨rfl, fun _ => rfl, fun _ => rfl, fun _ h => h⟩

theorem onlyCoupling_trans {s t u : State} (h : OnlyCoupling s t) (k : OnlyCoupling t u) : OnlyCoupling s u := by
  refine ⟨?_, fun w => ?_, fun c => ?_, fun c hc => k.2.2.2 c (h.2.2.2 c hc)⟩
  · rw [k.1, h.1]
  · rw [k.2.1 w, h.2.1 w]
  · rw [k.2.2.1 c, h.2.2.1 c]

theorem onlyCoupling_of_attachments {s t : State} (h : OnlyAttachments s t) : OnlyCoupling s t := by
  refine ⟨h.1, h.2.1, fun c => ?_, fun c hc => ?_⟩
  · have := h.2.2.1 c
    rw [this]
  · rw [h.2.2.1 c]
    exact hc

theorem onlyCoupling_of_polls {s t : State} (h : OnlyPolls s t) : OnlyCoupling s t :=
  onlyCoupling_of_attachments (onlyAttachments_of_polls h)

theorem onlyCoupling_detach (s : State) (v : VehicleId) : OnlyCoupling s (s.detach v) :=
  onlyCoupling_of_attachments (onlyAttachments_attach s v none)

theorem onlyCoupling_detachAll (vs : List VehicleId) (s : State) : OnlyCoupling s (s.detachAll vs) := by
  induction vs generalizing s with
  | nil => exact onlyCoupling_refl s
  | cons v vs ih => exact onlyCoupling_trans (onlyCoupling_detach s v) (ih (s.detach v))

theorem onlyCoupling_cancelEntry (s : State) (x : VehicleId) : OnlyCoupling s (s.cancelEntry x) := by
  have h := cancelEntry_spec s x
  refine ⟨?_, fun w => ?_, h.2.1, h.2.2.1⟩
  · have := h.1
    rw [this]
  · have : (s.cancelEntry x).vehicles = s.vehicles := by rw [h.1]
    simp only [State.vehicle, this]

theorem kingpinRelease_spec (s : State) (y : VehicleId) :
    OnlyCoupling s (s.kingpinRelease y).1 ∧ ∀ l ∈ (s.kingpinRelease y).2, l.cls = .coupleUnresolved := by
  unfold State.kingpinRelease
  split
  · have h := judgeStart_spec ((s.dissolveBehind y).detach y)
    exact ⟨onlyCoupling_trans (onlyCoupling_trans (onlyCoupling_detachAll _ s) (onlyCoupling_detach _ y))
      (onlyCoupling_of_polls h.1), h.2⟩
  · exact ⟨onlyCoupling_refl s, by simp⟩

theorem opening_spec (s : State) (x : VehicleId) :
    OnlyCoupling s (s.opening x).1 ∧ ∀ l ∈ (s.opening x).2, l.cls = .coupleUnresolved := by
  have h := judgeStart_spec ((s.dissolveBehind x).cancelEntry x)
  exact ⟨onlyCoupling_trans (onlyCoupling_trans (onlyCoupling_detachAll _ s) (onlyCoupling_cancelEntry _ x))
    (onlyCoupling_of_polls h.1), h.2⟩

theorem closure_spec (s : State) (x : VehicleId) :
    OnlyCoupling s (s.closure x).1 ∧ ∀ l ∈ (s.closure x).2, l.cls = .coupleUnresolved := by
  unfold State.closure
  split
  · exact ⟨onlyCoupling_refl s, by simp⟩
  · split
    · exact ⟨onlyCoupling_refl s, by simp [State.unresolved]⟩
    · have h := judgeStart_spec { s with coupler := { s.coupler with queue := s.coupler.queue ++ [x] } }
      have h0 : OnlyCoupling s { s with coupler := { s.coupler with queue := s.coupler.queue ++ [x] } } :=
        ⟨rfl, fun _ => rfl, fun _ => rfl, fun _ h => h⟩
      exact ⟨onlyCoupling_trans h0 (onlyCoupling_of_polls h.1), h.2⟩

/-- The coupler events of an ack change attachments, the identifier and polls alone, and latch COUPLE_UNRESOLVED alone. -/
theorem couplerAck_spec (s : State) (x : VehicleId) (before : Vehicle) :
    OnlyCoupling s (s.couplerAck x before).1 ∧ ∀ l ∈ (s.couplerAck x before).2, l.cls = .coupleUnresolved := by
  unfold State.couplerAck
  dsimp only
  have h1 : OnlyCoupling s (if (decide ((s.vehicle x).kind = .trailer) && before.kingpin && !(s.vehicle x).kingpin) = true
      then s.kingpinRelease x else (s, [])).1 ∧
      ∀ l ∈ (if (decide ((s.vehicle x).kind = .trailer) && before.kingpin && !(s.vehicle x).kingpin) = true
      then s.kingpinRelease x else (s, [])).2, l.cls = .coupleUnresolved := by
    split
    · exact kingpinRelease_spec s x
    · exact ⟨onlyCoupling_refl s, by simp⟩
  generalize (if (decide ((s.vehicle x).kind = .trailer) && before.kingpin && !(s.vehicle x).kingpin) = true
      then s.kingpinRelease x else (s, [])) = p at h1
  obtain ⟨s1, ls1⟩ := p
  have h2 : OnlyCoupling s1 (if (before.frontCoupler && !(s.vehicle x).frontCoupler) = true then s1.opening x
      else if (!before.frontCoupler && (s.vehicle x).frontCoupler) = true then s1.closure x else (s1, [])).1 ∧
      ∀ l ∈ (if (before.frontCoupler && !(s.vehicle x).frontCoupler) = true then s1.opening x
      else if (!before.frontCoupler && (s.vehicle x).frontCoupler) = true then s1.closure x else (s1, [])).2,
        l.cls = .coupleUnresolved := by
    split
    · exact opening_spec s1 x
    · split
      · exact closure_spec s1 x
      · exact ⟨onlyCoupling_refl s1, by simp⟩
  refine ⟨onlyCoupling_trans h1.1 h2.1, fun l hl => ?_⟩
  rcases List.mem_append.mp hl with hl | hl
  · exact h1.2 l hl
  · exact h2.2 l hl

/-! ### Each operation whole, in the words of the statements -/

theorem placePolls_channel (cs : List Channel) (p : PollSubject) (s : State) (c : Channel) :
    (s.placePolls cs p).channel c = if c ∈ cs then { s.channel c with pendingPoll := some p } else s.channel c := by
  induction cs generalizing s with
  | nil => simp [State.placePolls]
  | cons d cs ih =>
    show ((s.setChannel d { s.channel d with pendingPoll := some p }).placePolls cs p).channel c = _
    rw [ih]
    by_cases e : c = d
    · subst e; simp
    · simp [channel_setChannel_other, e]

/-- What the beginning of a round does (R144, R38). -/
theorem beginRound_begun (s : State) (x : VehicleId) (n : Nat) : s.roundBegun (s.beginRound x n) x n := by
  refine ⟨?_, fun c => ?_⟩
  · have h := (onlyPolls_beginRound s x n).1
    rw [h]
    rfl
  · show (s.placePolls _ _).channel c = _
    rw [placePolls_channel]
    have : (c ∈ s.servingChannels) ↔ (s.channel c).state = .serving := by
      simp only [State.servingChannels, State.serving, List.mem_filter, decide_eq_true_eq, and_iff_right_iff_imp]
      intro _; cases c <;> decide
    simp only [this]

theorem blocked_leaveIdentQueue (s : State) (x y : VehicleId) : (s.leaveIdentQueue x).blocked y = s.blocked y := rfl

theorem startIdent_failing (n : Nat) (s : State) (hi : s.coupler.ident = none) (hs : s.servingChannels = [])
    (hn : s.coupler.queue.length ≤ n) :
    startIdent n s =
      ({ s with coupler := { queue := s.coupler.queue.filter s.blocked, ident := none } },
        (s.coupler.queue.filter (fun x => !s.blocked x)).eraseDups.map s.unresolved) := by
  induction n generalizing s with
  | zero =>
    have hq : s.coupler.queue = [] := List.length_eq_zero_iff.mp (by omega)
    have : s.coupler = ⟨[], none⟩ := by rw [← hq, ← hi]
    simp only [startIdent, hq, List.filter_nil, List.eraseDups_nil, List.map_nil, ← this]
  | succ n ih =>
    unfold startIdent
    simp only [hi, Option.isSome_none, Bool.false_eq_true, if_false, hs, List.isEmpty_nil, if_true]
    split
    · rename_i hf
      have hb : ∀ x ∈ s.coupler.queue, s.blocked x = true := by simpa using hf
      have h1 : s.coupler.queue.filter s.blocked = s.coupler.queue := List.filter_eq_self.mpr hb
      have h2 : s.coupler.queue.filter (fun x => !s.blocked x) = [] :=
        List.filter_eq_nil_iff.mpr (fun x hx => by simp [hb x hx])
      rw [h1, h2, ← hi]
      rfl
    · rename_i x hf
      obtain ⟨hx, pre, post, hq, hp⟩ := List.find?_eq_some_iff_append.mp hf
      have hx' : s.blocked x = false := by simpa using hx
      have hp' : ∀ y ∈ pre, s.blocked y = true := fun y hy => by simpa using hp y hy
      have hi' : (s.leaveIdentQueue x).coupler.ident = none := by simp [State.leaveIdentQueue, hi]
      have hl : (s.leaveIdentQueue x).coupler.queue = s.coupler.queue.filter (fun y => y ≠ x) := rfl
      have hn' : (s.leaveIdentQueue x).coupler.queue.length ≤ n := by
        rw [hl, hq, List.filter_append, List.filter_cons]
        have e1 := List.length_filter_le (fun y => decide (y ≠ x)) pre
        have e2 := List.length_filter_le (fun y => decide (y ≠ x)) post
        rw [hq] at hn
        simp only [List.length_append, List.length_cons] at hn
        simp only [ne_eq, not_true_eq_false, decide_false, Bool.false_eq_true, if_false, List.length_append]
        simp only [ne_eq] at e1 e2
        omega
      rw [ih (s.leaveIdentQueue x) hi' hs hn', hl]
      have e1 : (s.coupler.queue.filter (fun y => y ≠ x)).filter (s.leaveIdentQueue x).blocked =
          s.coupler.queue.filter s.blocked := by
        rw [List.filter_filter]
        refine List.filter_congr (fun y _ => ?_)
        rw [blocked_leaveIdentQueue]
        by_cases e : y = x
        · subst e; simp [hx']
        · simp [e]
      have e2 : (s.coupler.queue.filter (fun y => !s.blocked y)).eraseDups =
          x :: ((s.coupler.queue.filter (fun y => y ≠ x)).filter (fun y => !(s.leaveIdentQueue x).blocked y)).eraseDups := by
        have h1 : s.coupler.queue.filter (fun y => !s.blocked y) = x :: post.filter (fun y => !s.blocked y) := by
          rw [hq, List.filter_append, List.filter_cons]
          have : pre.filter (fun y => !s.blocked y) = [] :=
            List.filter_eq_nil_iff.mpr (fun y hy => by simp [hp' y hy])
          simp [this, hx']
        rw [h1, List.eraseDups_cons]
        congr 2
        have h2 : (s.coupler.queue.filter (fun y => y ≠ x)).filter (fun y => !(s.leaveIdentQueue x).blocked y) =
            (s.coupler.queue.filter (fun y => !s.blocked y)).filter (fun y => y ≠ x) := by
          rw [List.filter_filter, List.filter_filter]
          exact List.filter_congr (fun y _ => by rw [blocked_leaveIdentQueue, Bool.and_comm])
        rw [h2, h1, List.filter_cons]
        simp only [ne_eq, not_true_eq_false, decide_false, Bool.false_eq_true, if_false]
        exact List.filter_congr (fun y _ => by by_cases e : y = x <;> simp [e])
      refine Prod.ext ?_ ?_
      · show ({ s.leaveIdentQueue x with coupler := _ } : State) = _
        rw [e1]
        rfl
      · show s.unresolved x :: List.map (s.leaveIdentQueue x).unresolved _ = _
        rw [e2]
        rfl

/-- R143's judgement of a start, whole: what starts, what fails at once, and what is latched. -/
theorem judgeStart_judged (s : State) : s.startJudged s.judgeStart.1 s.judgeStart.2 := by
  refine ⟨fun h => ?_, fun hi pre x post hq hp hx hc => ?_, fun hi hs => ?_⟩
  · rcases h with h | h
    · rw [judgeStart_busy s (Option.isSome_iff_ne_none.mpr h)]
      exact ⟨rfl, rfl⟩
    · by_cases hi : s.coupler.ident = none
      · unfold State.judgeStart
        cases s.coupler.queue.length with
        | zero => exact ⟨rfl, rfl⟩
        | succ n =>
          have : s.coupler.queue.find? (fun x => !s.blocked x) = none := by simpa using h
          simp [startIdent, hi, this]
      · rw [judgeStart_busy s (Option.isSome_iff_ne_none.mpr hi)]
        exact ⟨rfl, rfl⟩
  · have hf : s.coupler.queue.find? (fun x => !s.blocked x) = some x :=
      List.find?_eq_some_iff_append.mpr ⟨by simp [hx], pre, post, hq, fun y hy => by simp [hp y hy]⟩
    have hc' : s.servingChannels ≠ [] := by
      obtain ⟨c, hc⟩ := hc
      intro h
      have : c ∈ s.servingChannels := by
        simp only [State.servingChannels, State.serving, List.mem_filter, decide_eq_true_eq]
        exact ⟨by cases c <;> decide, hc⟩
      rw [h] at this
      simp at this
    have : s.judgeStart = (s.beginRound x 1, []) := by
      unfold State.judgeStart
      rw [hq, List.length_append, List.length_cons, ← Nat.add_assoc]
      simp [startIdent, hi, hf, hc']
    rw [this]
    exact ⟨beginRound_begun s x 1, rfl⟩
  · have hc' : s.servingChannels = [] := by
      simp only [State.servingChannels, State.serving, List.filter_eq_nil_iff, decide_eq_true_eq]
      exact fun c _ => hs c
    unfold State.judgeStart
    rw [startIdent_failing _ s hi hc' (Nat.le_refl _)]
    exact ⟨rfl, rfl⟩

/-- The candidate of a round is the vehicle that its one reply names (R145). -/
theorem roundCandidate_some (s : State) (i : Identification) (y : VehicleId) :
    s.roundCandidate i = some y ↔ i.garbled = false ∧
      ∃ d address, i.replies = [(d, address)] ∧ s.occupant d address = some y ∧ s.suitable i.subject y = true := by
  unfold State.roundCandidate
  cases hg : i.garbled with
  | true => simp
  | false =>
    simp only [Bool.false_eq_true, if_false, true_and]
    split
    · rename_i c a h
      split
      · rename_i w hw
        constructor
        · intro he
          split at he
          · rename_i hs
            obtain rfl := Option.some.inj he
            exact ⟨c, a, h, hw, hs⟩
          · simp at he
        · rintro ⟨d, b, e1, e2, e3⟩
          rw [h] at e1
          simp only [List.cons.injEq, Prod.mk.injEq, and_true] at e1
          obtain ⟨rfl, rfl⟩ := e1
          rw [hw] at e2
          obtain rfl := Option.some.inj e2
          simp [e3]
      · rename_i hw
        simp only [reduceCtorEq, false_iff]
        rintro ⟨d, b, e1, e2, -⟩
        rw [h] at e1
        simp only [List.cons.injEq, Prod.mk.injEq, and_true] at e1
        obtain ⟨rfl, rfl⟩ := e1
        rw [hw] at e2
        simp at e2
    · rename_i h
      simp only [reduceCtorEq, false_iff]
      rintro ⟨d, b, e1, -⟩
      exact h d b e1

/-- What the end of a round does, whole (R145, R146). -/
theorem roundEnd_ended (s : State) (i : Identification) (h : s.coupler.ident.map Identification.subject = some i.subject) :
    s.roundEnded (s.roundEnd i).1 i (s.roundEnd i).2 := by
  have hleave (t : State) (ht : t.coupler = s.coupler) : t.leaveIdentQueue i.subject =
      { t with coupler := ⟨s.coupler.queue.filter (fun y => y ≠ i.subject), none⟩ } := by
    obtain ⟨j, hj, he⟩ := Option.map_eq_some_iff.mp h
    simp [State.leaveIdentQueue, ht, hj, he]
  refine ⟨fun y hy => ?_, fun hn => ⟨fun hr hs => ?_, fun hr => ?_⟩⟩
  · have hc := (roundCandidate_some s i y).mpr hy
    unfold State.roundEnd
    rw [hc]
    dsimp only
    rw [hleave (s.setVehicle y { s.vehicle y with attachedBehind := some (i.subject, .tentative) }) rfl]
    exact ⟨_, judgeStart_judged _, rfl⟩
  all_goals
    have hc : s.roundCandidate i = none := by
      cases he : s.roundCandidate i with
      | none => rfl
      | some y => exact absurd ((roundCandidate_some s i y).mp he) (hn y)
    have hsv : s.servingChannels.isEmpty = true ↔ ∀ d, (s.channel d).state ≠ .serving := by
      simp only [State.servingChannels, State.serving, List.isEmpty_iff, List.filter_eq_nil_iff, decide_eq_true_eq]
      exact ⟨fun k d => k d (by cases d <;> decide), fun k d _ => k d⟩
    unfold State.roundEnd
    rw [hc]
    dsimp only
  · have : s.servingChannels.isEmpty = false := by
      rw [Bool.eq_false_iff, Ne, hsv]
      exact fun k => hs.elim (fun d hd => k d hd)
    simp only [hr, this, decide_true, Bool.not_false, Bool.and_self, if_true]
    exact ⟨beginRound_begun s _ _, trivial⟩
  · have : (decide (i.round < 3) && !s.servingChannels.isEmpty) = false := by
      rcases hr with hr | hr
      · simp [Nat.not_lt.mpr hr]
      · simp [hsv.mpr hr]
    rw [this]
    simp only [Bool.false_eq_true, if_false]
    rw [hleave s rfl]
    exact ⟨_, judgeStart_judged _, rfl⟩

/-- What a channel's report does, whole (R39, R144). -/
theorem pollReport_reported (s : State) (c : Channel) (replies : List Byte) (garbled : Bool) :
    s.reported (s.pollReport c replies garbled).1 c replies garbled (s.pollReport c replies garbled).2 := by
  unfold State.pollReport
  cases hi : s.coupler.ident with
  | none => exact ⟨fun _ => ⟨rfl, rfl⟩, by simp [hi]⟩
  | some i =>
    by_cases hc : c ∈ i.awaiting
    · have hc' : i.awaiting.contains c = true := by simpa using hc
      simp only [hc', if_true]
      refine ⟨fun k => absurd hc (k i hi), fun j hj _ => ?_⟩
      obtain rfl := Option.some.inj (hi.symm.trans hj)
      refine ⟨fun ⟨d, hd, hne⟩ => ?_, fun hd => ?_⟩
      · have : (i.awaiting.filter (fun d => d ≠ c)).isEmpty = false := by
          rw [List.isEmpty_eq_false_iff]
          exact List.ne_nil_of_mem (List.mem_filter.mpr ⟨hd, by simpa using hne⟩)
        simp only [this, Bool.false_eq_true, if_false]
        exact ⟨trivial, trivial⟩
      · have : i.awaiting.filter (fun d => d ≠ c) = [] := by
          simpa [List.filter_eq_nil_iff] using hd
        simp only [this, List.isEmpty_nil, if_true]
        exact roundEnd_ended s _ (by simp [hi])
    · have hc' : i.awaiting.contains c = false := by simpa using hc
      simp only [hc', Bool.false_eq_true, if_false]
      refine ⟨fun _ => ⟨rfl, rfl⟩, fun j hj k => ?_⟩
      obtain rfl := Option.some.inj (hi.symm.trans hj)
      exact absurd k hc

/-- What the cancelling of an entry does (R147, R38). -/
theorem cancelEntry_cancelled (s : State) (x : VehicleId) : s.entryCancelled (s.cancelEntry x) x := by
  unfold State.cancelEntry
  cases hi : s.coupler.ident with
  | none =>
    refine ⟨?_, fun c => ?_⟩
    · simp [State.leaveIdentQueue, hi]
    · simp [hi]; rfl
  | some i =>
    by_cases e : i.subject = x
    · refine ⟨?_, fun c => ?_⟩
      · simp [State.leaveIdentQueue, hi, e, State.mapChannels]
      · simp only [hi, e, decide_true, if_true, Option.map_some]
        exact channel_mapChannels_same s _ c
    · refine ⟨?_, fun c => ?_⟩
      · simp [State.leaveIdentQueue, hi, e]
      · simp [hi, e]; rfl

/-- What the dissolving of attachments does (R141). -/
theorem detachAll_detached (s : State) (vs : List VehicleId) : s.detached (s.detachAll vs) vs :=
  ⟨detachAll_frame vs s, detachAll_vehicle vs s⟩

/-- One vehicle more is detached. -/
theorem detach_detached {s d : State} {gone : List VehicleId} (w : VehicleId) (h : s.detached d gone) :
    s.detached (d.detach w) (w :: gone) := by
  refine ⟨?_, fun x => ?_⟩
  · rw [State.detach, h.1]; rfl
  · by_cases e : x = w
    · subst e; simp [State.detach, h.2 x]; split <;> simp
    · simp [State.detach, vehicle_setVehicle_other _ _ _ _ e, h.2 x, e]

end Sys2Proof.Machine
end

