-- ==== Sys2Proof/Laws/Channels.lean ====
section
/-! SUPPORT. The end of a channel's service, said once: what it does to vehicles and convoys (R18, R19, R11, R27, R94). -/

namespace Sys2Proof.Machine

/-- What the end of a channel's service does to each vehicle (R19, R11). -/
theorem vehiclesLoseChannel_vehicle (s : State) (c : Channel) (b : Bool) (v : VehicleId) :
    (s.vehiclesLoseChannel c b).vehicle v = (s.vehicle v).channelLost c b := by
  unfold State.vehiclesLoseChannel
  obtain ⟨n, ks, h, -⟩ := loseMembers_spec (s.mapVehicles (fun _ x => x.channelLost c b))
    ((indices 64).filter (fun v => (s.vehicle v).losesChannel c))
  rw [h]
  exact vehicle_mapVehicles_same s (fun _ x => x.channelLost c b) v

/-- What the end of its channel's service does to a valid vehicle that is not in transit, written out (R19, R11). -/
theorem channelLost_eq (x : Vehicle) (c : Channel) (b : Bool) (a1 : x.valid = true) (a2 : x.inTransit = false)
    (a3 : x.active.channel = c) :
    x.channelLost c b =
      { (if x.link = .waiting ∨ x.link = .acquiring ∨ x.link = .online then
          { x with link := .lost, speed := 0, direction := .neutral, zeroFrames := 15 }
        else x) with
        inTransit :=
          (match x.staged with
            | some a => b && decide (a.channel ≠ c)
            | none => false) } := by
  obtain ⟨valid, kind, active, address, up, down, dwell, span, trim, load, link, misses, transit, staged⟩ := x
  simp only at a1 a2 a3
  subst a1 a2
  unfold Vehicle.channelLost Vehicle.losesChannel Vehicle.departsWith
  simp only [a3, decide_true, Bool.not_false, Bool.true_and, Bool.or_eq_true, decide_eq_true_eq, or_assoc]
  cases link <;> cases b <;> cases staged <;> simp [Vehicle.goLost, Vehicle.depart]
  all_goals split <;> simp_all

/-- The vehicles and convoys at the end of a channel's service: s1 is the state in which the slot in flight has ended, so
that at most a leaving vehicle differs from its record in s. -/
theorem serviceEnds_of (s s1 t : State) (c : Channel) (b : Bool)
    (h1 : ∀ v, (s.vehicle v).valid = true → s1.vehicle v = s.vehicle v)
    (h2 : ∀ v, (s.vehicle v).valid = false →
      (s1.vehicle v).valid = false ∧ ((s1.vehicle v).link = .lost → (s.vehicle v).link = .lost))
    (hk : s1.convoys = s.convoys)
    (htv : t.vehicles = (s1.vehiclesLoseChannel c b).vehicles) (htc : t.convoys = (s1.vehiclesLoseChannel c b).convoys) :
    s.serviceEnds t c b := by
  have hv (v) : t.vehicle v = (s1.vehicle v).channelLost c b := by
    rw [← vehiclesLoseChannel_vehicle]; simp only [State.vehicle, htv]
  have hlost (v) : s.loses t v ↔ (s.vehicle v).losesChannel c = true := by
    have hl : (t.vehicle v).link = ((s1.vehicle v).channelLost c b).link := by rw [hv v]
    unfold State.loses
    rw [hl]
    cases hval : (s.vehicle v).valid with
    | true =>
      rw [h1 v hval]
      unfold Vehicle.channelLost Vehicle.losesChannel
      simp only [hval, Vehicle.goLost, Vehicle.depart, Bool.true_and]
      generalize (s.vehicle v).departsWith c = q
      clear hv hl htv htc
      cases hl2 : (s.vehicle v).link <;> cases (s.vehicle v).inTransit <;> cases b <;> cases q <;> simp [hl2]
      all_goals (try split) <;> simp_all
    | false =>
      have ⟨a, a2⟩ := h2 v hval
      have : ((s1.vehicle v).channelLost c b) = s1.vehicle v := by
        simp [Vehicle.channelLost, Vehicle.losesChannel, Vehicle.departsWith, a]
      rw [this]
      simp [Vehicle.losesChannel, hval]
      intro q r; exact q (a2 r)
  obtain ⟨n, ks, h, hks⟩ := loseMembers_spec (s1.mapVehicles (fun _ x => x.channelLost c b))
    ((indices 64).filter (fun v => (s1.vehicle v).losesChannel c))
  have hconv (i : ConvoyId) : t.convoy i = ks[i] := by
    unfold State.convoy
    rw [htc]; unfold State.vehiclesLoseChannel; rw [h]
  have hconv1 (v : VehicleId) : ((s1.mapVehicles (fun _ x => x.channelLost c b)).vehicle v).convoy =
      (s1.vehicle v).convoy := by
    rw [vehicle_mapVehicles_same]; unfold Vehicle.channelLost; dsimp only; split <;> split <;> rfl
  have hc1 (i : ConvoyId) : (s1.mapVehicles (fun _ x => x.channelLost c b)).convoy i = s.convoy i := by
    simp [State.convoy, hk]
  have hc2 (i : ConvoyId) : (s1.mapVehicles (fun _ x => x.channelLost c b)).convoys[i] = s.convoy i := by
    simp [State.convoy, hk]
  have hmem (v : VehicleId) : v ∈ (indices 64).filter (fun v => (s1.vehicle v).losesChannel c) ↔
      (s.vehicle v).losesChannel c = true := by
    simp only [List.mem_filter, indices, List.mem_finRange, true_and]
    cases hval : (s.vehicle v).valid with
    | true => rw [h1 v hval]
    | false => simp [Vehicle.losesChannel, hval, (h2 v hval).1]
  have hlv (v : VehicleId) (h : (s.vehicle v).losesChannel c = true) : (s.vehicle v).valid = true := by
    simp [Vehicle.losesChannel] at h; exact h.1.1.1
  refine ⟨fun v a1 a2 a3 => ?_, fun v a1 a2 => ?_, fun i => ?_, fun v i a1 a2 => ?_⟩
  · rw [hv v, h1 v a1]
    exact channelLost_eq _ c b a1 a2 a3
  · rw [hv v, h1 v a1]
    have e1 : (s.vehicle v).losesChannel c = false := by
      simp [Vehicle.losesChannel]; intro _ q r; rcases a2 with a2 | a2
      · simp [a2] at q
      · exact absurd r a2
    have e2 : (s.vehicle v).departsWith c = false := by
      simp [Vehicle.departsWith]; intro _ q r; rcases a2 with a2 | a2
      · simp [a2] at q
      · exact absurd r a2
    simp [Vehicle.channelLost, e1, e2]
  · rw [hconv i]
    rcases hks i with ⟨a, -⟩ | ⟨v, a1, a2, a3, a4⟩
    · left; rw [a, hc2]
    · right
      refine ⟨v, ?_, (hlost v).2 ((hmem v).1 a1), ?_, ?_⟩
      · rw [← h1 v (hlv v ((hmem v).1 a1)), ← hconv1]; exact a2
      · rw [hc1] at a3
        simpa [Convoy.breaksOnLoss, or_assoc] using a3
      · rw [a4, hc1]; simp only [Convoy.break]
  · rw [hconv i]
    have hl := (hlost v).1 a2
    have hcv : ((s1.mapVehicles (fun _ x => x.channelLost c b)).vehicle v).convoy = some i := by
      rw [hconv1, h1 v (hlv v hl)]; exact a1
    rcases hks i with ⟨a, k | k⟩ | ⟨w, b1, b2, b3, b4⟩
    · rw [a, hc2]
      rw [hc1] at k
      simp [Convoy.breaksOnLoss] at k
      rw [if_neg (by simp only [not_or]; exact ⟨k.1.1, k.1.2, k.2⟩)]
    · exact absurd hcv (k v ((hmem v).2 hl))
    · rw [b4, hc1]
      rw [hc1] at b3
      simp [Convoy.breaksOnLoss] at b3
      rw [if_pos (by simpa only [or_assoc] using b3)]; simp only [Convoy.break]

/-! ### The end of a channel's service, whole -/

theorem endVehicleSlot_frame (s : State) (f : Option SlotFlight) :
    s.endVehicleSlot f = { s with vehicles := (s.endVehicleSlot f).vehicles } := by
  unfold State.endVehicleSlot
  split
  · split <;> rfl
  · rfl

/-- The slot that ends makes a leaving vehicle OFF, and changes no other (R13, R27). -/
theorem endVehicleSlot_vehicle (s : State) (f : Option SlotFlight) (v : VehicleId) :
    ((s.vehicle v).valid = false → (∃ address kind ack, f = some (.drive v address kind ack)) →
      (s.endVehicleSlot f).vehicle v = (s.vehicle v).reachOff) ∧
    ((s.vehicle v).valid = true ∨ (∀ address kind ack, f ≠ some (.drive v address kind ack)) →
      (s.endVehicleSlot f).vehicle v = s.vehicle v) := by
  unfold State.endVehicleSlot
  split
  · rename_i w address kind ack
    by_cases hw : (s.vehicle w).valid = true
    · rw [if_pos hw]
      refine ⟨?_, fun _ => rfl⟩
      rintro a ⟨_, _, _, b⟩
      simp only [Option.some.injEq, SlotFlight.drive.injEq] at b
      obtain ⟨rfl, -⟩ := b
      rw [hw] at a
      simp at a
    · rw [if_neg hw, vehicle_setVehicle]
      by_cases e : v = w
      · subst e
        rw [if_pos rfl]
        refine ⟨fun _ _ => rfl, fun h => ?_⟩
        rcases h with h | h
        · exact absurd h hw
        · exact absurd rfl (h address kind ack)
      · rw [if_neg e]
        refine ⟨?_, fun _ => rfl⟩
        rintro - ⟨_, _, _, b⟩
        simp only [Option.some.injEq, SlotFlight.drive.injEq] at b
        exact absurd b.1.symm e
  · rename_i h
    refine ⟨?_, fun _ => rfl⟩
    rintro - ⟨a, k, x, rfl⟩
    exact absurd rfl (h _ _ _ _)

theorem vehiclesLoseChannel_frame (s : State) (c : Channel) (b : Bool) :
    s.vehiclesLoseChannel c b =
      { s with
        vehicles := (s.vehiclesLoseChannel c b).vehicles, convoys := (s.vehiclesLoseChannel c b).convoys
        freeCount := (s.vehiclesLoseChannel c b).freeCount } := by
  unfold State.vehiclesLoseChannel
  obtain ⟨n, ks, h, -⟩ := loseMembers_spec (s.mapVehicles (fun _ x => x.channelLost c b))
    ((indices 64).filter (fun v => (s.vehicle v).losesChannel c))
  rw [h]
  rfl

/-- What a channel that ends its service, or is restarted, leaves before its open poll is reported: its own record is the given
one, the slot f has ended, and its vehicles have lost it (R27, R19, R11). -/
theorem serviceLeft_spec (s t : State) (c : Channel) (u : ChannelUnit) (f : Option SlotFlight) (b : Bool) (m : MgmtQueue)
    (ht : t = (({ s.setChannel c u with mgmt := m } : State).endVehicleSlot f).vehiclesLoseChannel c b) :
    t.channel c = u ∧ (∀ d, d ≠ c → t.channel d = s.channel d) ∧ s.serviceEnds t c b ∧
      (∀ v, (s.vehicle v).valid = false →
        ((∃ address kind ack, f = some (.drive v address kind ack)) → t.vehicle v = (s.vehicle v).reachOff) ∧
        ((∀ address kind ack, f ≠ some (.drive v address kind ack)) → t.vehicle v = s.vehicle v)) ∧
      t =
        { s with
          vehicles := t.vehicles, convoys := t.convoys, channels := t.channels, freeCount := t.freeCount, mgmt := m } := by
  have gen1 (x y : State) (h : x = { y with vehicles := x.vehicles }) (V C n) :
      ({ x with vehicles := V, convoys := C, freeCount := n } : State) =
        { y with vehicles := V, convoys := C, freeCount := n } := by rw [h]
  have h1 : t = { s.setChannel c u with
      vehicles := t.vehicles, convoys := t.convoys, freeCount := t.freeCount, mgmt := m } := by
    have e1 := vehiclesLoseChannel_frame (({ s.setChannel c u with mgmt := m } : State).endVehicleSlot f) c b
    rw [← ht] at e1
    rw [gen1 _ _ (endVehicleSlot_frame _ f)] at e1
    exact e1
  have hch : t.channels = (s.setChannel c u).channels := by rw [h1]
  have hch' (d) : t.channel d = (s.setChannel c u).channel d := by simp only [State.channel, hch]
  have hslot (v) := endVehicleSlot_vehicle ({ s.setChannel c u with mgmt := m } : State) f v
  have hveh (v) : t.vehicle v =
      ((({ s.setChannel c u with mgmt := m } : State).endVehicleSlot f).vehicle v).channelLost c b := by
    rw [ht, vehiclesLoseChannel_vehicle]
  have hoff (v) (hv : (s.vehicle v).valid = false) : ((s.vehicle v).reachOff).valid = false := by
    simpa [Vehicle.reachOff, Vehicle.blankState] using hv
  have hquiet (x : Vehicle) (hx : x.valid = false) : x.channelLost c b = x := by
    simp [Vehicle.channelLost, Vehicle.losesChannel, Vehicle.departsWith, hx]
  have hgone (v) (hv : (s.vehicle v).valid = false) :
      ((∃ address kind ack, f = some (.drive v address kind ack)) ∧
        (({ s.setChannel c u with mgmt := m } : State).endVehicleSlot f).vehicle v = (s.vehicle v).reachOff) ∨
      ((∀ address kind ack, f ≠ some (.drive v address kind ack)) ∧
        (({ s.setChannel c u with mgmt := m } : State).endVehicleSlot f).vehicle v = s.vehicle v) := by
    by_cases h : ∃ address kind ack, f = some (.drive v address kind ack)
    · exact Or.inl ⟨h, (hslot v).1 hv h⟩
    · have h' : ∀ address kind ack, f ≠ some (.drive v address kind ack) := by simpa using h
      exact Or.inr ⟨h', (hslot v).2 (Or.inr h')⟩
  refine ⟨?_, fun d hd => ?_, ?_, fun v hv => ?_, ?_⟩
  · rw [hch', channel_setChannel_same]
  · rw [hch', channel_setChannel_other _ _ _ _ hd]
  · refine serviceEnds_of s (({ s.setChannel c u with mgmt := m } : State).endVehicleSlot f) t c b
      (fun v hv => (hslot v).2 (Or.inl hv)) (fun v hv => ?_) ?_ (by rw [ht]) (by rw [ht])
    · rcases hgone v hv with ⟨-, e⟩ | ⟨-, e⟩ <;> rw [e]
      · exact ⟨hoff v hv, by simp [Vehicle.reachOff, Vehicle.blankState, Vehicle.blank]⟩
      · exact ⟨hv, id⟩
    · have := congrArg State.convoys (endVehicleSlot_frame ({ s.setChannel c u with mgmt := m } : State) f)
      exact this
  · rcases hgone v hv with ⟨h, e⟩ | ⟨h, e⟩ <;> rw [hveh v, e]
    · rw [hquiet _ (hoff v hv)]
      obtain ⟨a, k, x, h⟩ := h
      exact ⟨fun _ => rfl, fun h' => absurd h (h' a k x)⟩
    · rw [hquiet _ hv]
      exact ⟨fun ⟨a, k, x, h'⟩ => absurd h' (h a k x), fun _ => rfl⟩
  · rw [hch]
    exact h1

/-- The effects of leaving SERVING, from the state that the slots and vehicles have left (R27). -/
theorem leaveServing_eq (s t : State) (c : Channel) (old : ChannelUnit)
    (ht : t = ((s.setChannel c (s.channel c).clearSlots).endVehicleSlot old.flight).vehiclesLoseChannel c true) :
    s.leaveServing c old =
      { (if old.ownsDirect then
          (if old.pollOpen then t.pollReport c [] false else (t, [])).1.answerInFlight codeDirectSend { status := .notReady }
        else { state := (if old.pollOpen then t.pollReport c [] false else (t, [])).1 }) with
        latches := [(if old.pollOpen then t.pollReport c [] false else (t, [])).2] } := by
  unfold State.leaveServing
  simp only [← ht]

/-- A head of another code in flight is not answered (R166). -/
theorem answerInFlight_other (s : State) (code : Byte) (a : Answer) (h : s.inFlightCode code = false) :
    s.answerInFlight code a = { state := s } := by
  unfold State.answerInFlight
  split
  · rw [h]; rfl
  · rfl

end Sys2Proof.Machine
end

