-- ==== Sys2Proof/Laws/Lanes.lean ====
section
/-! SUPPORT. What the Lane Arbiter's operations can change, and what a grant does. -/

namespace Sys2Proof.Machine

/-- A grant takes the oldest waiting units, as many as there is room for, and keeps the order of both lists (R129). -/
theorem grantFrom_spec (capacity : Nat) (waiting : List MoveUnit) (holders : List Holder) :
    ∃ k, k ≤ waiting.length ∧
      grantFrom capacity holders waiting =
        ⟨holders ++ (waiting.take k).map (fun u => ⟨u, false⟩), waiting.drop k⟩ ∧
      (k = waiting.length ∨ capacity ≤ holders.length + k) ∧ (k = 0 ∨ holders.length + k ≤ capacity) := by
  induction waiting generalizing holders with
  | nil => exact ⟨0, Nat.le_refl _, by simp [grantFrom], Or.inl rfl, Or.inl rfl⟩
  | cons w ws ih =>
    unfold grantFrom
    split
    · rename_i hlt
      obtain ⟨k, hk, h, ha, hb⟩ := ih (holders ++ [⟨w, false⟩])
      refine ⟨k + 1, Nat.succ_le_succ hk, by rw [h]; simp, ?_, Or.inr ?_⟩
      · rcases ha with ha | ha
        · exact Or.inl (congrArg Nat.succ ha)
        · refine Or.inr ?_
          simp only [List.length_append, List.length_singleton] at ha
          omega
      · rcases hb with hb | hb
        · omega
        · simp only [List.length_append, List.length_singleton] at hb
          omega
    · rename_i hge
      exact ⟨0, Nat.zero_le _, by simp, Or.inr (by omega), Or.inl rfl⟩

/-- An ack changes the lane lists alone, and latches ZONE_OVERFULL alone (R126). -/
theorem laneAck_spec (s : State) (v : VehicleId) :
    (s.laneAck v).1 = { s with lanes := (s.laneAck v).1.lanes } ∧
      (∀ l ∈ (s.laneAck v).2, l.cls = .zoneOverfull) ∧
      ((s.vehicle v).kind = .trailer → s.laneAck v = (s, [])) := by
  unfold State.laneAck
  by_cases hk : (s.vehicle v).kind = .tractor
  · simp only [hk, if_true]
    have h1 : (s.laneEnter (s.unitOf v) v).1 = { s with lanes := (s.laneEnter (s.unitOf v) v).1.lanes } ∧
        ∀ l ∈ (s.laneEnter (s.unitOf v) v).2, l.cls = .zoneOverfull := by
      unfold State.laneEnter
      split
      · refine ⟨rfl, ?_⟩
        dsimp only
        split <;> simp
      · exact ⟨rfl, by simp⟩
    generalize s.laneEnter (s.unitOf v) v = p at h1
    obtain ⟨s1, ls⟩ := p
    have h2 (t : State) : t.laneRelease (s.unitOf v) v = { t with lanes := (t.laneRelease (s.unitOf v) v).lanes } := rfl
    have h3 (t : State) : t.laneWithdraw (s.unitOf v) v = { t with lanes := (t.laneWithdraw (s.unitOf v) v).lanes } := rfl
    have h4 (t : State) : t.laneRequest (s.unitOf v) v = { t with lanes := (t.laneRequest (s.unitOf v) v).lanes } := by
      unfold State.laneRequest
      split
      · split <;> rfl
      · rfl
    have h5 (t : State) : t.laneGrants s.lanes = { t with lanes := (t.laneGrants s.lanes).lanes } := rfl
    refine ⟨?_, h1.2, fun h => absurd h (by decide)⟩
    dsimp only at h1 ⊢
    split
    · rw [h5, h4, h3, h2, h1.1]
    · rw [h5, h2, h1.1]
  · simp only [hk, if_false]
    exact ⟨trivial, by simp, fun _ => trivial⟩

/-! ### An ack, range by range -/

/-- The lists of a range after step 1 of R126. -/
def State.laneEntered (s : State) (u : MoveUnit) (v : VehicleId) (r : RangeId) : Lane :=
  if s.laneRangeOf (s.vehicle v).current = some r then (s.lane r).enterHolder u else s.lane r

/-- The lists after step 2. -/
def State.laneReleased (s : State) (u : MoveUnit) (v : VehicleId) (r : RangeId) : Lane :=
  { s.laneEntered u v r with holders := (s.laneEntered u v r).holders.filter (fun h => !s.releases u v r h) }

/-- The lists after step 3. -/
def State.laneWithdrawn (s : State) (u : MoveUnit) (v : VehicleId) (r : RangeId) : Lane :=
  if s.leadsUnit v = true ∧ (s.laneReleased u v r).waits u = true ∧ s.clearOf v r = true then
    (s.laneReleased u v r).dropWaiting u
  else s.laneReleased u v r

/-- Step 4 puts the unit at the end of the waiting list. -/
def State.laneAsks (s : State) (u : MoveUnit) (v : VehicleId) (r : RangeId) : Bool :=
  s.leadsUnit v && (s.laneRangeOf (s.vehicle v).ahead = some r) && !s.liesIn (s.vehicle v).current r &&
    !(s.laneWithdrawn u v r).holds u && !(s.laneWithdrawn u v r).waits u &&
    (s.crossingReason (s.vehicle v).current (s.vehicle v).ahead (s.controllingClass v)).isNone &&
    (s.laneWithdrawn u v r).waiting.length < 8

/-- The lists after step 4. -/
def State.laneRequested (s : State) (u : MoveUnit) (v : VehicleId) (r : RangeId) : Lane :=
  if s.laneAsks u v r then { s.laneWithdrawn u v r with waiting := (s.laneWithdrawn u v r).waiting ++ [u] }
  else s.laneWithdrawn u v r

/-- The lists of one range after an ack of a tractor: the four steps, and a grant where they have changed the lists (R126,
R129). -/
theorem laneAck_lane (s : State) (v : VehicleId) (hk : (s.vehicle v).kind = .tractor) (r : RangeId) :
    (s.laneAck v).1.lane r =
      if s.lane r = s.laneRequested (s.unitOf v) v r then s.laneRequested (s.unitOf v) v r
      else (s.laneRequested (s.unitOf v) v r).grant (s.laneCapacity r) := by
  have hent : ∃ l1, (s.laneEnter (s.unitOf v) v).1 = { s with lanes := l1 } ∧
      ∀ r, l1[r] = s.laneEntered (s.unitOf v) v r := by
    unfold State.laneEnter State.laneEntered
    cases h : s.laneRangeOf (s.vehicle v).current with
    | none => exact ⟨s.lanes, rfl, fun r => by simp; rfl⟩
    | some q =>
      refine ⟨_, rfl, fun r => ?_⟩
      show (s.setLane q _).lane r = _
      by_cases e : q = r
      · subst e; simp
      · have : r ≠ q := Ne.symm e
        simp only [Option.some.injEq, e, if_false]
        exact lane_setLane_other _ _ _ _ this
  obtain ⟨l1, h1, h1'⟩ := hent
  let s2 := (s.laneEnter (s.unitOf v) v).1.laneRelease (s.unitOf v) v
  have h2 : ∃ l2, s2 = { s with lanes := l2 } ∧ ∀ r, l2[r] = s.laneReleased (s.unitOf v) v r := by
    simp only [s2, h1]
    refine ⟨_, rfl, fun r => ?_⟩
    have := lane_mapLanes_same { s with lanes := l1 }
      (fun r l => { l with
        holders := l.holders.filter (fun h => !State.releases { s with lanes := l1 } (s.unitOf v) v r h) }) r
    refine this.trans ?_
    show ({ l1[r] with holders := l1[r].holders.filter (fun h => !s.releases (s.unitOf v) v r h) } : Lane) = _
    rw [h1']; rfl
  obtain ⟨l2, h2, h2'⟩ := h2
  let s3 := if s.leadsUnit v then s2.laneWithdraw (s.unitOf v) v else s2
  have h3 : ∃ l3, s3 = { s with lanes := l3 } ∧ ∀ r, l3[r] = s.laneWithdrawn (s.unitOf v) v r := by
    simp only [s3, h2]
    by_cases e : s.leadsUnit v = true
    · rw [if_pos e]
      refine ⟨_, rfl, fun r => ?_⟩
      have := lane_mapLanes_same { s with lanes := l2 }
        (fun r l =>
          if l.waits (s.unitOf v) && State.clearOf { s with lanes := l2 } v r then l.dropWaiting (s.unitOf v) else l) r
      refine this.trans ?_
      show (if l2[r].waits (s.unitOf v) && s.clearOf v r then l2[r].dropWaiting (s.unitOf v) else l2[r]) = _
      rw [h2']
      simp [State.laneWithdrawn, e]
    · rw [if_neg e]
      exact ⟨l2, rfl, fun r => by rw [h2']; simp [State.laneWithdrawn, e]⟩
  obtain ⟨l3, h3, h3'⟩ := h3
  let s4 := if s.leadsUnit v then s3.laneRequest (s.unitOf v) v else s3
  have h4 : ∃ l4, s4 = { s with lanes := l4 } ∧ ∀ r, l4[r] = s.laneRequested (s.unitOf v) v r := by
    simp only [s4, h3]
    by_cases e : s.leadsUnit v = true
    · rw [if_pos e]
      unfold State.laneRequest
      rw [show State.laneRangeOf { s with lanes := l3 } (State.vehicle { s with lanes := l3 } v).ahead =
        s.laneRangeOf (s.vehicle v).ahead from rfl]
      cases ha : s.laneRangeOf (s.vehicle v).ahead with
      | none => exact ⟨l3, rfl, fun r => by rw [h3']; simp [State.laneRequested, State.laneAsks, ha]⟩
      | some q =>
        dsimp only
        have hq : (State.requests { s with lanes := l3 } (s.unitOf v) v q &&
            decide ((State.lane { s with lanes := l3 } q).waiting.length < 8)) = s.laneAsks (s.unitOf v) v q := by
          have : State.lane { s with lanes := l3 } q = s.laneWithdrawn (s.unitOf v) v q := h3' q
          unfold State.requests State.laneAsks
          rw [this]
          simp only [e, ha]
          simp
          rfl
        rw [hq]
        by_cases k : s.laneAsks (s.unitOf v) v q = true
        · rw [if_pos k]
          refine ⟨_, rfl, fun r => ?_⟩
          show (State.setLane { s with lanes := l3 } q _).lane r = _
          by_cases e2 : r = q
          · subst e2
            rw [lane_setLane_same]
            have : State.lane { s with lanes := l3 } r = s.laneWithdrawn (s.unitOf v) v r := h3' r
            rw [this]; simp [State.laneRequested, k]
          · rw [lane_setLane_other _ _ _ _ e2]
            refine (h3' r).trans ?_
            simp [State.laneRequested, State.laneAsks, ha, Ne.symm e2]
        · rw [if_neg k]
          refine ⟨l3, rfl, fun r => ?_⟩
          rw [h3']
          by_cases e2 : r = q
          · subst e2; simp [State.laneRequested, k]
          · simp [State.laneRequested, State.laneAsks, ha, Ne.symm e2]
    · rw [if_neg e]
      exact ⟨l3, rfl, fun r => by rw [h3']; simp [State.laneRequested, State.laneAsks, e]⟩
  obtain ⟨l4, h4, h4'⟩ := h4
  have hfin : (s.laneAck v).1 = s4.laneGrants s.lanes := by
    unfold State.laneAck
    rw [if_pos hk]
  rw [hfin, h4]
  refine (lane_mapLanes_same { s with lanes := l4 }
    (fun r l => if s.lanes[r] = l then l else l.grant (State.laneCapacity { s with lanes := l4 } r)) r).trans ?_
  show (if s.lane r = l4[r] then l4[r] else l4[r].grant (s.laneCapacity r)) = _
  rw [h4']

end Sys2Proof.Machine
end

