-- ==== Sys2Proof/Laws/Latches.lean ====
section
/-! SUPPORT. What the latches of one event do to the Fault Unit, whatever order they are taken in (R151, R153, R154). -/

namespace Sys2Proof.Machine

theorem flatten_set_perm (all : List (List Latch)) (k : Nat) (l : Latch) (rest : List Latch)
    (h : all[k]? = some (l :: rest)) : (l :: (all.set k rest).flatten).Perm all.flatten := by
  induction all generalizing k with
  | nil => simp at h
  | cons b bs ih =>
    cases k with
    | zero =>
      simp only [List.getElem?_cons_zero, Option.some.injEq] at h
      subst h
      simp
    | succ k =>
      simp only [List.getElem?_cons_succ] at h
      simp only [List.set_cons_succ, List.flatten_cons]
      exact (List.perm_middle.symm).trans (List.Perm.append_left b (ih k h))

theorem liveBlocks_flatten (blocks : List (List Latch)) : (liveBlocks blocks).flatten = blocks.flatten := by
  induction blocks with
  | nil => rfl
  | cons b bs ih =>
    cases b with
    | nil => simpa [liveBlocks] using ih
    | cons l ls =>
      have : liveBlocks ((l :: ls) :: bs) = (l :: ls) :: liveBlocks bs := rfl
      rw [this, List.flatten_cons, List.flatten_cons, ih]

/-- The order that is chosen takes each latch once. -/
theorem orderLatches_perm (fuel count : Nat) (blocks : List (List Latch)) :
    (orderLatches fuel count blocks).1.Perm blocks.flatten := by
  induction fuel generalizing count blocks with
  | zero => exact List.Perm.refl _
  | succ n ih =>
    rw [← liveBlocks_flatten blocks]
    unfold orderLatches
    split
    · rename_i h; rw [h]; exact List.Perm.refl _
    · rename_i b h; rw [h]; simp
    · rename_i b bs _ h
      dsimp only
      rw [h]
      split
      · rename_i l rest hk
        exact (List.Perm.cons l (ih _ _)).trans (flatten_set_perm _ _ l rest hk)
      · exact List.Perm.refl _

theorem bit_getLsbD (k j : FaultClass) : k.bit.getLsbD j.number.val = decide (j = k) := by
  cases k <;> cases j <;> decide

theorem take_flag (u : FaultUnit) (filter : CaptureFilter) (l : Latch) (k : FaultClass) :
    (u.take filter l).flag k = (u.flag k || decide (k = l.cls)) := by
  show (u.summary ||| l.cls.bit).getLsbD k.number.val = _
  rw [BitVec.getLsbD_or, bit_getLsbD]
  rfl

theorem takeAll_flag (filter : CaptureFilter) (ls : List Latch) (u : FaultUnit) (k : FaultClass) :
    (ls.foldl (fun u l => u.take filter l) u).flag k = (u.flag k || ls.any (fun l => k = l.cls)) := by
  induction ls generalizing u with
  | nil => simp
  | cons l ls ih => rw [List.foldl_cons, ih, take_flag, List.any_cons, Bool.or_assoc]

/-- The end of an event takes its latches, each once, and changes the Fault Unit in no other way. -/
theorem settle_fault (w : Work) :
    ∃ ls : List Latch, ls.Perm w.latches.flatten ∧
      w.settle.fault = ls.foldl (fun u l => u.take w.state.limits.filter l) w.state.fault := by
  refine ⟨_, orderLatches_perm w.latches.flatten.length w.state.freeCount w.latches, ?_⟩
  unfold Work.settle
  dsimp only
  rw [takeLatches_state]
  obtain ⟨q, n, h, -⟩ := emit_spec
    { w.state with
      freeCount := (orderLatches w.latches.flatten.length w.state.freeCount w.latches).2
      fault := (orderLatches w.latches.flatten.length w.state.freeCount w.latches).1.foldl
        (fun u l => u.take w.state.limits.filter l) w.state.fault }
    w.reply
    (takeLatches (orderLatches w.latches.flatten.length w.state.freeCount w.latches).1
      { w.state with freeCount := (orderLatches w.latches.flatten.length w.state.freeCount w.latches).2 }).2
  exact congrArg State.fault h

/-- A summary flag after an event: set before, or set by a latch of the event (R153). -/
theorem settle_flag (w : Work) (k : FaultClass) :
    w.settle.fault.flag k = (w.state.fault.flag k || w.latches.flatten.any (fun l => k = l.cls)) := by
  obtain ⟨ls, hp, h⟩ := settle_fault w
  rw [h, takeAll_flag]
  congr 1
  rw [Bool.eq_iff_iff, List.any_eq_true, List.any_eq_true]
  exact ⟨fun ⟨l, hl, e⟩ => ⟨l, hp.mem_iff.mp hl, e⟩, fun ⟨l, hl, e⟩ => ⟨l, hp.mem_iff.mpr hl, e⟩⟩

end Sys2Proof.Machine
end

