-- ==== Sys2Proof/Laws/Wire.lean ====
section
/-! SUPPORT. What the byte layouts and codes of chapter 12 mean as numbers. -/

namespace Sys2Proof.Machine

theorem halfOf_toNat (h l : Byte) : (halfOf h l).toNat = h.toNat * 256 + l.toNat := by
  have := l.isLt
  rw [halfOf, BitVec.toNat_append, ← Nat.shiftLeft_add_eq_or_of_lt this, Nat.shiftLeft_eq]

theorem halfOf_eq (h l : Byte) : halfOf h l = BitVec.ofNat 16 (h.toNat * 256 + l.toNat) := by
  apply BitVec.eq_of_toNat_eq
  have := h.isLt
  have := l.isLt
  rw [halfOf_toNat, BitVec.toNat_ofNat, Nat.mod_eq_of_lt (by omega)]

theorem twoBytes_eq (h : Half) : twoBytes h = [BitVec.ofNat 8 (h.toNat / 256), BitVec.ofNat 8 h.toNat] := by
  have hl : h.extractLsb' 8 8 = BitVec.ofNat 8 (h.toNat / 256) := by
    apply BitVec.eq_of_toNat_eq
    simp [BitVec.extractLsb'_toNat, Nat.shiftRight_eq_div_pow]
  have hr : h.setWidth 8 = BitVec.ofNat 8 h.toNat := by
    apply BitVec.eq_of_toNat_eq
    simp
  rw [twoBytes, hl, hr]

/-- A two-byte value is read back from its bytes (R178). -/
theorem halfOf_twoBytes (h : Half) : halfOf (h.extractLsb' 8 8) (h.setWidth 8) = h := by
  apply BitVec.eq_of_toNat_eq
  have := h.isLt
  rw [halfOf_toNat]
  simp [BitVec.extractLsb'_toNat, Nat.shiftRight_eq_div_pow]
  omega

theorem low_bits_toNat (b : Byte) (k : Nat) : (b >>> k &&& 3).toNat = b.toNat / 2 ^ k % 4 := by
  simp only [BitVec.toNat_and, BitVec.toNat_ushiftRight, Nat.shiftRight_eq_div_pow]
  exact Nat.and_two_pow_sub_one_eq_mod _ 2

theorem groupOfGroupByte_eq (g : Byte) : groupOfGroupByte g = g.toNat % 4 := by
  simp only [groupOfGroupByte, BitVec.toNat_and]
  exact Nat.and_two_pow_sub_one_eq_mod _ 2

theorem turnOfGroupByte_eq (g : Byte) :
    turnOfGroupByte g = if g.toNat / 4 % 4 = 1 then .left else if g.toNat / 4 % 4 = 2 then .right else .ahead := by
  unfold turnOfGroupByte
  rw [low_bits_toNat]
  have : g.toNat / 2 ^ 2 % 4 < 4 := Nat.mod_lt _ (by decide)
  rw [show g.toNat / 4 % 4 = g.toNat / 2 ^ 2 % 4 from rfl]
  generalize g.toNat / 2 ^ 2 % 4 = n at *
  match n with
  | 0 => rfl
  | 1 => rfl
  | 2 => rfl
  | 3 => rfl

/-- A segment is read back from its bytes (R178). -/
theorem segmentOf_bytes (g : Option Segment) :
    ∃ h l, segmentBytes g = [h, l] ∧ segmentOf h l = some g := by
  cases g with
  | none => exact ⟨255, 255, rfl, rfl⟩
  | some g =>
    refine ⟨_, _, rfl, ?_⟩
    unfold segmentOf
    have hg := g.isLt
    rw [halfOf_twoBytes, BitVec.toNat_ofNat, Nat.mod_eq_of_lt (by omega)]
    simp

theorem linkFrame_body_length (f : LinkFrame) : f.body.length = f.payload.length + 4 := by
  simp [LinkFrame.body]

theorem twoBytes_length (h : Half) : (twoBytes h).length = 2 := rfl

theorem segmentBytes_length (g : Option Segment) : (segmentBytes g).length = 2 := by
  cases g <;> rfl

theorem byteOf_toNat (n : Nat) (h : n < 256) : (byteOf n).toNat = n := by
  simp [byteOf, Nat.mod_eq_of_lt h]

theorem channelOf_code (c : Channel) : channelOf (channelCode c) = some c := by
  cases c <;> decide

theorem channelOf_some (b : Byte) (c : Channel) : channelOf b = some c ↔ b = channelCode c := by
  constructor
  · intro h
    have := List.find?_some h
    simpa using (of_decide_eq_true this).symm
  · rintro rfl; exact channelOf_code c

theorem channelOf_none (b : Byte) : channelOf b = none ↔ 4 ≤ b.toNat := by
  constructor
  · intro h
    by_contra hc
    have : b.toNat = 0 ∨ b.toNat = 1 ∨ b.toNat = 2 ∨ b.toNat = 3 := by omega
    simp only [channelOf, List.find?_eq_none, allChannels] at h
    rcases this with e | e | e | e
    · exact h .A (by simp) (by simp [channelCode, channelIndex, byteOf, BitVec.toNat_eq, e])
    · exact h .B (by simp) (by simp [channelCode, channelIndex, byteOf, BitVec.toNat_eq, e])
    · exact h .C (by simp) (by simp [channelCode, channelIndex, byteOf, BitVec.toNat_eq, e])
    · exact h .D (by simp) (by simp [channelCode, channelIndex, byteOf, BitVec.toNat_eq, e])
  · intro h
    simp only [channelOf, List.find?_eq_none]
    intro c _ hc
    have := of_decide_eq_true hc
    subst this
    revert h
    cases c <;> decide

theorem summaryBytes_eq (x : BitVec 14) : summaryBytes x = [BitVec.ofNat 8 (x.toNat / 256), BitVec.ofNat 8 x.toNat] := by
  have := x.isLt
  rw [summaryBytes, twoBytes_eq, BitVec.toNat_setWidth, Nat.mod_eq_of_lt (by omega)]

theorem halfOf_bit (h l : Byte) (k : Nat) (hk : k < 16) :
    (halfOf h l).getLsbD k = (h.toNat * 256 + l.toNat).testBit k := by
  rw [halfOf_eq, BitVec.getLsbD_ofNat]
  simp [hk]

/-! ### Received frames (R163, R179) -/

/-- A frame of the class is taken whole. -/
theorem ofClass_parsed {bytes : List Byte} {f : LinkFrame} (h : LinkFrame.parse bytes = some f) :
    LinkFrame.ofClass f.cls bytes = some f := by
  simp [LinkFrame.ofClass, h, Option.filter]

/-- A frame of another class is not taken. -/
theorem ofClass_other {bytes : List Byte} {f : LinkFrame} {cls : Byte} (h : LinkFrame.parse bytes = some f)
    (hc : f.cls ≠ cls) : LinkFrame.ofClass cls bytes = none := by
  simp [LinkFrame.ofClass, h, Option.filter, hc]

/-- Bytes that fail their frame check are a frame of no class. -/
theorem ofClass_failed {bytes : List Byte} (h : LinkFrame.parse bytes = none) (cls : Byte) :
    LinkFrame.ofClass cls bytes = none := by
  simp [LinkFrame.ofClass, h]

/-- DRIVE, AUX and MGMT at a frame of their class (R163). -/
theorem exec_received {header : LinkHeader} {received payload : List Byte} {check : Half} {destination source cls : Byte}
    (s : State) (h : LinkFrame.parse (linkBytes header received check) = some ⟨destination, source, cls, payload⟩) :
    (cls = 1 → exec (.drive header received check) s = .next (s.receiveDrive destination source payload)) ∧
      (cls = 2 → exec (.aux header received check) s = .next (s.receiveAux destination source payload)) ∧
      (cls = 3 → exec (.mgmt header received check) s = .next (s.receiveMgmt destination source payload)) := by
  have hc := ofClass_parsed h
  refine ⟨fun e => ?_, fun e => ?_, fun e => ?_⟩ <;> subst e
  · show execDrive header received check s = _
    unfold execDrive
    rw [show classDrive = (1 : Byte) from rfl, hc]
  · show execAux header received check s = _
    unfold execAux
    rw [show classAux = (2 : Byte) from rfl, hc]
  · show execMgmt header received check s = _
    unfold execMgmt
    rw [show classMgmt = (3 : Byte) from rfl, hc]

/-- DRIVE, AUX and MGMT at a frame of another class, or at bytes that fail their frame check: nothing (R163, assumption 4). -/
theorem exec_notReceived (header : LinkHeader) (received : List Byte) (check : Half) (s : State) :
    (LinkFrame.ofClass 1 (linkBytes header received check) = none → exec (.drive header received check) s = .next s) ∧
      (LinkFrame.ofClass 2 (linkBytes header received check) = none → exec (.aux header received check) s = .next s) ∧
      (LinkFrame.ofClass 3 (linkBytes header received check) = none → exec (.mgmt header received check) s = .next s) := by
  refine ⟨fun e => ?_, fun e => ?_, fun e => ?_⟩
  · show execDrive header received check s = _
    unfold execDrive
    rw [show classDrive = (1 : Byte) from rfl, e]
  · show execAux header received check s = _
    unfold execAux
    rw [show classAux = (2 : Byte) from rfl, e]
  · show execMgmt header received check s = _
    unfold execMgmt
    rw [show classMgmt = (3 : Byte) from rfl, e]

end Sys2Proof.Machine
end

