-- ==== Sys2Proof/Laws/Write.lean ====
section
/-! SUPPORT. What a WRITE can change, a WRITE of one entry, from what its judge answers (R171), and the ranges of what it
stores (R3). -/

namespace Sys2Proof.Machine

/-- The form of a WRITE of one entry is met. -/
theorem writeForm_one (table index : Byte) (size : Nat) (bytes : List Byte) (h : bytes.length = size) :
    writeForm table size (table :: index :: 1 :: bytes) = some (index.toNat, [bytes]) := by
  simp [writeForm, splitEntries, h, List.take_of_length_le]

/-- A WRITE of one entry, whole: its judge's state, its reply, and the start that is judged where the entry makes one due. -/
theorem writeStep_one {s : State} {source tag table index : Byte} {bytes : List Byte} {rest : List MgmtEntry}
    (size : Nat) (judge : EntryJudge) (h : s.hasHead source codeWrite tag (table :: index :: 1 :: bytes) rest)
    (hs : bytes.length = size) :
    writeStep table size judge s =
      (Done.finish ⟨source, codeWrite :: tag :: table :: index :: 1 :: bytes, false⟩
        { state := (Written.mk (judge index.toNat bytes s).state [] (judge index.toNat bytes s).startDue).ended.1
          answer := writeAnswer [(judge index.toNat bytes s).status]
          latches :=
            (Written.mk (judge index.toNat bytes s).state [] (judge index.toNat bytes s).startDue).ended.2 }).settle := by
  unfold writeStep
  rw [hasHead_ready h]
  simp only [writeIsFor, runWrite, writeForm_one table index size bytes hs, writeEntries, decide_true, Bool.true_or,
    if_true, Bool.or_false, Written.ended]

/-- A WRITE of one entry that makes no start due, as a step's outcome. -/
theorem writeStep_quiet {s t : State} {source tag table index : Byte} {bytes : List Byte} {rest : List MgmtEntry}
    {st : EntryStatus} (size : Nat) (judge : EntryJudge)
    (h : s.hasHead source codeWrite tag (table :: index :: 1 :: bytes) rest) (hs : bytes.length = size)
    (hj : judge index.toNat bytes s = { state := t, status := st }) (hm : t.mgmt = s.mgmt) :
    (.next (writeStep table size judge s) : Result) =
      .next (t.answered source rest
        ([3, tag, (writeAnswer [st]).status.code, (writeAnswer [st]).reason.code] ++ (writeAnswer [st]).data)) := by
  rw [writeStep_one size judge h hs, hj]
  simp only [Written.ended, Bool.false_eq_true, if_false]
  rw [finish_settle _ _ rfl rfl]
  exact congrArg _ (pop_answered t s h hm _)

/-! ### What a WRITE can change -/

/-- What every entry leaves alone, a WRITE leaves alone. -/
theorem writeEntries_keeps {α : Type} (f : State → α) (judge : EntryJudge) (h : ∀ i bytes s, f (judge i bytes s).state = f s)
    (index : Nat) (entries : List (List Byte)) (s : State) : f (writeEntries judge index entries s).state = f s := by
  induction entries generalizing index s with
  | nil => rfl
  | cons e es ih => exact (ih (index + 1) _).trans (h index e s)

/-- Where no entry makes a start due, none is due after the WRITE. -/
theorem writeEntries_startDue (judge : EntryJudge) (h : ∀ i bytes s, (judge i bytes s).startDue = false) (index : Nat)
    (entries : List (List Byte)) (s : State) : (writeEntries judge index entries s).startDue = false := by
  induction entries generalizing index s with
  | nil => rfl
  | cons e es ih =>
    show ((judge index e s).startDue || (writeEntries judge (index + 1) es _).startDue) = false
    rw [h, ih]
    rfl

/-- The end of a WRITE changes the identifier and polls alone, and its latches are COUPLE_UNRESOLVED (R143, R146). -/
theorem ended_spec (w : Written) : OnlyPolls w.state w.ended.1 ∧ ∀ l ∈ w.ended.2, l.cls = .coupleUnresolved := by
  unfold Written.ended
  split
  · exact judgeStart_spec w.state
  · exact ⟨onlyPolls_refl _, by simp⟩

/-- The end of a WRITE that makes a start due, and of one that does not. -/
theorem ended_judged (w : Written) :
    (w.startDue = true → w.state.startJudged w.ended.1 w.ended.2) ∧
      (w.startDue = false → w.ended = (w.state, [])) := by
  unfold Written.ended
  refine ⟨fun h => ?_, fun h => by rw [h]; rfl⟩
  rw [h]
  exact judgeStart_judged w.state

/-- The dissolving of the attachments that name a vehicle changes attachments alone (R149). -/
theorem dissolveNaming_vehicle (s : State) (v w : VehicleId) :
    (s.dissolveNaming v).vehicle w =
      if w = v ∨ s.behind v = some w then { s.vehicle w with attachedBehind := none } else s.vehicle w := by
  unfold State.dissolveNaming
  cases h : s.behind v with
  | none =>
    simp only [State.detach, vehicle_setVehicle]
    by_cases e : w = v
    · subst e; simp
    · simp [e]
  | some x =>
    simp only [State.detach, vehicle_setVehicle]
    by_cases e : w = v
    · subst e
      by_cases e2 : w = x
      · subst e2; simp
      · simp [e2]
    · by_cases e2 : w = x
      · subst e2; simp [e]
      · simp [e, e2, Ne.symm e2]

theorem dissolveNaming_frame (s : State) (v : VehicleId) :
    s.dissolveNaming v = { s with vehicles := (s.dissolveNaming v).vehicles } := by
  unfold State.dissolveNaming
  cases s.behind v <;> rfl

/-- An invalidation changes vehicles, lane lists, the identifier and polls alone (R13, R149). -/
theorem invalidate_frame (s : State) (v : VehicleId) (cfg : VehicleConfig) :
    s.invalidate v cfg =
      { s with
        vehicles := (s.invalidate v cfg).vehicles, lanes := (s.invalidate v cfg).lanes
        coupler := (s.invalidate v cfg).coupler, channels := (s.invalidate v cfg).channels } := by
  unfold State.invalidate
  dsimp only
  generalize hs : ((s.dissolveNaming v).setVehicle v _).withdrawEverywhere (.vehicle v) = s1
  rw [(cancelEntry_spec s1 v).1, ← hs, dissolveNaming_frame]
  rfl

/-- A vehicle entry changes vehicles, lane lists, the identifier and polls alone (R5, R171). -/
theorem judgeVehicle_frame (index : Nat) (bytes : List Byte) (s : State) :
    (judgeVehicle index bytes s).state =
      { s with
        vehicles := (judgeVehicle index bytes s).state.vehicles, lanes := (judgeVehicle index bytes s).state.lanes
        coupler := (judgeVehicle index bytes s).state.coupler, channels := (judgeVehicle index bytes s).state.channels } := by
  unfold judgeVehicle
  split
  · split
    · rfl
    · split
      · rfl
      · unfold State.applyVehicle
        dsimp only
        split
        · rfl
        · split
          · exact invalidate_frame s _ _
          · rfl
  · rfl

/-- A vehicle entry makes a start due exactly where it invalidates a vehicle (R13, R143, R149). -/
theorem judgeVehicle_startDue (index : Nat) (bytes : List Byte) (s : State) :
    (judgeVehicle index bytes s).startDue = true ↔
      ∃ (h : index < 64) (cfg : VehicleConfig) (clamped : Bool), vehicleConfigOf bytes = some (cfg, clamped) ∧
        cfg.valid = false ∧ (s.vehicle ⟨index, h⟩).valid = true ∧ s.vehicleRefusal ⟨index, h⟩ cfg = none := by
  unfold judgeVehicle
  split
  · rename_i h
    split
    · rename_i hc; simp [hc]
    · rename_i cfg clamped hc
      split
      · rename_i r hr; simp [hc, hr]
      · rename_i hr; simp [hc, hr, h]
  · rename_i h
    simp [h]

/-- An entry of any other table makes no start due. -/
theorem judgeOthers_startDue (index : Nat) (bytes : List Byte) (s : State) :
    (judgeBinding index bytes s).startDue = false ∧ (judgeZone index bytes s).startDue = false ∧
      (judgeLimits index bytes s).startDue = false := by
  refine ⟨?_, ?_, ?_⟩
  · unfold judgeBinding; split <;> (try split) <;> (try split) <;> (try split) <;> rfl
  · unfold judgeZone; split <;> (try split) <;> (try split) <;> rfl
  · unfold judgeLimits; split <;> (try split) <;> rfl

/-- A binding entry changes bindings alone (R47, R48). -/
theorem judgeBinding_frame (index : Nat) (bytes : List Byte) (s : State) :
    (judgeBinding index bytes s).state = { s with bindings := (judgeBinding index bytes s).state.bindings } := by
  unfold judgeBinding
  split
  · split
    · split
      · rfl
      · split <;> rfl
    · rfl
  · rfl

/-- A zone entry changes its range and that range's lists alone (R115, R117). -/
theorem judgeZone_frame (index : Nat) (bytes : List Byte) (s : State) :
    (judgeZone index bytes s).state =
      { s with zones := (judgeZone index bytes s).state.zones, lanes := (judgeZone index bytes s).state.lanes } := by
  unfold judgeZone
  split
  · split
    · rfl
    · split
      · rfl
      · unfold State.applyZone
        dsimp only
        split <;> rfl
  · rfl

/-- A LIMITS entry changes LIMITS alone (R172). -/
theorem judgeLimits_frame (index : Nat) (bytes : List Byte) (s : State) :
    (judgeLimits index bytes s).state = { s with limits := (judgeLimits index bytes s).state.limits } := by
  unfold judgeLimits
  split
  · split <;> rfl
  · rfl

/-! ### The ranges of a vehicle's configuration (R3, R6) -/

theorem clampNat_range (lo hi x : Nat) (h : lo ≤ hi) : lo ≤ clampNat lo hi x ∧ clampNat lo hi x ≤ hi := by
  unfold clampNat
  omega

theorem clampInt_range (lo hi x : Int) (h : lo ≤ hi) : lo ≤ clampInt lo hi x ∧ clampInt lo hi x ≤ hi := by
  unfold clampInt
  omega

theorem address_range {b : Byte} (h : ¬(b = 0 ∨ b = 255)) : 1 ≤ b.toNat ∧ b.toNat ≤ 254 := by
  simp only [← BitVec.toNat_inj, show (0 : Byte).toNat = 0 from rfl, show (255 : Byte).toNat = 255 from rfl] at h
  omega

/-- An assignment that is read is in the ranges of R3. -/
theorem assignmentOf_range {channel period divisor phase : Byte} {pattern : Half} {a : Assignment}
    (h : assignmentOf channel period divisor phase pattern = some a) : a.inRange := by
  unfold assignmentOf at h
  split at h
  · dsimp only at h
    split at h
    · rename_i hc
      obtain ⟨h1, h2, h3, h4, -⟩ := hc
      obtain rfl := (Option.some.inj h).symm
      refine ⟨h1, h2, fun k hk hp => ?_, ?_, h4⟩
      · have : (2 ^ period.toNat - 1).testBit k = false := by
          rw [Nat.testBit_two_pow_sub_one]
          simpa using hp
        simp [BitVec.getLsbD_ofNat, this]
      · rcases h3 with rfl | rfl | rfl <;> simp
    · simp at h
  · simp at h

/-- The written configuration of a vehicle is in the ranges of R3. -/
theorem vehicleConfigOf_range {bytes : List Byte} {cfg : VehicleConfig} {clamped : Bool}
    (h : vehicleConfigOf bytes = some (cfg, clamped)) (x : Vehicle) :
    cfg.assignment.inRange ∧ (x.active.inRange → (∀ a ∈ x.staged, a.inRange) → (x.withFields cfg).configSound) := by
  unfold vehicleConfigOf at h
  split at h
  · split at h
    · rename_i k a hk ha
      have hr := assignmentOf_range ha
      split at h
      · simp at h
      · rename_i hz
        simp only [Option.some.injEq, Prod.mk.injEq] at h
        obtain ⟨rfl, -⟩ := h
        refine ⟨hr, fun h1 h2 => ⟨h1, h2, ?_, ?_, ?_⟩⟩
        · exact (address_range hz).1
        · exact (address_range hz).2
        · exact ⟨(clampNat_range 1 32 _ (by decide)).1, (clampNat_range 1 32 _ (by decide)).2,
            (clampNat_range 1 64 _ (by decide)).1, (clampNat_range 1 64 _ (by decide)).2,
            (clampNat_range 1 15 _ (by decide)).1, (clampNat_range 1 15 _ (by decide)).2,
            (clampNat_range 200 500 _ (by decide)).1, (clampNat_range 200 500 _ (by decide)).2,
            (clampInt_range (-64) 63 _ (by decide)).1, (clampInt_range (-64) 63 _ (by decide)).2⟩
    · simp at h
  · simp at h

/-- An accepted entry leaves a configuration in the ranges of R3, whatever it does with the assignment (R9, R10, R13). -/
theorem written_range {bytes : List Byte} {cfg : VehicleConfig} {clamped : Bool}
    (h : vehicleConfigOf bytes = some (cfg, clamped)) (x : Vehicle) (hx : x.configSound) (serving : Bool) :
    (x.validate cfg).configSound ∧ (x.withConfig cfg).configSound ∧ (x.rewrite cfg serving).configSound := by
  obtain ⟨ha, hf⟩ := vehicleConfigOf_range h x
  have hc := hf hx.1 hx.2.1
  have hw : (x.withConfig cfg).configSound := ⟨ha, hx.2.1, hc.2.2⟩
  refine ⟨⟨ha, by simp [Vehicle.validate, Vehicle.blankState, Vehicle.blank], hc.2.2⟩, hw, ?_⟩
  unfold Vehicle.rewrite
  dsimp only
  split
  · exact ⟨hc.1, by simpa using ha, hc.2.2⟩
  · split
    · exact ⟨hc.1, by simp, hc.2.2⟩
    · exact ⟨hc.1, by simpa using ha, hc.2.2⟩

/-- A cycle start keeps the configuration in the ranges of R3 (R11, R12, R15). -/
theorem cycleStart_range (x : Vehicle) (c : Channel) (hx : x.configSound) : (x.cycleStart c).configSound := by
  have hs := hx.2.1
  have ha (y : Vehicle) (hy : y.configSound) : (y.acquireAt c).configSound := by
    unfold Vehicle.acquireAt
    split
    · exact hy
    · exact hy
  unfold Vehicle.cycleStart
  split
  · refine ha _ ?_
    unfold Vehicle.stagingAt
    split
    · rename_i a e
      have harr : (x.arrive a).configSound := by
        unfold Vehicle.arrive
        split <;> exact ⟨hs a e, by simp, hx.2.2⟩
      split
      · split
        · exact harr
        · exact hx
      · split
        · split
          · exact harr
          · exact hx
        · exact hx
    · exact hx
  · exact hx

end Sys2Proof.Machine
end

