-- ==== Sys2Proof/Tests/Slice0.lean ====
section
/-! SUPPORT. Small tests against the manual's own worked figures, and a witness for the hypotheses of every statement. -/

namespace Sys2Proof.Tests

open Sys2Proof Sys2Proof.Machine

/-! ## Helpers -/

/-- The state a command leads to. -/
def after (i : Instr) (s : State) : Option State :=
  match exec i s with
  | .next t => some t
  | .fault _ => none
  | .refused _ => none

/-- A state with one whole command at the head of the Management Queue, from controller 7 with tag 5. -/
def withHead (s : State) (code : Byte) (args : List Byte) : State :=
  { s with mgmt := ⟨[⟨7, code :: 5 :: args, false⟩], false⟩ }

/-- A state whose head is in flight. -/
def withFlying (s : State) (code : Byte) (args : List Byte) : State :=
  { s with mgmt := ⟨[⟨7, code :: 5 :: args, false⟩], true⟩ }

/-- The payload of the last frame of the output queue after a command. -/
def answerOf (i : Instr) (s : State) : Option (List Byte) := (after i s).bind (fun t => t.link.queue.getLast?.map LinkFrame.payload)

/-- An ONLINE tractor in slot 1 of every cycle of channel A, with radio address 12. -/
def tractor : Vehicle :=
  { Vehicle.blank with valid := true, link := .online, active := ⟨.A, 16, 2, 1, 0⟩, address := 12, accelUp := 8 }

/-- An ONLINE trailer in slot 2 of channel A, with radio address 13, its kingpin locked. -/
def trailer : Vehicle :=
  { Vehicle.blank with
    valid := true, kind := .trailer, link := .online, active := ⟨.A, 16, 4, 1, 0⟩, address := 13, kingpin := true }

/-- V0 is the tractor, V1 the trailer. -/
def road : State := (State.reset.setVehicle 0 tractor).setVehicle 1 trailer

/-- The road with channel A changed. -/
def channelA (f : ChannelUnit → ChannelUnit) : State := road.setChannel .A (f (road.channel .A))

/-- The road with channel A SERVING. -/
def serving : State := channelA (fun u => { u with state := .serving, limit := none })

/-- V0 is the only member of a convoy C0 in a state. -/
def convoyOfOne (k : ConvoyState) : State :=
  (road.setVehicle 0 { tractor with convoy := some 0 }).setConvoy 0 ⟨k, [⟨0, 1, 1, .absent, 0⟩], [], none, none⟩

/-- V0, V2 and V3 are the members of a convoy C0 in a state. -/
def convoyOfThree (k : ConvoyState) : State :=
  (((road.setVehicle 0 { tractor with convoy := some 0 }).setVehicle 2
    { tractor with convoy := some 0, active := ⟨.B, 16, 2, 1, 0⟩ }).setVehicle 3
    { tractor with convoy := some 0, active := ⟨.C, 16, 2, 1, 0⟩ }).setConvoy 0
    ⟨k, [⟨0, 1, 1, .absent, 1⟩, ⟨2, 1, 4, .unknown, 1⟩, ⟨3, 1, 4, .unknown, 0⟩], [⟨100, .left⟩], none, none⟩

/-- Z0 is a single-lane range of segments 10 to 20, capacity 1. -/
def oneLane : State := road.setZone 0 ⟨true, 10, 20, ⟨60, true, true, false, false, 1⟩⟩

/-- A state when the time counter has a value. -/
def atTime (t : Time) (s : State) : State := { s with fault := { s.fault with time := t } }

/-! ## WellFormed -/

theorem test_slotZeroIsNoDriveSlot : (Instr.frameBuild .A 0).wellFormed = false := by decide
/-- Frames of 129 bytes are ill-formed (R160); one of 128 is not. -/
theorem test_illFormedOperandsAreRefused :
    ((Instr.drive ⟨8, 16, 1, 129⟩ (List.replicate 129 0) 0).wellFormed = false) ∧
    ((Instr.aux ⟨8, 16, 2, 129⟩ (List.replicate 129 0) 0).wellFormed = false) ∧
    ((Instr.mgmt ⟨8, 7, 3, 129⟩ (List.replicate 129 0) 0).wellFormed = false) ∧
    ((Instr.mgmt ⟨8, 7, 3, 128⟩ (List.replicate 128 0) 0).wellFormed = true) := by
  decide +kernel

/-- No word spells a command: the table gives no bits. -/
theorem test_noWordSpellsACommand : ∀ n w, decodeTableWord n w = none := fun _ _ => rfl

/-! ## Frames (R179, R181) -/

/-- The worked drive frame of chapter 12: radio address 12, pulse 1471, AHEAD, no aux flags. -/
theorem test_driveFrameBytes :
    (RadioFrame.drive 12 (BitVec.ofInt 16 (pulseValue (-8) 300 (-10))) Turn.ahead.code 0).body = [1, 12, 5, 191, 0, 0, 0] := by
  decide

/-- A changed bit fails the frame check of a radio and of a link frame (R179, R181); a whole link frame is read back. -/
theorem test_frameChecks :
    (RadioFrame.parse ((RadioFrame.drive 12 1471 0 0).encode.set 3 190) = none) ∧
    (LinkFrame.parse ((LinkFrame.mk 8 7 3 [0, 5]).encode.set 5 4) = none) ∧
    (LinkFrame.parse (LinkFrame.mk 8 7 3 [0, 5]).encode = some ⟨8, 7, 3, [0, 5]⟩) := by
  decide +kernel

/-! ## Speed shaping (chapter 4's worked cases) -/

theorem test_workedCase1 :
    gapFactor 96 (.known 1) 2 4 = 10 ∧ applyGap 96 10 = 60 ∧ applyLoad 60 5 = 41 ∧
      rampSpeed 41 30 8 64 1 .forward 0 = 38 ∧ applyCaps 38 (forwardCap 35 none false) (backwardCap 35 48 none) = 35 ∧
      pulseValue 35 400 6 = 1616 := by decide

theorem test_workedCase2 :
    applyLoad (applyGap 72 (gapFactor 72 (.known 3) 2 4)) 1 = 67 ∧
      applyLoad (applyGap 72 (gapFactor 72 (.known 6) 2 4)) 4 = 67 ∧
      applyLoad (applyGap 72 (gapFactor 72 (.known 1) 3 5)) 0 = 18 ∧
      applyLoad (applyGap 72 (gapFactor 72 .unknown 2 4)) 0 = 72 ∧
      applyLoad (applyGap (-40) (gapFactor (-40) (.known 1) 3 5)) 1 = -37 := by decide

theorem test_workedCase3 :
    rampSpeed (-127) 20 8 12 3 .forward 0 = 8 ∧ rampSpeed (-127) 8 8 12 3 .forward 0 = 0 ∧
      rampSpeed (-127) 0 8 12 3 .forward 1 = 0 ∧ rampSpeed (-127) 0 8 12 3 .forward 3 = -8 ∧
      rampSpeed (-127) (-8) 8 12 3 .reverse 0 = -16 ∧ applyCaps (-56) 100 48 = -48 ∧
      pulseValue 8 300 (-10) = 1509 ∧ pulseValue (-48) 300 (-10) = 1377 := by decide

theorem test_workedCase4 :
    applyCaps (rampSpeed 40 40 8 10 2 .forward 0) (forwardCap 20 none true) (backwardCap 20 48 none) = 0 ∧
      rampSpeed (-30) 0 8 10 2 .forward 2 = -8 ∧ pulseValue (-20) 300 0 = 1453 := by decide

theorem test_workedCase5 :
    pulseValue 127 500 63 = 2000 ∧ pulseValue (-127) 500 (-64) = 1000 ∧ pulseValue 127 200 (-64) = 1636 ∧
      pulseValue 1 200 0 = 1502 ∧ pulseValue (-1) 200 0 = 1498 ∧ pulseValue 64 200 0 = 1601 ∧ applyGap 127 20 = 127 ∧
      applyGap (-127) 16 = -127 ∧ applyLoad 127 6 = 79 ∧ applyLoad (-3) 6 = -1 ∧
      rampSpeed 5 0 32 1 1 .neutral 15 = 5 ∧ rampSpeed 20 60 1 64 1 .forward 0 = 20 := by decide

/-! ## Slots (R30, R31) -/

theorem test_slotSets :
    (Assignment.mk .C 1 1 1 0).slotSet = [1, 2, 3, 4, 5, 6, 7, 8, 9, 10, 11, 12, 13, 14, 15] ∧
      (Assignment.mk .C 3 1 1 0).slotSet = [3, 6, 9, 12, 15] ∧ (Assignment.mk .C 5 20 1 0).slotSet = [2, 4, 7, 9, 12, 14] ∧
      (Assignment.mk .C 8 8 1 0).slotSet = [3, 11] ∧ (Assignment.mk .C 16 1 1 0).slotSet = [] := by decide

theorem test_collisionTable :
    (Assignment.mk .C 16 2 1 0).collides ⟨.C, 16, 2, 4, 3⟩ = true ∧
      (Assignment.mk .C 16 2 2 1).collides ⟨.C, 16, 2, 4, 3⟩ = true ∧
      (Assignment.mk .C 16 2 2 1).collides ⟨.C, 16, 2, 4, 2⟩ = false ∧
      (Assignment.mk .C 16 2 4 0).collides ⟨.C, 16, 2, 4, 2⟩ = false ∧
      (Assignment.mk .C 16 2 2 0).collides ⟨.C, 16, 2, 2, 0⟩ = true ∧
      (Assignment.mk .C 16 2 2 0).collides ⟨.D, 16, 2, 2, 0⟩ = false := by decide

/-! ## Gaps and trails (R91, R104) -/

theorem test_gapsAlongAConvoy :
    gapBetween (some 354) (some 350) = .known 4 ∧ gapBetween (some 350) (some 348) = .known 2 ∧
      gapBetween (some 348) (some 318) = .unknown ∧ gapBetween (some 354) (some 355) = .unknown := by decide

theorem test_passedEntryIsDropped :
    (Convoy.mk .rolling [⟨44, 1, 1, .absent, 2⟩, ⟨45, 1, 4, .unknown, 1⟩, ⟨46, 1, 4, .unknown, 1⟩]
      [⟨404, .left⟩, ⟨456, .right⟩] none none).dropOldest =
      ⟨.rolling, [⟨44, 1, 1, .absent, 1⟩, ⟨45, 1, 4, .unknown, 0⟩, ⟨46, 1, 4, .unknown, 0⟩], [⟨456, .right⟩], none, none⟩ := by
  decide

/-! ## Management commands -/

/-- NOP, STATUS (15 bytes, its counts), READ (two vehicles fit; a blank entry beyond the table), FAULT_READ (13 bytes). -/
theorem test_reads :
    (answerOf .nop (withHead road 0 [1, 2, 3]) = some [0, 5, 0, 0, 1, 2, 3]) ∧
    ((answerOf .status (withHead road 1 [])).map List.length = some 19) ∧
    ((answerOf .status (withHead road 1 [])).map (fun p => (p.drop 4).take 9) = some [8, 0, 0, 0, 0, 0, 2, 2, 0]) ∧
    ((answerOf .read (withHead road 2 [1, 0, 4])).map (fun p => (p.length, (p.drop 4).take 3)) = some (89, [1, 0, 2])) ∧
    ((answerOf .read (withHead road 2 [3, 32, 1])).map (fun p => p.drop 7) =
        some [2, 0, 255, 255, 255, 255, 0, 0, 0, 0, 0, 0]) ∧
    ((answerOf .faultRead (withHead road 48 [])).map List.length = some 17) := by
  decide +kernel

/-- An unknown code, FAULT_CLEAR with and without a set that names classes, STOP_ALL, RESTART. -/
theorem test_managementAnswers :
    (answerOf .unknownCommand (withHead road 50 []) = some [50, 5, 4, 0]) ∧
    (answerOf .faultClear (withHead road 49 [64, 0]) = some [49, 5, 2, 7] ∧
        answerOf .faultClear (withHead road 49 [63, 255]) = some [49, 5, 0, 0]) ∧
    (answerOf .stopAll (withHead road 62 []) = some [62, 5, 0, 0]) ∧
    (answerOf .restart (withHead road 63 []) = some [63, 5, 0, 0]) := by
  decide +kernel

/-- The worked LIMITS write of chapter 11: alerts for classes 3, 6 and 10 are 1096. -/
def limitsEntryBytes : List Byte := [200, 20, 16, 100, 3, 9, 1, 155, 3, 2, 4, 72, 1]

/-- The worked LIMITS write of chapter 11, and its entry sent beyond the table. -/
theorem test_workedLimitsWrite :
    (((after .limitsWrite (withHead road 3 ([6, 0, 1] ++ limitsEntryBytes))).map State.limits) =
          some ⟨127, 20, 16, 100, 750, 2, 155, 3, 2, 1096, .severe⟩ ∧
        answerOf .limitsWrite (withHead road 3 ([6, 0, 1] ++ limitsEntryBytes)) = some [3, 5, 0, 0, 1, 0]) ∧
    (answerOf .limitsWrite (withHead road 3 ([6, 1, 1] ++ limitsEntryBytes)) = some [3, 5, 2, 1, 2, 0]) := by
  decide +kernel

/-- A vehicle entry: valid, tractor, channel C, an address, P, a two-byte pattern, d, a phase, and the shaping fields. -/
def vehicleBytes (address period high low divisor phase : Byte) : List Byte :=
  [1, 0, 2, address, period, high, low, divisor, phase, 8, 12, 3, 1, 44, 246, 0]

/-- The worked filling of channel C in chapter 2: V20 to V22, and V23's first refused try. -/
theorem test_fillingChannelC :
    (answerOf .vehicleWrite (withHead State.reset 3 ([1, 20, 4] ++ vehicleBytes 1 8 0 2 1 0 ++ vehicleBytes 2 8 0 4 2 0 ++
          vehicleBytes 3 8 0 4 2 1 ++ vehicleBytes 4 16 4 0 4 2)) =
        some [3, 5, 1, 0, 0, 0, 0, 0, 0, 0, 3, 6]) := by
  decide +kernel

/-- A written vehicle waits with its span 300 and trim −10; a binding and a zone range are stored, the zone's cap clamped. -/
theorem test_writes :
    (((after .vehicleWrite (withHead State.reset 3 ([1, 20, 1] ++ vehicleBytes 1 8 0 2 1 0))).map
        (fun t => ((t.vehicle 20).valid, (t.vehicle 20).link, (t.vehicle 20).span, (t.vehicle 20).trim))) =
        some (true, .waiting, 300, -10)) ∧
    (((after .bindingWrite (withHead road 3 [0, 31, 1, 1, 63, 3, 1, 1, 0, 0, 0, 0, 0, 0, 0])).map (fun t => t.binding 31)) =
        some ⟨.disarmed, some ⟨63, 3, .marshal, .vehicle 0⟩, 0, .ahead, 0, none⟩) ∧
    (((after .zoneWrite (withHead road 3 [3, 31, 1, 1, 0, 10, 0, 20, 200, 1, 0, 0, 1, 2])).map
        (fun t => (t.zone 31, t.link.queue.map LinkFrame.payload))) =
        some (⟨true, 10, 20, ⟨127, true, false, false, true, 2⟩⟩, [[3, 5, 0, 0, 1, 0]])) := by
  decide +kernel

/-- CONVOY_FORM, its refusal of a trailer, CONVOY_ADD's band, and a new lead's trail (R84, R85, R87). -/
theorem test_convoysFormAndGrow :
    (((after .convoyForm (withHead road 16 [11, 0])).map (fun t => ((t.convoy 11).state, (t.vehicle 0).convoy))) =
        some (.forming, some 11)) ∧
    (answerOf .convoyForm (withHead road 16 [11, 1]) = some [16, 5, 2, 7]) ∧
    (((after .convoyAdd (withHead ((convoyOfOne .forming).setVehicle 2 { tractor with active := ⟨.B, 16, 2, 1, 0⟩ }) 17
        [0, 2, 9, 0])).map (fun t => (t.convoy 0).members.map (fun m => (m.tractor, m.gmin, m.gmax)))) =
        some [(0, 1, 1), (2, 4, 4)]) ∧
    (((after .convoyRemove (withHead (convoyOfThree .holding) 18 [0])).map
        (fun t => ((t.convoy 0).members.map (fun m => (m.tractor, m.gap, m.cursor)), (t.convoy 0).trail))) =
        some ([(2, .absent, 1), (3, .unknown, 0)], [⟨100, .left⟩])) := by
  decide +kernel

/-- CONVOY_HOLD now, CONVOY_RESUME, CONVOY_DISBAND (R88 to R90). -/
theorem test_convoysHoldResumeDisband :
    (((after .convoyHold (withHead (convoyOfOne .rolling) 19 [0, 0])).map (fun t => (t.convoy 0).state)) = some .holding) ∧
    (((after .convoyResume (withHead (convoyOfOne .holding) 20 [0])).map (fun t => (t.convoy 0).state)) = some .rolling) ∧
    (((after .convoyDisband (withHead (convoyOfOne .rolling) 21 [0])).map
        (fun t => ((t.convoy 0).state, (t.vehicle 0).convoy))) = some (.free, none)) := by
  decide +kernel

/-- V1 attached behind V0 as TENTATIVE. -/
def tentative : State := road.setVehicle 1 { trailer with attachedBehind := some (0, .tentative) }

/-- A released holder makes room for the oldest waiting unit (R129, R135); the two coupling decisions (R148). -/
theorem test_lanesAndCouplings :
    (((after .zoneRelease (withHead (oneLane.setLane 0 ⟨[⟨.vehicle 0, true⟩], [.vehicle 2, .vehicle 3]⟩) 24 [0, 1, 0])).map
        (fun t => t.lane 0)) = some ⟨[⟨.vehicle 2, false⟩], [.vehicle 3]⟩) ∧
    (((after .coupleConfirm (withHead tentative 26 [0])).map (fun t => (t.vehicle 1).attachedBehind)) =
        some (some (0, .confirmed))) ∧
    (((after .coupleReject (withHead tentative 27 [0])).map (fun t => (t.vehicle 1).attachedBehind)) = some none) := by
  decide +kernel

/-! ## Channels -/

/-- DIRECT_SEND and CHANNEL_RESTART go in flight (R40, R28). -/
theorem test_channelCommands :
    (((after .directSend (withHead serving 32 [0, 12, 1, 2, 9, 9])).map
        (fun t => (t.mgmt.inFlight, (t.channel .A).direct, (t.channel .A).sendLimit))) =
        some (true, [⟨12, [9, 9], true, true⟩], some 500)) ∧
    (((after .channelRestart (withHead serving 33 [0])).map
        (fun t => ((t.channel .A).state, (t.vehicle 0).link, t.mgmt.inFlight))) = some (.locking, .lost, true)) := by
  decide +kernel

/-- The road with channel A in TESTING at a loopback frame. -/
def testing (k : Nat) : State := channelA (fun u => { u with state := .testing, limit := none, testFrame := k })

/-- Lock, lock limit, a passed self-test, and a missing byte (R23 to R25). -/
theorem test_lockAndSelfTest :
    (((after (.lockAchieved .A) road).map (fun t => ((t.channel .A).state, (t.channel .A).sent))) =
        some (.testing, [0, 1, 2, 3, 4, 5, 6, 7])) ∧
    (((after (.lockLimitExpiry .A) (atTime 50 road)).map (fun t => ((t.channel .A).state, t.fault.summary))) =
        some (.failed, 1024)) ∧
    (after (.lockLimitExpiry .A) (atTime 49 road) = some (atTime 49 road)) ∧
    (((after (.loopbackWindowEnd .A [56, 57, 58, 59, 60, 61, 62, 63]) (testing 8)).map
        (fun t => ((t.channel .A).state, (t.channel .A).result))) = some (.serving, .pass)) ∧
    (((after (.loopbackWindowEnd .A [8, 9]) (testing 2)).map (fun t => ((t.channel .A).detail, t.fault.summary))) =
        some (some ⟨2, 2, 10, none⟩, 2048)) := by
  decide +kernel

/-- The road with channel A in RELOCKING. -/
def relocking : State := channelA (fun u => { u with state := .relocking, limit := some 50, counter := 3 })

/-- Lock lost in service, relock, and the relock limit (R26). -/
theorem test_lockLostAndRelock :
    (((after (.lockLost .A []) serving).map (fun t => ((t.channel .A).state, (t.vehicle 0).link, t.fault.summary))) =
        some (.relocking, .lost, 1024)) ∧
    (((after (.relock .A) relocking).map (fun t => ((t.channel .A).state, (t.channel .A).counter))) = some (.serving, 0)) ∧
    (((after (.relockLimitExpiry .A) (atTime 50 relocking)).map (fun t => ((t.channel .A).state, t.fault.summary))) =
        some (.failed, 0)) := by
  decide +kernel

/-! ## The refresh cycle -/

/-- Slot 0 sends the pending poll; slot 1 serves the tractor (R37, R32). -/
theorem test_slots :
    (((after (.cycleStart .A) (serving.setChannel .A { serving.channel .A with pendingPoll := some ⟨.B, 12⟩ })).map
        (fun t => ((t.channel .A).sent.take 3, (t.channel .A).pendingPoll))) = some ([3, 1, 12], none)) ∧
    (((after (.frameBuild .A 1) serving).map (fun t => (t.channel .A).sent.take 7)) =
        some [1, 12, 5, 220, 0, 0, 0]) := by
  decide +kernel

/-- The road with V0's slot in flight on channel A. -/
def inSlot (ack : Option Ack) : State :=
  serving.setChannel .A { serving.channel .A with slot := 1, flight := some (.drive 0 12 .tractor ack) }

/-- V0's acknowledgement: segment 5, ahead 6, fifth wheel closed, battery 200. -/
def ackFrame : List Byte := (RadioFrame.ack 12 0 (some 5) (some 6) 9 200).encode

/-- A valid ack is kept, moves the vehicle; a miss is counted (R34, R16, R17). -/
theorem test_driveSlotEnds :
    (((after (.radioFrameReceive .A ackFrame) (inSlot none)).map (fun t => (t.channel .A).flight)) =
        some (some (.drive 0 12 .tractor (some ⟨some 5, some 6, some 200, true, false, false⟩)))) ∧
    (((after (.responseWindowEnd .A) (inSlot (some ⟨some 5, some 6, some 200, false, false, false⟩))).map
        (fun t => ((t.vehicle 0).current, (t.vehicle 0).ahead, (t.vehicle 0).battery, t.fault.summary))) =
        some (some 5, some 6, some 200, 0)) ∧
    (((after (.responseWindowEnd .A) (inSlot none)).map (fun t => ((t.vehicle 0).misses, (t.vehicle 0).link))) =
        some (1, .online)) := by
  decide +kernel

/-- A direct frame in flight in slot 0 of channel A. -/
def inDirect (owned : Bool) (response : Option (List Byte)) : State :=
  serving.setChannel .A { serving.channel .A with flight := some (.direct ⟨12, [9], true, owned⟩ response) }

/-- An owned direct frame that waits in channel A's list. -/
def waitingDirect : State :=
  serving.setChannel .A { serving.channel .A with direct := [⟨12, [9], true, true⟩], sendLimit := some 500 }

/-- A direct frame's response, its silence, and its send limit (R41, R42). -/
theorem test_directFramesEnd :
    (answerOf (.housekeepingWindowEnd .A) (withFlying (inDirect true (some [1, 2])) 32 []) =
        some [32, 5, 0, 0, 2, 1, 2]) ∧
    (answerOf (.housekeepingWindowEnd .A) (withFlying (inDirect true none) 32 []) = some [32, 5, 6, 0]) ∧
    (answerOf (.sendLimitExpiry .A) (withFlying (atTime 500 waitingDirect) 32 []) = some [32, 5, 6, 0]) ∧
    (answerOf (.sendLimitExpiry .A) (withFlying (atTime 499 waitingDirect) 32 []) = none) := by
  decide +kernel

/-! ## Link frames, timers and inputs -/

/-- Binding B0 of lever group 3 of handset 16, on V0. -/
def bound (k : BindState) : State :=
  road.setBinding 0 ⟨k, some ⟨16, 3, .driver, .vehicle 0⟩, 20, .left, 7, some 400⟩

/-- The header of a link frame as received, its payload length being right. -/
def header (destination source cls : Byte) (payload : List Byte) : LinkHeader :=
  ⟨destination, source, cls, BitVec.ofNat 8 payload.length⟩

/-- The frame check of such a frame. -/
def checkOf (destination source cls : Byte) (payload : List Byte) : Half :=
  linkCheck (LinkFrame.mk destination source cls payload).body

/-- The bytes of a received link frame that passes its frame check. -/
def received (destination source cls : Byte) (payload : List Byte) : List Byte :=
  linkBytes (header destination source cls payload) payload (checkOf destination source cls payload)

/-- A frame that passes its frame check, given to one of the rows DRIVE, AUX and MGMT. -/
def receiving (row : LinkHeader → List Byte → Half → Instr) (destination source cls : Byte) (payload : List Byte) : Instr :=
  row (header destination source cls payload) payload (checkOf destination source cls payload)

/-- The class byte says what a received frame is: bytes of another class, and bytes that fail their frame check, are no DRIVE, no
AUX and no MGMT (R163, R179). -/
theorem test_classByteSaysWhatAFrameIs :
    (∀ cls ∈ [(0 : Byte), 2, 3, 4, 5, 6, 7], after (receiving .drive 8 16 cls [11, 4]) (bound .disarmed) =
        some (bound .disarmed)) ∧
    after (receiving .aux 8 16 1 [3, 1, 2]) (bound .armed) = some (bound .armed) ∧
    after (receiving .mgmt 8 7 4 [0, 5]) road = some road ∧
    after (.mgmt (header 8 7 3 [0, 5]) [0, 6] (checkOf 8 7 3 [0, 5])) road = some road := by
  decide +kernel

/-- DRIVE arms, AUX sets flags, MGMT is queued, a failed check is latched, the oldest frame is sent. -/
theorem test_linkFrames :
    (((after (receiving .drive 8 16 1 [11, 4]) (bound .disarmed)).map
        (fun t => ((t.binding 0).state, (t.binding 0).throttle, (t.binding 0).turn, (t.binding 0).timer))) =
        some (.armed, 4, .right, some 500)) ∧
    (((after (receiving .aux 0 16 2 [3, 1, 2]) (bound .armed)).map (fun t => (t.binding 0).aux)) = some 258) ∧
    (((after (receiving .mgmt 8 7 3 [0, 5]) road).map (fun t => t.mgmt.entries)) = some [⟨7, [0, 5], false⟩]) ∧
    (((after (.frameCheckFailure [8, 63, 1, 0, 0, 0]) road).map (fun t => (t.fault.record.map FaultRecord.latch))) =
        some (some ⟨.linkCheck, .node 63, none⟩)) ∧
    (((after .outputFrameSend { road with link := { road.link with queue := [⟨7, 8, 4, [0]⟩, ⟨7, 8, 4, [1]⟩] } }).map
        (fun t => (t.link.sending, t.link.queue.length))) = some (received 7 8 4 [0], 1)) := by
  decide +kernel

/-- Silence, E-stop, supply monitor, and the time counter's wrap (R54, R55, R156, R152). -/
theorem test_timersAndInputs :
    (((after (.silenceExpiry 0) (atTime 400 (bound .armed))).map
        (fun t => ((t.binding 0).state, (t.binding 0).throttle, (t.binding 0).aux, t.fault.summary))) =
        some (.disarmed, 0, 7, 4)) ∧
    (((after (receiving .drive 8 16 1 [3, 9]) (atTime 400 (bound .armed))).bind (after (.silenceExpiry 0))).map
        (fun t => ((t.binding 0).state, (t.binding 0).throttle, (t.binding 0).timer)) = some (.armed, 9, some 900)) ∧
    (((after .estopAssertionEdge (bound .armed)).map (fun t => ((t.binding 0).state, t.pins.estop, t.fault.summary))) =
        some (.disarmed, true, 8192)) ∧
    (((after .estopRelease { road with pins := ⟨0, false, true, false⟩ }).map (fun t => t.pins.estop)) = some false) ∧
    (((after .supplyMonitorAssertionEdge road).map (fun t => (t.pins.supply, t.fault.summary))) = some (true, 4096)) ∧
    (((after .supplyMonitorRelease { road with pins := ⟨0, false, false, true⟩ }).map (fun t => t.pins.supply)) =
        some false) ∧
    (((after .timeCounterTick { road with fault := { road.fault with time := 65535 } }).map (fun t => t.fault.time)) =
        some 0) := by
  decide +kernel

/-- The straps and an asserted E-stop after a power-on reset (R161, R51, R156). -/
theorem test_powerOnSamplesTheStraps :
    (((after (.powerOnReset ⟨7, true, true, false⟩) road).map
        (fun t => (t.link.address, t.link.mode, t.fault.summary, (t.vehicle 0).valid))) =
        some (15, .last, 8192, false)) := by
  decide +kernel

/-! ## The entry sizes of R180 -/

theorem test_entrySizes :
    (road.bindingEntry (road.binding 0)).length = 12 ∧ (vehicleEntry tractor).length = 40 ∧
      (convoyEntry ((convoyOfThree .rolling).convoy 0)).length = 95 ∧ (zoneEntry (oneLane.zone 0)).length = 11 ∧
      (laneEntry ⟨[⟨.convoy 3, true⟩], [.vehicle 2]⟩).length = 26 ∧ (channelEntry (waitingDirect.channel .A)).length = 35 ∧
      (limitsEntry Limits.default).length = 13 := by decide +kernel

/-! ## Witnesses: states and operands that meet the hypotheses of each statement, clause by clause -/

/-- A command put at the head of a state with an empty output queue is the executable head. -/
theorem head_isReady (s : State) (code : Byte) (args : List Byte) (h : s.link.queue = []) :
    (withHead s code args).hasHead 7 code 5 args [] :=
  ⟨rfl, rfl, by show s.link.queue.length < 8; rw [h]; decide⟩

theorem test_witness_StepRunsFrontCommand : road.pending = [] := rfl

/-- A short frame, one whose length is wrong, and subjects at both ends of the node range. -/
theorem test_witness_FailedFrameCheckIsDiscardedAndLatched :
    LinkFrame.parse [8, 63, 1] = none ∧ LinkFrame.parse [8, 63, 1, 0, 0, 0] = none ∧
      LinkFrame.parse [8, 64, 1, 0, 0, 0] = none ∧ LinkFrame.parse [8, 0, 1, 1, 0, 0] = none ∧
      LinkFrame.parse (received 8 0 1 []) = some ⟨8, 0, 1, []⟩ := by decide +kernel

/-- The road with one binding holds no two that share a key or a target. -/
theorem bound_distinct (k : BindState) : (bound k).bindingsDistinct := by
  have h : ∀ b, b ≠ 0 → ((bound k).binding b).state = .empty := by cases k <;> decide +kernel
  intro a b hab t u ha hb
  by_cases e : a = 0
  · exact absurd (h b (fun x => hab (e.trans x.symm))) hb
  · exact absurd (h a e) ha

theorem test_witness_HandsetFrameUpdatesMatchingBinding :
    (bound .disarmed).bindingsDistinct ∧
      LinkFrame.parse (received 0 16 1 [11, 4]) = some ⟨0, 16, 1, [11, 4]⟩ ∧
      LinkFrame.parse (received 0 16 2 [11, 1, 2]) = some ⟨0, 16, 2, [11, 1, 2]⟩ ∧
      (0 = (0 : Byte) ∨ 0 = (bound .disarmed).link.address) ∧ 16 ≤ (16 : Byte).toNat ∧ (16 : Byte).toNat ≤ 63 ∧
      (bound .disarmed).bindingWithKey 16 ((11 : Byte).toNat % 4) = some 0 ∧ road.bindingWithKey 16 3 = none ∧
      (((bound .disarmed).binding 0).state ≠ .empty ∧
        ((bound .disarmed).binding 0).tie.map (fun t => (t.node, t.group, t.target)) = some (16, 3, .vehicle 0)) :=
  ⟨bound_distinct .disarmed, by decide +kernel⟩

/-- The road with its claiming mode END. -/
def atEnd : State := { road with link := { road.link with mode := .last } }

theorem test_witness_HandsetFrameWithoutBindingChangesNone :
    (8 = road.link.address ∧ (63 : Byte).toNat ≤ 63 ∧ road.bindingWithKey 63 ((3 : Byte).toNat % 4) = none ∧
      road.link.mode = .through) ∧
    (8 = atEnd.link.address ∧ atEnd.bindingWithKey 16 ((0 : Byte).toNat % 4) = none ∧ atEnd.link.mode = .last) ∧
    (LinkFrame.parse (received 8 63 1 [3, 0]) = some ⟨8, 63, 1, [3, 0]⟩ ∧
      LinkFrame.parse (received 8 16 2 [0, 1, 2]) = some ⟨8, 16, 2, [0, 1, 2]⟩) ∧
    ((9 : Byte) ≠ 0 ∧ 9 ≠ road.link.address) ∧ (15 : Byte).toNat < 16 ∧ 63 < (64 : Byte).toNat ∧
      [(0 : Byte)].length ≠ 2 ∧ [(0 : Byte), 0].length ≠ 3 := by decide +kernel

/-- Four commands wait. -/
def queueFull : State := { road with mgmt := ⟨List.replicate 4 ⟨7, [0, 5], false⟩, false⟩ }

theorem test_witness_MgmtFrameIsQueuedOrRefused :
    (LinkFrame.parse (received 8 7 3 [0, 5, 9]) = some ⟨8, 7, 3, [0, 5, 9]⟩ ∧
      LinkFrame.parse (received 8 7 3 []) = some ⟨8, 7, 3, []⟩ ∧ LinkFrame.parse (received 0 7 3 [62, 5]) = some ⟨0, 7, 3, [62, 5]⟩ ∧
      LinkFrame.parse (received 9 8 4 [3]) = some ⟨9, 8, 4, [3]⟩) ∧
    (8 = road.link.address ∧ 1 ≤ (1 : Byte).toNat ∧ (7 : Byte).toNat ≤ 7 ∧ road.mgmt.entries.length < 4) ∧
      (8 = queueFull.link.address ∧ 4 ≤ queueFull.mgmt.entries.length) ∧
      ([] : List Byte).length < 2 ∧ [(3 : Byte)].length < 2 ∧
      ((9 : Byte) ≠ 0 ∧ 9 ≠ road.link.address) ∧ (0 : Byte).toNat < 1 ∧ 7 < (8 : Byte).toNat := by decide +kernel

/-- The output queue holds eight frames. -/
def outputFull : State := { road with link := { road.link with queue := List.replicate 8 ⟨7, 8, 4, [0, 5, 0, 0]⟩ } }

theorem test_witness_MalformedOrUnknownCommandIsAnswered :
    ((withHead road 50 []).hasHead 7 50 5 [] [] ∧
      (50 : Byte) ∉ ([0, 1, 2, 3, 16, 17, 18, 19, 20, 21, 24, 26, 27, 32, 33, 48, 49, 62, 63] : List Byte)) ∧
    (([] : List Byte).length < 2 ∧ [(9 : Byte)].length < 2 ∧ road.link.queue.length < 8) ∧
    ((withHead road 1 [0]).hasHead 7 1 5 [0] [] ∧ [(0 : Byte)].length ≠ 0) ∧
    ((withHead road 17 [0, 0, 0]).hasHead 7 17 5 [0, 0, 0] [] ∧ [(0 : Byte), 0, 0].length ≠ 4) ∧
    (withFlying road 32 []).mgmt.inFlight = true ∧
    (8 ≤ (withHead outputFull 1 []).outCount ∧ ∀ e ∈ (withHead outputFull 1 []).mgmt.entries.head?, e.broadcast = false) :=
  ⟨⟨head_isReady road 50 [] rfl, by decide⟩, by decide, ⟨head_isReady road 1 [0] rfl, by decide⟩,
    ⟨head_isReady road 17 [0, 0, 0] rfl, by decide⟩, rfl, by decide⟩

theorem test_witness_NopAndStatusAnswer :
    ((withHead road 0 (List.replicate 64 1)).hasHead 7 0 5 (List.replicate 64 1) [] ∧ (List.replicate 64 (1 : Byte)).length ≤ 64) ∧
    ((withHead road 0 (List.replicate 65 1)).hasHead 7 0 5 (List.replicate 65 1) [] ∧ 64 < (List.replicate 65 (1 : Byte)).length) ∧
    (withHead road 1 []).hasHead 7 1 5 [] [] :=
  ⟨⟨head_isReady road 0 _ rfl, by simp⟩, ⟨head_isReady road 0 _ rfl, by simp⟩, head_isReady road 1 [] rfl⟩

/-- A broadcast command at the head. -/
def broadcast (payload : List Byte) : State := { road with mgmt := ⟨[⟨7, payload, true⟩], false⟩ }

theorem test_witness_StopAllAndRestartDisarm :
    (withHead road 62 []).hasHead 7 62 5 [] [] ∧
      (broadcast [0, 5, 1]).mgmt = ⟨[⟨7, 0 :: 5 :: [1], true⟩], false⟩ ∧
      (broadcast [62, 5]).mgmt = ⟨[⟨7, [62, 5], true⟩], false⟩ ∧ (withHead road 63 []).hasHead 7 63 5 [] [] :=
  ⟨head_isReady road 62 [] rfl, rfl, rfl, head_isReady road 63 [] rfl⟩

theorem test_witness_ReadReturnsEntries :
    ((withHead road 2 [6, 0, 1]).hasHead 7 2 5 [6, 0, 1] [] ∧ ((withHead road 2 [6, 0, 1]).table 6).isSome = true) ∧
    ((withHead road 2 [7, 0, 1]).hasHead 7 2 5 [7, 0, 1] [] ∧ (withHead road 2 [7, 0, 1]).table 7 = none) ∧
    (withHead road 2 [0, 0, 0]).hasHead 7 2 5 [0, 0, 0] [] ∧ 6 < (7 : Byte).toNat :=
  ⟨⟨head_isReady road 2 _ rfl, rfl⟩, ⟨head_isReady road 2 _ rfl, rfl⟩, head_isReady road 2 _ rfl, by decide⟩

theorem test_witness_WriteReplyFollowsEntryStatuses :
    ((withHead road 3 ([6, 0, 1] ++ limitsEntryBytes)).hasHead 7 3 5 (6 :: 0 :: 1 :: [limitsEntryBytes].flatten) [] ∧
      (1 : Byte).toNat = [limitsEntryBytes].length ∧ ∀ e ∈ [limitsEntryBytes], e.length = 13) ∧
    ((withHead road 3 [6, 0, 0]).hasHead 7 3 5 [6, 0, 0] [] ∧ (0 : Byte).toNat < 1 ∧ 4 < (5 : Byte).toNat ∧
      [(0 : Byte)].length ≠ (1 : Byte).toNat * 13) ∧
    ((withHead road 3 []).hasHead 7 3 5 [] [] ∧
      (withHead road 3 [6, 0]).hasHead 7 3 5 [6, 0] [] ∧ [(6 : Byte), 0].head? = some 6) ∧
    ((withHead road 3 [2]).hasHead 7 3 5 [2] [] ∧ (2 : Byte) ∉ ([0, 1, 3, 6] : List Byte)) ∧
    ((withHead road 3 ([6, 1, 1] ++ limitsEntryBytes)).hasHead 7 3 5 (6 :: 1 :: 1 :: limitsEntryBytes) [] ∧
      limitsEntryBytes.length = 13 ∧ 1 ≤ (1 : Byte).toNat) ∧
    (∀ st ∈ [EntryStatus.ok, .clamped], st = .ok ∨ st = .clamped) ∧
    ((∃ st ∈ [EntryStatus.outOfRange, .ok], st = .ok ∨ st = .clamped) ∧
      ∃ st ∈ [EntryStatus.outOfRange, .ok], st ≠ .ok ∧ st ≠ .clamped) ∧
    ((∀ st ∈ [EntryStatus.outOfRange], st ≠ .ok ∧ st ≠ .clamped) ∧ ∀ st ∈ [EntryStatus.outOfRange], st = .outOfRange) ∧
    [EntryStatus.outOfRange, .refused .inUse, .refused .full] =
      List.replicate 1 .outOfRange ++ .refused .inUse :: [.refused .full] :=
  ⟨⟨head_isReady road 3 _ rfl, by decide⟩, ⟨head_isReady road 3 _ rfl, by decide⟩,
    ⟨head_isReady road 3 _ rfl, head_isReady road 3 _ rfl, by decide⟩, ⟨head_isReady road 3 _ rfl, by decide⟩,
    ⟨head_isReady road 3 _ rfl, by decide⟩, by decide, by decide, by decide, rfl⟩

/-- The road with a locked record of LINK_CHECK. -/
def faulted : State :=
  { road with fault := ⟨1, some ⟨⟨.linkCheck, .none, none⟩, 9⟩, true, 20⟩ }

theorem test_witness_FaultReadAndClear :
    (withHead faulted 48 []).hasHead 7 48 5 [] [] ∧
      ((withHead road 49 [64, 0]).hasHead 7 49 5 [64, 0] [] ∧ 64 ≤ (64 : Byte).toNat) ∧
      ((withHead road 49 [63, 255]).hasHead 7 49 5 [63, 255] [] ∧ (63 : Byte).toNat < 64 ∧ road.fault.record = none) ∧
      (withHead faulted 49 [0, 1]).hasHead 7 49 5 [0, 1] [] ∧ faulted.fault.record.isSome = true ∧
      ((0 : Byte).toNat * 256 + (1 : Byte).toNat).testBit 0 = true ∧
      ((0 : Byte).toNat * 256 + (2 : Byte).toNat).testBit 0 = false :=
  ⟨head_isReady faulted 48 [] rfl, ⟨head_isReady road 49 _ rfl, by decide⟩, ⟨head_isReady road 49 _ rfl, by decide, rfl⟩,
    head_isReady faulted 49 _ rfl, rfl, by decide, by decide⟩

/-- The configuration that `vehicleBytes` spells, with a choice of valid. -/
def vehicleWrite (valid address pattern : Byte) : List Byte :=
  [valid, 0, 0, address, 16, 0, pattern, 1, 0, 8, 12, 3, 1, 44, 246, 0]

/-- What the write of V0 or V63 of the road comes to: the configuration is well-formed, and the first check that fails. -/
def judged (v : VehicleId) (valid address pattern : Byte) : Option (Option Reason) :=
  (vehicleConfigOf (vehicleWrite valid address pattern)).map (fun p => road.vehicleRefusal v p.1)

/-- The first check that refuses a written configuration in a state. -/
def refusalIn (s : State) (v : VehicleId) (bytes : List Byte) : Option (Option Reason) :=
  (vehicleConfigOf bytes).map (fun p => s.vehicleRefusal v p.1)

/-- The checks of R5 at their boundaries: fields out of range (channel 4, address 255, period 17, divisor 3, phase 1 of 1, an
empty slot set), fields at their limits and clamped, and each later check. -/
theorem test_witness_VehicleChecks :
    ([[1, 2, 3, 254, 16, 0, 2, 4, 3, 1, 1, 1, 0, 200, 0, 0], [1, 0, 4, 254, 16, 0, 2, 4, 3, 1, 1, 1, 0, 200, 0, 0],
        [1, 0, 3, 255, 16, 0, 2, 4, 3, 1, 1, 1, 0, 200, 0, 0], [1, 0, 3, 254, 17, 0, 2, 4, 3, 1, 1, 1, 0, 200, 0, 0],
        [1, 0, 3, 254, 16, 0, 2, 3, 0, 1, 1, 1, 0, 200, 0, 0], [1, 0, 3, 254, 16, 0, 2, 1, 1, 1, 1, 1, 0, 200, 0, 0],
        [1, 0, 3, 254, 16, 0, 1, 1, 0, 1, 1, 1, 0, 200, 0, 0]].map vehicleConfigOf = List.replicate 7 none) ∧
    (vehicleConfigOf [1, 1, 3, 254, 16, 128, 2, 4, 3, 32, 64, 15, 1, 244, 63, 3] =
        some (⟨true, .trailer, ⟨.D, 16, 32770, 4, 3⟩, 254, 32, 64, 15, 500, 63, 3⟩, false)) ∧
    (vehicleConfigOf [0, 0, 0, 1, 1, 255, 255, 1, 0, 33, 0, 16, 0, 199, 191, 4] =
        some (⟨false, .tractor, ⟨.A, 1, 1, 1, 0⟩, 1, 32, 1, 15, 200, -64, 3⟩, true)) ∧
    refusalIn (road.setVehicle 0 { tractor with valid := false }) 0 (vehicleWrite 1 12 2) = some (some .notReady) ∧
    refusalIn (convoyOfOne .forming) 0 (vehicleWrite 0 12 2) = some (some .inUse) ∧
    refusalIn tentative 1 (vehicleWrite 1 13 4) = some (some .inUse) := by decide +kernel

theorem test_witness_VehicleEntryIsJudgedAndApplied :
    (vehicleWrite 1 12 2).length = 16 ∧ vehicleConfigOf (vehicleWrite 1 0 2) = none ∧
      judged 63 1 12 2 = some (some .duplicate) ∧ judged 63 1 20 2 = some (some .collision) ∧
      ((road.vehicle 63).valid = false ∧ judged 63 1 20 8 = some none) ∧
      ((road.vehicle 0).valid = true ∧ judged 0 1 12 8 = some none ∧ judged 0 1 12 2 = some none) ∧
      judged 63 0 20 8 = some none := by decide +kernel

theorem test_witness_InvalidationReachesOff :
    (road.vehicle 0).valid = true ∧ judged 0 0 12 2 = some none ∧ road.slotInFlight 0 = false ∧
      (inSlot none).slotInFlight 0 = true ∧
      (vehicleConfigOf (vehicleWrite 0 12 2)).map (fun p => (inSlot none).vehicleRefusal 0 p.1) = some none := by
  decide +kernel

/-- The bytes of a binding entry after its in-use byte. -/
def bindingBytes (node : Byte) : List Byte := [node, 3, 0, 1, 0, 0, 0, 0, 0, 0, 0]

theorem test_witness_BindingEntryFillsOrEmptiesBinding :
    (bindingBytes 16).length = 11 ∧ bindingTieOf (1 :: bindingBytes 15) = none ∧ bindingTieOf (1 :: bindingBytes 64) = none ∧
      bindingTieOf (1 :: bindingBytes 16) = some ⟨16, 3, .driver, .vehicle 0⟩ ∧
      bindingTieOf [1, 63, 0, 1, 0, 11, 0, 0, 0, 0, 0, 0] = some ⟨63, 0, .marshal, .convoy 11⟩ ∧
      bindingTieOf [1, 63, 0, 1, 1, 63, 0, 0, 0, 0, 0, 0] = some ⟨63, 0, .marshal, .vehicle 63⟩ ∧
      ([[1, 63, 4, 1, 0, 11], [1, 63, 0, 2, 0, 11], [1, 63, 0, 1, 2, 11], [1, 63, 0, 1, 0, 12],
        [1, 63, 0, 1, 1, 64]].map bindingTieOf = List.replicate 5 none) ∧
      (bound .armed).bindingRefusal 31 ⟨16, 3, .driver, .vehicle 0⟩ = some .duplicate ∧
      (bound .armed).bindingRefusal 0 ⟨16, 3, .driver, .vehicle 0⟩ = none ∧
      road.bindingRefusal 31 ⟨63, 0, .marshal, .vehicle 0⟩ = none ∧
      road.bindingRefusal 31 ⟨63, 0, .marshal, .vehicle 63⟩ = some .notFound := by decide +kernel

/-- The bytes of a zone entry of segments 10 to 20 with a cap and a capacity. -/
def zoneBytes (cap capacity : Byte) : List Byte := [1, 0, 10, 0, 20, cap, 1, 1, 0, 0, capacity]

theorem test_witness_ZoneEntryStoresItsRange :
    (zoneBytes 60 3).length = 11 ∧ zoneRangeOf (zoneBytes 60 4) = none ∧
      zoneRangeOf (zoneBytes 128 3) = some (⟨true, 10, 20, ⟨127, true, true, false, false, 3⟩⟩, true) ∧
      zoneRangeOf [0, 3, 255, 3, 255, 127, 0, 0, 1, 1, 0] =
        some (⟨false, 1023, 1023, ⟨127, false, false, true, true, 0⟩⟩, false) ∧
      ([[1, 3, 255, 4, 0, 0, 0, 0, 0, 0, 0], [1, 0, 2, 0, 1, 0, 0, 0, 0, 0, 0]].map zoneRangeOf = [none, none]) ∧
      oneLane.zoneRefusal 1 ⟨true, 10, 20, ⟨60, true, true, false, false, 1⟩⟩ = some .overlap ∧
      oneLane.zoneRefusal 0 ⟨true, 10, 20, ⟨60, true, true, false, false, 3⟩⟩ = none ∧
      (oneLane.setLane 0 ⟨[⟨.vehicle 0, true⟩, ⟨.vehicle 2, true⟩], []⟩).zoneRefusal 0
        ⟨true, 10, 20, ⟨50, true, true, false, false, 1⟩⟩ = some .inUse ∧
      (oneLane.setLane 0 ⟨[⟨.vehicle 0, true⟩], []⟩).zoneRefusal 0
        ⟨true, 10, 20, ⟨50, true, true, false, false, 1⟩⟩ = none := by decide +kernel

theorem test_witness_LimitsEntryIsClampedAndStored :
    (withHead road 3 ([6, 0, 1] ++ limitsEntryBytes)).hasHead 7 3 5
        [6, 0, 1, 200, 20, 16, 100, 3, 9, 1, 155, 3, 2, 4, 72, 1] [] ∧ (1 : Byte).toNat < 2 ∧ 2 ≤ (2 : Byte).toNat :=
  ⟨head_isReady road 3 _ rfl, by decide⟩

/-! ### Convoys, lanes and couplings -/

theorem test_witness_ConvoyFormAllocatesConvoy :
    (withHead road 16 [12, 0]).hasHead 7 16 5 [12, 0] [] ∧ 12 ≤ (12 : Byte).toNat ∧ 64 ≤ (64 : Byte).toNat ∧
      (11 : ConvoyId).val = (11 : Byte).toNat ∧ (63 : VehicleId).val = (63 : Byte).toNat :=
  ⟨head_isReady road 16 _ rfl, by decide⟩

/-- C0 has one member, and V2 is solo. -/
def twoTractors (k : ConvoyState) : State :=
  (convoyOfOne k).setVehicle 2 { tractor with active := ⟨.B, 16, 2, 1, 0⟩ }

theorem soundOne : (twoTractors .forming).convoysSound := by
  unfold State.convoysSound Convoy.cursorsSound Convoy.fieldsSound Convoy.bandsSound; decide +kernel

theorem soundThree : (convoyOfThree .holding).convoysSound := by
  unfold State.convoysSound Convoy.cursorsSound Convoy.fieldsSound Convoy.bandsSound; decide +kernel

/-- Eight members: the list is full. -/
def fullConvoy : State :=
  road.setConvoy 0 ⟨.forming, (List.finRange 8).map (fun i => ⟨i.castLE (by decide), 1, 1, .absent, 0⟩), [], none, none⟩

theorem test_witness_ConvoyAddAppendsMember :
    (twoTractors .forming).convoysSound ∧
      (withHead (twoTractors .forming) 17 [0, 2, 1, 8]).hasHead 7 17 5 [0, 2, 1, 8] [] ∧
      (0 : ConvoyId).val = (0 : Byte).toNat ∧ (2 : VehicleId).val = (2 : Byte).toNat ∧
      ((twoTractors .forming).convoy 0).state = .forming ∧
      ((twoTractors .forming).convoy 0).members = [] ++ [⟨0, 1, 1, .absent, 0⟩] ∧
      ((twoTractors .forming).convoy 1).state = .free ∧ 8 ≤ (fullConvoy.convoy 0).members.length :=
  ⟨soundOne, head_isReady _ 17 _ rfl, rfl, rfl, by decide +kernel⟩

/-- The lead, the follower between, and the last follower of C0; the convoy of one member, in a holder list and in none. -/
theorem test_witness_ConvoyRemoveTakesMemberOut :
    (convoyOfThree .holding).convoysSound ∧
      (withHead (convoyOfThree .holding) 18 [63]).hasHead 7 18 5 [63] [] ∧ 64 ≤ (64 : Byte).toNat ∧
      ((convoyOfThree .holding).vehicle 63).convoy = none ∧
      (((convoyOfThree .holding).vehicle 0).convoy = some 0 ∧ ((convoyOfThree .holding).vehicle 2).convoy = some 0 ∧
        ((convoyOfThree .holding).vehicle 3).convoy = some 0) ∧
      (((convoyOfThree .holding).convoy 0).members =
          ⟨0, 1, 1, .absent, 1⟩ :: ⟨2, 1, 4, .unknown, 1⟩ :: [⟨3, 1, 4, .unknown, 0⟩] ∧
        ((convoyOfThree .holding).convoy 0).members =
          [] ++ ⟨0, 1, 1, .absent, 1⟩ :: ⟨2, 1, 4, .unknown, 1⟩ :: ⟨3, 1, 4, .unknown, 0⟩ :: [] ∧
        ((convoyOfThree .holding).convoy 0).members =
          [⟨0, 1, 1, .absent, 1⟩] ++ [⟨2, 1, 4, .unknown, 1⟩, ⟨3, 1, 4, .unknown, 0⟩]) ∧
      ((convoyOfThree .rolling).convoy 0).state = .rolling ∧ ((convoyOfThree .holding).convoy 0).state = .holding ∧
      ((twoTractors .forming).convoysSound ∧ ((twoTractors .forming).convoy 0).members.length = 1 ∧
        (twoTractors .forming).holdsAny (.convoy 0) = false) ∧
      ((twoTractors .forming).setLane 0 ⟨[⟨.convoy 0, true⟩], []⟩).holdsAny (.convoy 0) = true :=
  ⟨soundThree, head_isReady _ 18 _ rfl, by decide, by decide +kernel, by decide +kernel, by decide +kernel, by decide +kernel,
    by decide +kernel, ⟨soundOne, by decide +kernel⟩, by decide +kernel⟩

theorem test_witness_ConvoyHoldAndResume :
    ((withHead (convoyOfOne .rolling) 19 [0, 1]).hasHead 7 19 5 [0, 1] [] ∧ (0 : ConvoyId).val = (0 : Byte).toNat ∧
      (1 : Byte).toNat < 2 ∧ 12 ≤ (12 : Byte).toNat ∧ 2 ≤ (2 : Byte).toNat) ∧
    (withHead (convoyOfOne .holding) 20 [0]).hasHead 7 20 5 [0] [] ∧ ((convoyOfOne .holding).convoy 1).state = .free ∧
      ((convoyOfOne .rolling).convoy 0).state = .rolling ∧ ((convoyOfOne .holdPending).convoy 0).state = .holdPending ∧
      ((convoyOfOne .holdPending).convoy 0).cause = none ∧ ((convoyOfOne .holding).convoy 0).state = .holding :=
  ⟨⟨head_isReady _ 19 _ rfl, by decide⟩, head_isReady _ 20 _ rfl, by decide +kernel⟩

theorem test_witness_ConvoyDisbandFreesConvoy :
    (withHead (convoyOfOne .rolling) 21 [0]).hasHead 7 21 5 [0] [] ∧ ((convoyOfOne .rolling).convoy 1).state = .free ∧
      ((convoyOfOne .rolling).convoy 0).state ≠ .free ∧ (convoyOfOne .rolling).holdsAny (.convoy 0) = false ∧
      ((convoyOfOne .rolling).setLane 31 ⟨[⟨.convoy 0, false⟩], []⟩).holdsAny (.convoy 0) = true :=
  ⟨head_isReady _ 21 _ rfl, by decide +kernel⟩

theorem test_witness_ZoneReleaseAndGrant :
    (withHead oneLane 24 [31, 1, 63]).hasHead 7 24 5 [31, 1, 63] [] ∧ 32 ≤ (32 : Byte).toNat ∧ 2 ≤ (2 : Byte).toNat ∧
      12 ≤ (12 : Byte).toNat ∧ (31 : RangeId).val = (31 : Byte).toNat ∧ (11 : ConvoyId).val = (11 : Byte).toNat ∧
      (63 : VehicleId).val = (63 : Byte).toNat :=
  ⟨head_isReady _ 24 _ rfl, by decide⟩

/-- V1 is attached behind V0 as TENTATIVE and queued, with channel A SERVING. -/
def deciding (a : Option (VehicleId × AttachState)) : State :=
  { serving.setVehicle 1 { trailer with attachedBehind := a } with coupler := ⟨[1], none⟩ }

theorem test_witness_CouplingDecisionSettlesAttachment :
    (withHead tentative 26 [0]).hasHead 7 26 5 [0] [] ∧ (0 : VehicleId).val = (0 : Byte).toNat ∧ 64 ≤ (64 : Byte).toNat ∧
      tentative.behind 0 = some 1 ∧ (tentative.vehicle 1).attachedBehind = some (0, .tentative) ∧
      tentative.coupler.queue = [] ∧ tentative.behind 63 = none ∧
      ((deciding (some (0, .tentative))).coupler = ⟨[] ++ 1 :: [], none⟩ ∧
        (deciding (some (0, .tentative))).servingChannels ≠ [] ∧ (deciding (some (0, .confirmed))).blocked 1 = false ∧
        (deciding none).blocked 1 = false) ∧
      (∀ x ∈ (deciding (some (0, .tentative))).coupler.queue, (deciding (some (0, .tentative))).blocked x = true) ∧
      (∀ c ∈ [Channel.A, .B, .C, .D], (tentative.channel c).state ≠ .serving) ∧
      ((after .coupleReject (withHead { tentative with coupler := ⟨[0], none⟩ } 27 [0])).map
        (fun t => (t.coupler, t.fault.summary, t.link.queue.length))) = some (⟨[], none⟩, 256, 1) :=
  ⟨head_isReady _ 26 _ rfl, by decide +kernel⟩

/-! ### Channels and slots -/

theorem test_witness_DirectSendQueuesOwnedFrame :
    (withHead serving 32 [0, 12, 1]).hasHead 7 32 5 [0, 12, 1] [] ∧
    (withHead serving 32 [0, 12, 1, 1, 9]).hasHead 7 32 5 (0 :: 12 :: 1 :: 1 :: [9]) [] ∧
      [(9 : Byte)].length = (1 : Byte).toNat ∧ (0 : Byte) = channelCode .A ∧ 4 ≤ (4 : Byte).toNat ∧ (0 : Byte).toNat < 1 ∧
      8 < (9 : Byte).toNat :=
  ⟨head_isReady _ 32 _ rfl, head_isReady _ 32 _ rfl, by decide⟩

/-- A poll in flight on channel A for the identification of V0, with one valid reply. -/
def inPoll (awaiting : List Channel) (round : Nat) (replies : List Byte) (counted : Bool) : State :=
  { serving.setChannel .A { serving.channel .A with flight := some (.poll ⟨.A, 12⟩ replies false counted) } with
    coupler := ⟨[0], some ⟨0, round, awaiting, [], false⟩⟩ }

/-- V0 is leaving with a slot of it in flight on channel A. -/
def leavingInSlot : State := (inSlot none).setVehicle 0 { tractor with valid := false }

theorem test_witness_ChannelRestartEntersLocking :
    (withHead serving 33 [0]).hasHead 7 33 5 [0] [] ∧ (0 : Byte) = channelCode .A ∧ 4 ≤ (4 : Byte).toNat ∧
      (road.channel .A).state ≠ .serving ∧ (serving.channel .A).state = .serving ∧ (serving.channel .A).pollOpen = false ∧
      ((leavingInSlot.vehicle 0).valid = false ∧ (leavingInSlot.channel .A).state = .serving ∧
        (leavingInSlot.channel .A).flight = some (.drive 0 12 .tractor none)) ∧
      ((serving.vehicle 0).valid = true ∧ (serving.vehicle 0).inTransit = false ∧ (serving.vehicle 0).active.channel = .A ∧
        (serving.vehicle 0).link = .online) ∧
      (((inPoll [.A] 1 [] true).channel .A).state = .serving ∧ ((inPoll [.A] 1 [] true).channel .A).pollOpen = true ∧
        ((after .channelRestart (withHead (inPoll [.A, .D] 1 [] true) 33 [0])).map (fun t => (t.coupler, t.fault.summary))) =
          some (⟨[0], some ⟨0, 1, [.D], [], false⟩⟩, 0) ∧
        ((after .channelRestart (withHead (inPoll [.A] 1 [] true) 33 [0])).map (fun t => (t.coupler, t.fault.summary))) =
          some (⟨[], none⟩, 256)) :=
  ⟨head_isReady _ 33 _ rfl, by decide +kernel⟩

theorem test_witness_LockReportAndLimitExpiry :
    ((road.channel .A).state = .locking ∧ (road.channel .A).limit = some 50 ∧ (atTime 50 road).restarting .A = false) ∧
      (((atTime 50 road).fault.time - 50).toNat < 32768 ∧ 32768 ≤ (road.fault.time - 50).toNat) ∧
      ((relocking.channel .A).state = .relocking ∧ (relocking.channel .A).direct = [] ∧
        (relocking.channel .A).pendingPoll = none ∧ (relocking.channel .A).limit = some 50 ∧
        relocking.restarting .A = false) ∧
      (((testing 1).channel .A).state = .testing) ∧
      ((withFlying road 33 [0]).mgmt = ⟨[⟨7, [33, 5, channelCode .A], false⟩], true⟩) := by decide +kernel

theorem test_witness_SelfTestEnds :
    (((testing 1).channel .A).state = .testing ∧ (testing 1).restarting .A = false ∧
      (withFlying (testing 1) 33 [0]).mgmt = ⟨[⟨7, [33, 5, channelCode .A], false⟩], true⟩ ∧
      ((testing 1).channel .A).testFrame = 1 ∧
      (∀ i < 8, ([0, 1, 2, 3, 4, 5, 6, 7] : List Byte)[i]? = some (BitVec.ofNat 8 (8 * (1 - 1) + i)))) ∧
    (((testing 8).channel .A).testFrame = 8 ∧ ((testing 8).channel .A).direct = [] ∧
      ((testing 8).channel .A).pendingPoll = none ∧
      (∀ i < 8, ([56, 57, 58, 59, 60, 61, 62, 63] : List Byte)[i]? = some (BitVec.ofNat 8 (8 * (8 - 1) + i)))) ∧
    ((∀ j < 7, ([0, 1, 2, 3, 4, 5, 6] : List Byte)[j]? = some (BitVec.ofNat 8 (8 * (1 - 1) + j))) ∧
      ([0, 1, 2, 3, 4, 5, 6] : List Byte)[7]? ≠ some (BitVec.ofNat 8 (8 * (1 - 1) + 7))) ∧
    ([] : List Byte).length < 8 ∧ (road.channel .A).state = .locking := by decide +kernel

/-- Channel A serves with an owned direct frame in its list, and DIRECT_SEND is in flight. -/
def ownsDirect : State := withFlying waitingDirect 32 []

theorem test_witness_LockLostLeavesServing :
    (ownsDirect.channel .A).state = .serving ∧ ownsDirect.mgmt = ⟨[⟨7, 32 :: 5 :: [], false⟩], true⟩ ∧
      (ownsDirect.channel .A).ownsDirect = true ∧ (serving.channel .A).ownsDirect = false ∧
      (serving.channel .A).pollOpen = false ∧
      ((leavingInSlot.channel .A).state = .serving ∧ (leavingInSlot.vehicle 0).valid = false ∧
        (leavingInSlot.channel .A).flight = some (.drive 0 12 .tractor none)) ∧
      ((serving.vehicle 0).valid = true ∧ (serving.vehicle 0).inTransit = false ∧
        (serving.vehicle 0).active.channel = .A ∧ (serving.vehicle 0).link = .online) ∧
      (((inPoll [.A] 1 [] true).channel .A).state = .serving ∧ ((inPoll [.A] 1 [] true).channel .A).pollOpen = true ∧
        ((after (.lockLost .A []) (inPoll [.A, .D] 1 [] true)).map (fun t => (t.coupler, t.fault.summary))) =
          some (⟨[0], some ⟨0, 1, [.D], [], false⟩⟩, 1024)) := by decide +kernel

theorem test_witness_CycleStartMovesVehiclesAndChoosesSlotZero :
    ((serving.channel .A).state = .serving ∧ (serving.channel .A).flight = none ∧
      (serving.channel .A).pendingPoll = none ∧ (serving.channel .A).direct = [] ∧
      (waitingDirect.channel .A).direct = ⟨12, [9], true, true⟩ :: []) ∧
    (tractor.valid = true ∧ tractor.staged = none ∧ Vehicle.blank.valid = false ∧ tractor.active.channel = .A ∧
      tractor.inTransit = false ∧ Channel.B ≠ .A) ∧
    (road.channel .A).state ≠ .serving ∧
    (({ tractor with inTransit := true, staged := some ⟨.A, 16, 4, 1, 0⟩, misses := 2 } : Vehicle).cycleStart .A =
      { tractor with active := ⟨.A, 16, 4, 1, 0⟩, misses := 2 }) := by decide +kernel

theorem test_witness_FrameBuildSendsDriveFrame :
    (serving.channel .A).state = .serving ∧ (serving.channel .A).flight = none ∧ (serving.channel .A).slot < 1 ∧
      serving.slotOwner .A 1 = some 0 ∧ serving.slotOwner .A 15 = none ∧ (road.channel .A).state ≠ .serving := by
  decide +kernel

/-- The fleet of the road holds no colliding assignments, and every divisor is one of the three. -/
theorem test_witness_SlotServesOneVehicle :
    serving.assignmentsApart ∧ (∀ v, (serving.vehicle v).active.divisor ∈ [1, 2, 4]) ∧
      (4 ∈ [1, 2, 4] ∧ (3 : Nat) < 4 ∧ (0 : Nat) < 1) := by
  unfold State.assignmentsApart Vehicle.claims; decide +kernel

/-- A frame that parses as no ack and no response, and one of another address or kind. -/
theorem test_witness_ReceivedFrameIsJudged :
    ((serving.channel .A).flight = none ∧ ((inSlot none).channel .A).flight = some (.drive 0 12 .tractor none) ∧
      RadioFrame.parse ackFrame = some (.ack 12 Kind.tractor.code (some 5) (some 6) 9 200) ∧
      ((inSlot (some ⟨none, none, none, false, false, false⟩)).channel .A).flight =
        some (.drive 0 12 .tractor (some ⟨none, none, none, false, false, false⟩)) ∧
      ((inDirect true none).channel .A).flight = some (.direct ⟨12, [9], true, true⟩ none) ∧
      ((inDirect true (some [1])).channel .A).flight = some (.direct ⟨12, [9], true, true⟩ (some [1])) ∧
      RadioFrame.parse (RadioFrame.directResponse 12 [1, 2]).encode = some (.directResponse 12 [1, 2])) ∧
    (∀ current ahead coupler battery, RadioFrame.parse [] ≠ some (.ack 12 0 current ahead coupler battery)) ∧
    (∀ payload, RadioFrame.parse [] ≠ some (.directResponse 12 payload)) := by
  have h : RadioFrame.parse [] = none := by decide
  refine ⟨by decide +kernel, fun _ _ _ _ => by rw [h]; simp, fun _ => by rw [h]; simp⟩

/-- A slot of V0 in flight where V0 has K − 1 misses, and is a convoy member or is not valid. -/
def lastMiss (x : Vehicle) : State := (inSlot none).setVehicle 0 x

theorem test_witness_MissOrLeavingEndsSlot :
    (((lastMiss { tractor with misses := 5 }).channel .A).flight = some (.drive 0 12 .tractor none) ∧
      ((lastMiss { tractor with misses := 5 }).vehicle 0).valid = true ∧
      ((lastMiss { tractor with misses := 5 }).vehicle 0).convoy = none ∧
      (lastMiss { tractor with misses := 5 }).limits.lostThreshold ≤ min 15 (5 + 1) ∧
      min 15 (4 + 1) < (lastMiss tractor).limits.lostThreshold) ∧
    (((lastMiss { tractor with misses := 5, convoy := some 0 }).vehicle 0).convoy = some 0 ∧
      ((lastMiss { tractor with misses := 5, link := .acquiring }).vehicle 0).link = .acquiring) ∧
    (((lastMiss { tractor with valid := false }).vehicle 0).valid = false) := by decide +kernel

theorem test_witness_ValidAckWritesTelemetry :
    ((inSlot (some ⟨none, none, none, false, false, false⟩)).channel .A).flight =
        some (.drive 0 12 .tractor (some ⟨none, none, none, false, false, false⟩)) ∧
      ((inSlot (some ⟨none, none, none, false, false, false⟩)).vehicle 0).valid = true := by decide +kernel

/-- A lead enters the junction segment 12; its follower has it ahead. -/
def junction : State :=
  (((convoyOfThree .rolling).setZone 0 ⟨true, 10, 20, ⟨60, true, true, false, true, 0⟩⟩).setVehicle 0
    { tractor with convoy := some 0, current := some 12 }).setVehicle 2 { tractor with convoy := some 0, ahead := some 12 }

/-- A lead in a junction; a follower before one that no entry names; a follower that enters the segment of its entry. -/
theorem test_witness_ConvoyFollowsAcks :
    (junction.convoy 0).cursorsSound ∧
      ((junction.convoy 0).members =
          ⟨0, 1, 1, .absent, 1⟩ :: [⟨2, 1, 4, .unknown, 1⟩, ⟨3, 1, 4, .unknown, 0⟩] ∧
        (junction.convoy 0).members =
          [⟨0, 1, 1, .absent, 1⟩] ++ ⟨2, 1, 4, .unknown, 1⟩ :: ⟨3, 1, 4, .unknown, 0⟩ :: []) ∧
      (junction.vehicle 0).current = some 12 ∧ junction.isJunction (some 12) = true ∧
      junction.isJunction (junction.vehicle 3).current = false ∧ (junction.convoy 0).state = .rolling ∧
      (junction.convoy 0).trail.length < 16 ∧ ((junction.convoy 0).trail[0]?).map TrailEntry.segment = some 100 ∧
      (junction.isJunction (junction.vehicle 2).ahead = true ∧
        ((junction.convoy 0).trail[1]?).map TrailEntry.segment ≠ (junction.vehicle 2).ahead) ∧
      junction.isJunction (junction.vehicle 3).ahead = false ∧
      16 ≤ (List.replicate 16 (⟨12, .left⟩ : TrailEntry)).length ∧
      (junction.vehicle 2).convoy = some 0 ∧ (junction.vehicle 63).convoy = none := by
  unfold Convoy.cursorsSound; decide +kernel

/-- V0 stands in the single-lane range Z0, or looks into it. -/
def inLane (lane : Lane) (current ahead : Option Segment) : State :=
  (oneLane.setLane 0 lane).setVehicle 0 { tractor with current := current, ahead := ahead }

theorem inLane_sound (lane : Lane) (current ahead : Option Segment) : (inLane lane current ahead).convoysSound := by
  have hc : ∀ i, (inLane lane current ahead).convoy i = .blank := fun i =>
    (by decide +kernel : ∀ i, State.reset.convoy i = .blank) i
  have hv : ∀ v, ((inLane lane current ahead).vehicle v).convoy = none := by
    intro v
    by_cases e : v = 0
    · subst e; rfl
    · exact (congrArg Vehicle.convoy (vehicle_setVehicle_other (oneLane.setLane 0 lane) 0 v _ e)).trans
        ((by decide +kernel : ∀ v, (road.vehicle v).convoy = none) v)
  refine ⟨fun c => ?_, fun v c => ?_⟩
  · rw [hc]; simp [Convoy.cursorsSound, Convoy.fieldsSound, Convoy.bandsSound, Convoy.blank]
  · rw [hc, hv]; simp [Convoy.blank]

/-- The unit enters, is admitted or finds no room; it looks into a range, into one it holds or waits for, and into one whose
waiting list is full. -/
theorem test_witness_LaneListsFollowAcks :
    (inLane ⟨[], []⟩ (some 9) (some 10)).convoysSound ∧
      ((inLane ⟨[], []⟩ (some 9) (some 10)).vehicle 0).kind = .tractor ∧
      (inLane ⟨[], []⟩ (some 20) none).laneRangeOf (some 20) = some 0 ∧
      (inLane ⟨[], []⟩ (some 9) (some 10)).laneRangeOf (some 10) = some 0 ∧
      (inLane ⟨[], []⟩ (some 9) (some 10)).lookupOf (some 9) = none ∧
      (inLane ⟨[], []⟩ (some 9) (some 10)).leadsUnit 0 = true ∧
      (inLane ⟨[], []⟩ (some 9) (some 10)).crossingReason (some 9) (some 10)
        ((inLane ⟨[], []⟩ (some 9) (some 10)).controllingClass 0) = none ∧
      4 ≤ (List.replicate 4 (⟨.vehicle 9, true⟩ : Holder)).length ∧
      (inLane ⟨[], []⟩ (some 9) none).laneRangeOf (some 9) ≠ some 31 ∧
      (let after (l : Lane) (current ahead : Option Segment) := ((inLane l current ahead).laneAck 0).1.lane 0;
        after ⟨[⟨.vehicle 0, false⟩], [.vehicle 9]⟩ (some 10) none = ⟨[⟨.vehicle 0, true⟩], [.vehicle 9]⟩ ∧
        after ⟨[⟨.vehicle 9, true⟩], [.vehicle 0, .vehicle 8]⟩ (some 10) none =
          ⟨[⟨.vehicle 9, true⟩, ⟨.vehicle 0, true⟩], [.vehicle 8]⟩ ∧
        after ⟨[⟨.vehicle 0, false⟩], []⟩ (some 9) (some 10) = ⟨[⟨.vehicle 0, false⟩], []⟩ ∧
        after ⟨[⟨.vehicle 9, true⟩], [.vehicle 0]⟩ (some 9) (some 10) = ⟨[⟨.vehicle 9, true⟩], [.vehicle 0]⟩ ∧
        after ⟨[⟨.vehicle 9, true⟩], List.replicate 7 (.vehicle 8)⟩ (some 9) (some 10) =
          ⟨[⟨.vehicle 9, true⟩], List.replicate 7 (.vehicle 8) ++ [.vehicle 0]⟩ ∧
        after ⟨[⟨.vehicle 9, true⟩], List.replicate 8 (.vehicle 8)⟩ (some 9) (some 10) =
          ⟨[⟨.vehicle 9, true⟩], List.replicate 8 (.vehicle 8)⟩) :=
  ⟨inLane_sound _ _ _, by decide +kernel⟩

/-- V1 and V4 are trailers behind V0. -/
def twoTrailers : State :=
  tentative.setVehicle 4 { trailer with address := 14, attachedBehind := some (1, .confirmed) }

theorem tentative_stringsSound : tentative.stringsSound := by
  have h : ∀ v, v ≠ 1 → (tentative.vehicle v).attachedBehind = none := by decide +kernel
  have k : (tentative.vehicle 1).attachedBehind = some (0, .tentative) := by decide +kernel
  have n : ∀ v f, tentative.attached v f → v = 1 ∧ f = 0 := by
    intro v f a
    by_cases e : v = 1
    · subst e; exact ⟨rfl, by simpa [State.attached, k] using a.symm⟩
    · simp [State.attached, h v e] at a
  refine ⟨fun v f a => ?_, fun v w f a b => (n v f a).1.trans (n w f b).1.symm, fun v f g a b => ?_, by decide +kernel, ?_⟩
  · obtain ⟨rfl, rfl⟩ := n v f a
    decide +kernel
  · exact absurd ((n v f a).2.symm.trans (n f g b).1) (by decide)
  · rw [show tentative.coupler = ⟨[], none⟩ by decide +kernel]; simp

/-- An opening, a closure and a release; a release with an opening and with a closure at one ack; an opening in flight. -/
theorem test_witness_CouplerEventsFollowAcks :
    tentative.stringsSound ∧
    (({ tractor with fifthWheel := true } : Vehicle).frontCoupler = true ∧ tractor.frontCoupler = false) ∧
      (trailer.kind = .trailer ∧ trailer.kingpin = true ∧ ({ trailer with kingpin := false } : Vehicle).kingpin = false) ∧
      (serving.behind 0 = none ∧ serving.secondTrailer 0 = false ∧ serving.coupler = ⟨[], none⟩ ∧
        serving.blocked 0 = false ∧ serving.servingChannels ≠ []) ∧
      tentative.behind 0 = some 1 ∧ (tentative.vehicle 1).attachedBehind ≠ none ∧
      (let released (x : Vehicle) (before : Vehicle) :=
          (({ twoTrailers with channels := serving.channels }).setVehicle 1
            { x with kingpin := false, attachedBehind := some (0, .tentative) }).couplerAck 1 before;
        let opened := released trailer { trailer with rearHitch := true };
        let closed := (({ tentative with channels := serving.channels }).setVehicle 1
          { trailer with kingpin := false, rearHitch := true, attachedBehind := some (0, .tentative) }).couplerAck 1 trailer;
        (opened.1.vehicle 1).attachedBehind = none ∧ (opened.1.vehicle 4).attachedBehind = none ∧ opened.2 = [] ∧
        (closed.1.vehicle 1).attachedBehind = none ∧ closed.1.coupler = ⟨[1], some ⟨1, 1, [.A], [], false⟩⟩ ∧
        (closed.1.channel .A).pendingPoll = some ⟨.A, 13⟩) ∧
      (let opened := (inPoll [.A] 1 [13] true).couplerAck 0 { tractor with fifthWheel := true };
        opened.1.coupler = ⟨[], none⟩ ∧ (opened.1.channel .A).flight = some (.poll ⟨.A, 12⟩ [13] false false) ∧
        opened.2 = []) :=
  ⟨tentative_stringsSound, by decide +kernel⟩

/-- The identification in flight is V0's, and V1 is written; V0 is written, with V1 queued behind it, or alone with no channel
SERVING for the next, which fails at once with COUPLE_UNRESOLVED; both are invalidated by one WRITE, and nothing is left to start
at its end. -/
theorem test_witness_InvalidationWithIdentification :
    ((inPoll [.A] 1 [] true).coupler.ident = some ⟨0, 1, [.A], [], false⟩ ∧ (0 : VehicleId) ≠ 1 ∧
      (vehicleConfigOf (vehicleWrite 0 12 2)).map (fun p => (inPoll [.A] 1 [] true).vehicleRefusal 1 p.1) = some none) ∧
    (let s : State := { inPoll [.A] 1 [] true with coupler := ⟨[0, 1], some ⟨0, 1, [.A], [], false⟩⟩ };
      (after .vehicleWrite (withHead s 3 (1 :: 0 :: 1 :: vehicleWrite 0 12 2))).map
        (fun t => (t.coupler, (t.channel .A).flight, (t.channel .A).pendingPoll)) =
        some (⟨[1], some ⟨1, 1, [.A], [], false⟩⟩, some (.poll ⟨.A, 12⟩ [] false false), some ⟨.A, 13⟩)) ∧
    (let s : State := { road with coupler := ⟨[0, 1], none⟩ };
      (after .vehicleWrite (withHead s 3 (1 :: 0 :: 1 :: vehicleWrite 0 12 2))).map
        (fun t => (t.coupler, t.fault.summary, t.fault.record.map FaultRecord.latch)) =
        some (⟨[], none⟩, 256, some ⟨.coupleUnresolved, .vehicle 1, none⟩)) ∧
    (let s : State := { road with coupler := ⟨[0, 1], none⟩ };
      (after .vehicleWrite (withHead s 3 (1 :: 0 :: 2 :: (vehicleWrite 0 12 2 ++ vehicleWrite 0 13 4)))).map
        (fun t => (t.coupler, t.fault.summary)) = some (⟨[], none⟩, 0)) := by decide +kernel

theorem test_witness_HousekeepingWindowAnswersOrReports :
    (((withFlying (inDirect true none) 32 []).channel .A).flight = some (.direct ⟨12, [9], true, true⟩ none) ∧
      (withFlying (inDirect true none) 32 []).mgmt = ⟨[⟨7, 32 :: 5 :: [], false⟩], true⟩) ∧
    ((inDirect false none).channel .A).flight = some (.direct ⟨12, [9], true, false⟩ none) ∧
    ((inPoll [.A] 1 [] false).channel .A).flight = some (.poll ⟨.A, 12⟩ [] false false) ∧
    (((inPoll [.A, .D] 1 [13] true).channel .A).flight = some (.poll ⟨.A, 12⟩ [13] false true) ∧
      (inPoll [.A, .D] 1 [13] true).coupler.ident = some ⟨0, 1, [.A, .D], [], false⟩) ∧
    ((ownsDirect.channel .A).sendLimit = some 500 ∧ ((atTime 500 ownsDirect).fault.time - 500).toNat < 32768 ∧
      32768 ≤ (ownsDirect.fault.time - 500).toNat ∧ (∃ e ∈ (ownsDirect.channel .A).direct, e.owned = true) ∧
      ownsDirect.mgmt.inFlight = true) := by decide +kernel

/-- One suitable reply; none; one that names nobody, or the tractor itself; two in the third round; no channel SERVING. -/
theorem test_witness_RoundEndAttachesOrPollsAgain :
    (((after (.housekeepingWindowEnd .A) (inPoll [.A] 1 [13] true)).map
        (fun t => (t.coupler, t.fault.record.map FaultRecord.latch))) =
      some (⟨[], none⟩, some ⟨.couplePending, .vehicle 0, none⟩)) ∧
    (((after (.housekeepingWindowEnd .A) (inPoll [.A] 3 [] true)).map
        (fun t => (t.coupler, t.fault.record.map FaultRecord.latch))) =
      some (⟨[], none⟩, some ⟨.coupleUnresolved, .vehicle 0, none⟩)) ∧
    (((after (.housekeepingWindowEnd .A) (inPoll [.A] 1 [] true)).map
        (fun t => (t.coupler, (t.channel .A).pendingPoll, (t.channel .B).pendingPoll))) =
      some (⟨[0], some ⟨0, 2, [.A], [], false⟩⟩, some ⟨.A, 12⟩, none)) ∧
    ((inPoll [.A] 1 [13] true).coupler.ident = some ⟨0, 1, [.A], [], false⟩ ∧
      (inPoll [.A] 1 [13] true).occupant .A 13 = some 1 ∧ (inPoll [.A] 1 [13] true).suitable 0 1 = true) ∧
    ((inPoll [.A] 2 [] true).servingChannels ≠ [] ∧ (inPoll [.A] 2 [] true).coupler.ident = some ⟨0, 2, [.A], [], false⟩) ∧
    ((inPoll [.A] 1 [99] true).occupant .A 99 = none ∧
      (inPoll [.A] 1 [12] true).occupant .A 12 = some 0 ∧ (inPoll [.A] 1 [12] true).suitable 0 0 = false) ∧
    (inPoll [.A] 3 [1, 2] true).coupler.ident = some ⟨0, 3, [.A], [], false⟩ ∧
    ((inPoll [.A] 1 [] true).setChannel .A
      { (inPoll [.A] 1 [] true).channel .A with state := .failed }).servingChannels = [] := by decide +kernel

/-! ### Timers, inputs, faults and shaping -/

theorem test_witness_SilenceTimerAndTimeCounter :
    ((bound .armed).binding 0).timer = some 400 ∧ ((bound .armed).binding 0).state = .armed ∧
      ((bound .disarmed).binding 0).state = .disarmed ∧ ((atTime 400 (bound .armed)).fault.time - 400).toNat < 32768 ∧
      32768 ≤ ((bound .armed).fault.time - 400).toNat ∧
      (8 = (bound .armed).link.address ∧ (bound .armed).bindingWithKey 16 ((11 : Byte).toNat % 4) = some 0 ∧
        LinkFrame.parse (received 8 16 1 [11, 4]) = some ⟨8, 16, 1, [11, 4]⟩ ∧
        LinkFrame.parse (received 8 16 2 [11, 4, 0]) = some ⟨8, 16, 2, [11, 4, 0]⟩ ∧
        100 ≤ (bound .armed).limits.silence ∧ (bound .armed).limits.silence ≤ 2000) := by decide +kernel

theorem test_witness_InputEdgesLatchOnce : road.pins.estop = false ∧ road.pins.supply = false := by decide

theorem test_witness_LatchIsCapturedAndAlerted :
    road.fault.record = none ∧ faulted.fault.record.isSome = true ∧ FaultClass.severe .linkCheck = false ∧
      FaultClass.severe .estop = true := by decide

theorem test_witness_DemandGapAndLoad :
    (bound .armed).bindingsDistinct ∧ ((bound .armed).bindingOn ((bound .armed).unitOf 0)).map Binding.state = some .armed ∧
      ((bound .armed).vehicle 0).convoy = none ∧ ((convoyOfOne .rolling).vehicle 0).convoy = some 0 ∧
      (bound .disarmed).bindingOn ((bound .disarmed).unitOf 0) ≠ none ∧
      ((convoyOfThree .rolling).convoy 0).members =
        ⟨0, 1, 1, .absent, 1⟩ :: ([⟨2, 1, 4, .unknown, 1⟩] ++ ⟨3, 1, 4, .unknown, 0⟩ :: []) ∧
      ((convoyOfThree .rolling).vehicle 3).convoy = some 0 ∧
      (tentative.behind 1 = none ∧ tentative.behind 0 = some 1 ∧ twoTrailers.behind 0 = some 1 ∧
        twoTrailers.behind 1 = some 4) ∧
      (((convoyOfOne .rolling).setBinding 0 ⟨.armed, some ⟨16, 3, .driver, .convoy 0⟩, 20, .left, 7, some 400⟩).bindingOn
        (.convoy 0)).map Binding.throttle = some 20 ∧ road.bindingOn (.vehicle 0) = none :=
  ⟨bound_distinct .armed, by decide +kernel⟩

/-- Both signs, a smaller and a larger target, and rest. -/
theorem test_witness_RampFollowsStepsAndDwell :
    ((5 : Int) ≠ 0 ∧ (9 : Int).sign = (5 : Int).sign ∧ (5 : Int).natAbs ≤ (9 : Int).natAbs) ∧
      ((-9 : Int).sign = (-12 : Int).sign ∧ (-9 : Int).natAbs < (-12 : Int).natAbs) ∧ (5 : Int).sign ≠ (-5 : Int).sign := by
  decide

/-- A chain with and without a low battery; each forward-stop reason; a follower before the junction of its entry; own, convoy
and chain bindings. -/
theorem test_witness_FrameStaysWithinCaps :
    ((road.vehicle 0).kind = .tractor ∧ (road.vehicle 1).kind = .trailer ∧ (road.vehicle 63).link ≠ .online ∧
      road.pins.estop = false ∧ (road.vehicle 0).link = .online) ∧
    (road.chain 0 = [0] ∧ (road.vehicle 0).battery = none ∧
      (road.setVehicle 0 { tractor with battery := some 200 }).chain 0 = [0] ∧ road.limits.batteryFloor ≤ 200) ∧
    ((oneLane.setZone 0 ⟨true, 10, 20, ⟨60, false, true, false, false, 1⟩⟩).crossingReason (some 9) (some 10) .driver =
        some .entryClosed ∧
      ((inLane ⟨[⟨.vehicle 9, true⟩], []⟩ (some 9) (some 10)).lookupOf (some 10) = some 0 ∧
        (inLane ⟨[⟨.vehicle 9, true⟩], []⟩ (some 9) (some 10)).lookupOf (some 9) ≠ some 0)) ∧
    ((junction.convoy 0).members = ⟨0, 1, 1, .absent, 1⟩ :: [⟨2, 1, 4, .unknown, 1⟩, ⟨3, 1, 4, .unknown, 0⟩] ∧
      (junction.convoy 0).members = ⟨0, 1, 1, .absent, 1⟩ :: ([] ++ ⟨2, 1, 4, .unknown, 1⟩ :: [⟨3, 1, 4, .unknown, 0⟩]) ∧
      junction.isJunction (junction.vehicle 2).ahead = true ∧ (junction.vehicle 2).convoy = some 0) ∧
    (((bound .armed).bindingOn (.vehicle 0)).map Binding.aux = some 7 ∧ road.bindingOn (.vehicle 1) = none ∧
      tentative.foremost 1 = 0 ∧ road.foremost 1 = 1) := by decide +kernel

theorem junction_rangesApart : junction.rangesApart := by
  have h : ∀ r, r ≠ 0 → (junction.zone r).valid = false := by decide +kernel
  intro a b hab g hg
  by_cases e : a = 0
  · simp [Range.covers, h b (fun x => hab (e.trans x.symm))] at hg
  · simp [Range.covers, h a e] at hg

theorem test_witness_CrossingReasonFollowsRoadRules :
    junction.rangesApart ∧
      ((junction.zone 0).valid = true ∧ (junction.zone 0).first ≤ 20 ∧ 20 ≤ (junction.zone 0).last ∧
        (junction.zone 0).rules.junction = true ∧ junction.isJunction (some 20) = true ∧
        oneLane.isJunction (some 20) = false) ∧
      oneLane.lookup 10 = some 0 ∧ oneLane.lookup 20 = some 0 ∧ oneLane.lookup 9 = none ∧ oneLane.lookup 21 = none :=
  ⟨junction_rangesApart, by decide +kernel⟩

theorem test_witness_PassedEntriesAreDropped :
    ((convoyOfThree .rolling).convoy 0).members ≠ [] ∧
      ∀ m ∈ ((convoyOfThree .rolling).convoy 0).members, m.cursor ≤ ((convoyOfThree .rolling).convoy 0).trail.length := by
  decide +kernel

/-! ### The round trips and the invariants -/

theorem test_witness_LinkFrameRoundTrip :
    (LinkFrame.mk 8 7 3 (List.replicate 128 0)).payload.length ≤ 128 ∧
      LinkFrame.parse (LinkFrame.mk 8 7 3 [1, 5]).encode = some ⟨8, 7, 3, [1, 5]⟩ := by decide +kernel

/-- A frame that is read; one with a wrong check, one with a segment value of no segment, one of a byte too many: none is. -/
theorem test_witness_RadioFrameRoundTrip :
    1 ≤ [(9 : Byte)].length ∧ (List.replicate 8 (9 : Byte)).length ≤ 8 ∧ ([] : List Byte).length ≤ 8 ∧
      RadioFrame.parse (RadioFrame.direct 12 [9]).encode = some (.direct 12 [9]) ∧
      RadioFrame.parse [5, 12, 1, 9, 0] = none ∧
      (let body : List Byte := [2, 12, 0, 4, 0, 255, 255, 0, 0]; RadioFrame.parse (body ++ [radioCheck body]) = none) ∧
      (let body : List Byte := [3, 0, 12, 0]; RadioFrame.parse (body ++ [radioCheck body]) = none) := by decide +kernel

/-- The road with a time tick waiting. -/
def ticking : State := { bound .armed with pending := [.timeCounterTick] }

theorem ticking_rangesApart : ticking.rangesApart := by
  have h : ∀ r, (ticking.zone r).valid = false := by decide +kernel
  intro a b _ g hg
  simp [Range.covers, h] at hg

theorem ticking_bindingsDistinct : ticking.bindingsDistinct := bound_distinct .armed

theorem ticking_withinCapacity : ticking.withinCapacity := by
  refine ⟨by decide +kernel, by decide +kernel, by decide +kernel, by decide +kernel, fun c => ?_, by decide +kernel,
    by decide +kernel, by decide +kernel, by decide +kernel⟩
  cases c <;> decide +kernel

theorem ticking_addressesApart : ticking.addressesApart := by
  have h : ∀ v w, v ≠ w → (ticking.vehicle v).valid = true → (ticking.vehicle w).valid = true →
      (ticking.vehicle v).address ≠ (ticking.vehicle w).address := by decide +kernel
  intro v w hvw hv hw ha
  exact absurd ha (h v w hvw hv hw)

/-- The one vehicle that a reply on channel A from address 13 names. -/
theorem test_witness_ReplyNamesOneVehicle :
    ticking.addressesApart ∧ ((ticking.vehicle 1).valid = true ∧ (ticking.vehicle 1).address = 13 ∧
      (ticking.vehicle 1).active.channel = .A ∧ (ticking.vehicle 1).inTransit = false) ∧ ticking.occupant .A 13 = some 1 ∧
      ticking.occupant .B 13 = none :=
  ⟨ticking_addressesApart, by decide +kernel⟩

theorem ticking_stringsSound : ticking.stringsSound := by
  have h : ∀ v, (ticking.vehicle v).attachedBehind = none := by decide +kernel
  have n : ∀ v f, ¬ticking.attached v f := fun v f => by unfold State.attached; rw [h]; simp
  have q : ticking.coupler = ⟨[], none⟩ := by decide +kernel
  refine ⟨fun v f a => absurd a (n v f), fun v _ f a => absurd a (n v f), fun v f _ a => absurd a (n v f), ?_, ?_⟩ <;>
    rw [q] <;> simp

/-- A step is taken from a state with a fleet and a binding, which meets every invariant (and the premise of the second clause
of ReadReturnsEntries). -/
theorem test_witness_invariants :
    (∃ t, step ticking = .next t) ∧ ticking.withinCapacity ∧ ticking.rangesApart ∧ ticking.bindingsDistinct ∧
      ticking.assignmentsApart ∧ ticking.addressesApart ∧ (∀ v, (ticking.vehicle v).shapingSound) ∧
      ticking.convoysSound ∧ ticking.fault.sound ∧ ticking.lanesSound ∧ ticking.stringsSound ∧
      (∀ v, (ticking.vehicle v).configSound) := by
  refine ⟨⟨_, rfl⟩, ticking_withinCapacity, ticking_rangesApart, ticking_bindingsDistinct, ?_, ticking_addressesApart, ?_,
    ?_, ?_, ?_, ticking_stringsSound, ?_⟩
  · unfold State.assignmentsApart Vehicle.claims; decide +kernel
  · unfold Vehicle.shapingSound; decide +kernel
  · unfold State.convoysSound Convoy.cursorsSound Convoy.fieldsSound Convoy.bandsSound; decide +kernel
  · have h : ticking.fault.record = none := by decide +kernel
    exact ⟨by decide +kernel, fun r hr => by rw [h] at hr; exact absurd hr (by simp)⟩
  · unfold State.lanesSound; decide +kernel
  · unfold Vehicle.configSound Assignment.inRange; decide +kernel

end Sys2Proof.Tests
end

/-! SUPPORT. What an event may do to the fleet: which records, claims and attachments it may loosen, and that loosening them
keeps assignments, addresses, strings and configurations sound (R3, R7, R8, R138). -/

namespace Sys2Proof.Machine

/-! ### One record -/

/-- The record y follows x: its identity is kept, it claims no assignment, occupies no channel and is attached behind no
vehicle that it did not before, and its configuration is still in range. -/
structure Vehicle.Follows (x y : Vehicle) : Prop where
  valid : y.valid = x.valid
  kind : y.kind = x.kind
  address : y.address = x.address
  claims : ∀ a ∈ y.claims, a ∈ x.claims
  occupies : x.valid = true → ∀ c, y.occupies c = true → x.occupies c = true
  attached : ∀ f, y.attachedBehind.map Prod.fst = some f → x.attachedBehind.map Prod.fst = some f
  config : x.configSound → y.configSound

theorem Vehicle.Follows.refl (x : Vehicle) : x.Follows x :=
  ⟨rfl, rfl, rfl, fun _ h => h, fun _ _ h => h, fun _ h => h, id⟩

theorem Vehicle.Follows.trans {x y z : Vehicle} (h : x.Follows y) (k : y.Follows z) : x.Follows z where
  valid := k.valid.trans h.valid
  kind := k.kind.trans h.kind
  address := k.address.trans h.address
  claims a ha := h.claims a (k.claims a ha)
  occupies hv c hc := h.occupies hv c (k.occupies (h.valid.trans hv) c hc)
  attached f hf := h.attached f (k.attached f hf)
  config hx := k.config (h.config hx)

/-- A record that is changed in no field that the fleet's soundness speaks of, but that an attachment may be gone. -/
theorem follows_of_fields {x y : Vehicle} (hv : y.valid = x.valid) (hk : y.kind = x.kind) (hd : y.address = x.address)
    (ha : y.active = x.active) (hs : y.staged = x.staged) (ht : y.inTransit = x.inTransit)
    (hr : (y.accelUp, y.accelDown, y.dwell, y.span, y.trim) = (x.accelUp, x.accelDown, x.dwell, x.span, x.trim))
    (hb : y.attachedBehind = none ∨ y.attachedBehind.map Prod.fst = x.attachedBehind.map Prod.fst) : x.Follows y where
  valid := hv
  kind := hk
  address := hd
  claims a h := by simpa [Vehicle.claims, hv, ha, hs, ht] using h
  occupies _ c h := by simpa [Vehicle.occupies, ha, hs, ht] using h
  attached f h := by
    rcases hb with hb | hb
    · simp [hb] at h
    · rw [← hb]; exact h
  config h := by
    simp only [Prod.mk.injEq] at hr
    obtain ⟨h1, h2, h3, h4, h5⟩ := hr
    simpa only [Vehicle.configSound, hd, ha, hs, h1, h2, h3, h4, h5] using h

theorem follows_detached (x : Vehicle) : x.Follows { x with attachedBehind := none } :=
  follows_of_fields rfl rfl rfl rfl rfl rfl rfl (.inl rfl)

theorem follows_atRest (x : Vehicle) : x.Follows x.atRest := follows_of_fields rfl rfl rfl rfl rfl rfl rfl (.inr rfl)

theorem follows_goLost (x : Vehicle) : x.Follows x.goLost := follows_of_fields rfl rfl rfl rfl rfl rfl rfl (.inr rfl)

theorem follows_missed (x : Vehicle) (n : Nat) : x.Follows { x with misses := n } :=
  follows_of_fields rfl rfl rfl rfl rfl rfl rfl (.inr rfl)

theorem follows_withAck (x : Vehicle) (a : Ack) : x.Follows (x.withAck a) :=
  follows_of_fields rfl rfl rfl rfl rfl rfl rfl (.inr rfl)

theorem follows_withFrame (x : Vehicle) (f : Shaped) : x.Follows (x.withFrame f) :=
  follows_of_fields rfl rfl rfl rfl rfl rfl rfl (.inr rfl)

theorem follows_convoy (x : Vehicle) (c : Option ConvoyId) : x.Follows { x with convoy := c } :=
  follows_of_fields rfl rfl rfl rfl rfl rfl rfl (.inr rfl)

/-- A departure gives up the active assignment and keeps the staged one (R11). -/
theorem follows_depart (x : Vehicle) : x.Follows x.depart where
  valid := rfl
  kind := rfl
  address := rfl
  claims a h := by
    by_cases hv : x.valid = true
    · simp only [Vehicle.claims, Vehicle.depart, hv, if_true, List.nil_append] at h ⊢
      exact List.mem_append_right _ h
    · simp [Vehicle.claims, Vehicle.depart, hv] at h
  occupies _ c h := by
    simp only [Vehicle.occupies, Vehicle.depart, Bool.not_true, Bool.and_false, Bool.false_or] at h
    simp [Vehicle.occupies, of_decide_eq_true h]
  attached _ h := h
  config h := h

/-- An arrival makes the staged assignment the active one (R12). -/
theorem follows_arrive {x : Vehicle} {a : Assignment} (hs : x.staged = some a) : x.Follows (x.arrive a) := by
  have hc : (x.arrive a).claims = if x.valid then [a] else [] := by
    unfold Vehicle.arrive Vehicle.claims
    split <;> simp
  have ho (c : Channel) : (x.arrive a).occupies c = decide (a.channel = c) := by
    unfold Vehicle.arrive Vehicle.occupies
    split <;> simp
  have hk : (x.arrive a).valid = x.valid ∧ (x.arrive a).kind = x.kind ∧ (x.arrive a).address = x.address ∧
      (x.arrive a).attachedBehind = x.attachedBehind := by
    unfold Vehicle.arrive
    split <;> exact ⟨rfl, rfl, rfl, rfl⟩
  obtain ⟨hv, hkind, haddr, hatt⟩ := hk
  refine ⟨hv, hkind, haddr, fun b hb => ?_, fun _ c h => ?_, fun f h => hatt ▸ h, fun h => ?_⟩
  · rw [hc] at hb
    by_cases hx : x.valid = true
    · simp only [hx, if_true, List.mem_singleton] at hb
      simp [Vehicle.claims, hx, hs, hb]
    · simp [hx] at hb
  · rw [ho] at h
    simp [Vehicle.occupies, hs, of_decide_eq_true h]
  · unfold Vehicle.arrive
    split <;> exact ⟨h.2.1 a hs, by simp, h.2.2⟩

theorem follows_acquireAt (x : Vehicle) (c : Channel) : x.Follows (x.acquireAt c) := by
  unfold Vehicle.acquireAt
  split
  · exact follows_of_fields rfl rfl rfl rfl rfl rfl rfl (.inr rfl)
  · exact .refl x

theorem follows_stagingAt (x : Vehicle) (c : Channel) : x.Follows (x.stagingAt c) := by
  unfold Vehicle.stagingAt
  split
  case h_2 => exact .refl x
  case h_1 a hs =>
    split
    · split
      · exact follows_arrive hs
      · exact .refl x
    · split
      · split
        · exact follows_arrive hs
        · exact follows_depart x
      · exact .refl x

theorem follows_cycleStart (x : Vehicle) (c : Channel) : x.Follows (x.cycleStart c) := by
  unfold Vehicle.cycleStart
  split
  · exact (follows_stagingAt x c).trans (follows_acquireAt _ c)
  · exact .refl x

theorem follows_channelLost (x : Vehicle) (c : Channel) (leaves : Bool) : x.Follows (x.channelLost c leaves) := by
  have hlost : x.Follows (if x.losesChannel c then x.goLost else x) := by
    split
    · exact follows_goLost x
    · exact .refl x
  unfold Vehicle.channelLost
  dsimp only
  split
  · exact hlost.trans (follows_depart _)
  · exact hlost

/-- A record that is not valid claims nothing, and OFF keeps its configuration (R14). -/
theorem follows_reachOff {x : Vehicle} (hv : x.valid = false) : x.Follows x.reachOff where
  valid := rfl
  kind := rfl
  address := rfl
  claims a h := by simp [Vehicle.claims, Vehicle.reachOff, Vehicle.blankState, hv] at h
  occupies h := by simp [hv] at h
  attached f h := by simp [Vehicle.reachOff, Vehicle.blankState, Vehicle.blank] at h
  config h := ⟨h.1, by simp [Vehicle.reachOff, Vehicle.blankState, Vehicle.blank], h.2.2⟩

/-! ### The whole fleet -/

/-- Whatever the fleet's soundness says of s, it says of t too. -/
structure State.KeepsFleet (s t : State) : Prop where
  assignments : s.assignmentsApart → t.assignmentsApart
  addresses : s.addressesApart → t.addressesApart
  strings : s.stringsSound → t.stringsSound
  config : (∀ v, (s.vehicle v).configSound) → ∀ v, (t.vehicle v).configSound

theorem State.KeepsFleet.trans {s t u : State} (h : s.KeepsFleet t) (k : t.KeepsFleet u) : s.KeepsFleet u :=
  ⟨k.assignments ∘ h.assignments, k.addresses ∘ h.addresses, k.strings ∘ h.strings, k.config ∘ h.config⟩

/-- The identification in flight is that of a queued vehicle (R143). -/
def Coupler.identQueued (c : Coupler) : Prop := ∀ i ∈ c.ident, i.subject ∈ c.queue

/-- Every record of t follows that of s, no vehicle has joined the identification queue, and the identification in flight is
still that of a queued vehicle. -/
structure State.Loosens (s t : State) : Prop where
  vehicles : ∀ v, (s.vehicle v).Follows (t.vehicle v)
  queue : ∀ x ∈ t.coupler.queue, x ∈ s.coupler.queue
  ident : s.coupler.identQueued → t.coupler.identQueued

theorem State.Loosens.trans {s t u : State} (h : s.Loosens t) (k : t.Loosens u) : s.Loosens u :=
  ⟨fun v => (h.vehicles v).trans (k.vehicles v), fun x hx => h.queue x (k.queue x hx), k.ident ∘ h.ident⟩

theorem loosens_of_vehicles {s t : State} (hv : ∀ v, (s.vehicle v).Follows (t.vehicle v)) (hc : t.coupler = s.coupler) :
    s.Loosens t :=
  ⟨hv, fun _ hx => hc ▸ hx, fun h => hc ▸ h⟩

/-- An event that touches neither the Vehicle Table nor the Coupling Identifier. -/
theorem loosens_of_same {s t : State} (hv : t.vehicles = s.vehicles) (hc : t.coupler = s.coupler) : s.Loosens t :=
  loosens_of_vehicles (fun v => by simpa only [State.vehicle, hv] using Vehicle.Follows.refl _) hc

theorem State.Loosens.refl (s : State) : s.Loosens s := loosens_of_same rfl rfl

theorem loosens_setVehicle {s : State} {v : VehicleId} {y : Vehicle} (h : (s.vehicle v).Follows y) :
    s.Loosens (s.setVehicle v y) := by
  refine loosens_of_vehicles (fun w => ?_) rfl
  rw [vehicle_setVehicle]
  split
  · rename_i e; exact e ▸ h
  · exact .refl _

theorem loosens_mapVehicles (s : State) {f : VehicleId → Vehicle → Vehicle} (h : ∀ v (x : Vehicle), x.Follows (f v x)) :
    s.Loosens (s.mapVehicles f) :=
  loosens_of_vehicles (fun v => by rw [vehicle_mapVehicles_same]; exact h v _) rfl

/-- A fleet that is loosened stays sound. -/
theorem State.Loosens.keepsFleet {s t : State} (h : s.Loosens t) : s.KeepsFleet t where
  assignments hs v w hvw a ha b hb := hs v w hvw a ((h.vehicles v).claims a ha) b ((h.vehicles w).claims b hb)
  addresses hs v w hvw hv hw he c := by
    rw [(h.vehicles v).valid] at hv
    rw [(h.vehicles w).valid] at hw
    rw [(h.vehicles v).address, (h.vehicles w).address] at he
    rintro ⟨k1, k2⟩
    exact hs v w hvw hv hw he c ⟨(h.vehicles v).occupies hv c k1, (h.vehicles w).occupies hw c k2⟩
  strings hs := by
    obtain ⟨hends, hone, hfront, hqueue, hident⟩ := hs
    have hatt (v f) (k : t.attached v f) : s.attached v f := (h.vehicles v).attached f k
    refine ⟨fun v f k => ?_, fun v w f k1 k2 => hone v w f (hatt v f k1) (hatt w f k2), fun v f g k1 k2 => ?_, fun x hx => ?_,
      h.ident hident⟩
    · obtain ⟨h1, h2, h3, h4⟩ := hends v f (hatt v f k)
      exact ⟨(h.vehicles v).valid.trans h1, (h.vehicles v).kind.trans h2, (h.vehicles f).valid.trans h3,
        fun hf => h4 (h.queue f hf)⟩
    · exact (h.vehicles g).kind.trans (hfront v f g (hatt v f k1) (hatt f g k2))
    · exact (h.vehicles x).valid.trans (hqueue x (h.queue x hx))
  config hs v := (h.vehicles v).config (hs v)

theorem keepsFleet_of_same {s t : State} (hv : t.vehicles = s.vehicles) (hc : t.coupler = s.coupler) : s.KeepsFleet t :=
  (loosens_of_same hv hc).keepsFleet

theorem State.KeepsFleet.refl (s : State) : s.KeepsFleet s := (State.Loosens.refl s).keepsFleet

/-- The end of an event changes no vehicle and no identification. -/
theorem keepsFleet_settle {s : State} {w : Work} (h : s.KeepsFleet w.state) : s.KeepsFleet w.settle := by
  obtain ⟨u, q, n, e, -⟩ := settle_spec w
  exact h.trans (keepsFleet_of_same (by rw [e]) (by rw [e]))

/-- A command answered at once keeps the fleet sound where its effect does. -/
theorem keepsFleet_atOnce {s : State} {code : Byte} {run : List Byte → State → Done}
    (h : ∀ args, s.KeepsFleet (run args s).state) : s.KeepsFleet (atOnce code run s) := by
  unfold atOnce
  split
  · rename_i e args _
    exact keepsFleet_settle ((h args).trans (keepsFleet_of_same rfl rfl))
  · exact .refl s

end Sys2Proof.Machine

namespace Sys2Proof.Machine

/-! ### The Coupling Identifier -/

theorem identQueued_leave {s : State} (x : VehicleId) (h : s.coupler.identQueued) :
    (s.leaveIdentQueue x).coupler.identQueued := by
  intro i hi
  simp only [State.leaveIdentQueue, Option.mem_def] at hi ⊢
  split at hi
  · rename_i j hj
    split at hi
    · simp at hi
    · rename_i hne
      obtain rfl := Option.some.inj hi
      exact List.mem_filter.mpr ⟨h j hj, by simpa using hne⟩
  · simp at hi

theorem loosens_leaveIdentQueue (s : State) (x : VehicleId) : s.Loosens (s.leaveIdentQueue x) :=
  ⟨fun _ => .refl _, fun _ h => List.mem_of_mem_filter h, identQueued_leave x⟩

theorem onlyPolls_vehicles {s t : State} (h : OnlyPolls s t) : t.vehicles = s.vehicles := by rw [h.1]

/-- A round begins for a queued vehicle (R144). -/
theorem loosens_beginRound {s : State} {x : VehicleId} (n : Nat)
    (hx : s.coupler.identQueued → x ∈ s.coupler.queue) : s.Loosens (s.beginRound x n) where
  vehicles v := by
    simpa only [State.vehicle, onlyPolls_vehicles (onlyPolls_beginRound s x n)] using Vehicle.Follows.refl _
  queue _ h := h
  ident h i hi := by
    obtain rfl : _ = i := Option.some.inj hi
    exact hx h

theorem loosens_startIdent (n : Nat) (s : State) : s.Loosens (startIdent n s).1 := by
  induction n generalizing s with
  | zero => exact .refl s
  | succ n ih =>
    unfold startIdent
    split
    · exact .refl s
    · split
      · exact .refl s
      · rename_i x hx
        split
        · exact (loosens_leaveIdentQueue s x).trans (ih _)
        · exact loosens_beginRound 1 fun _ => List.mem_of_find?_eq_some hx

theorem loosens_judgeStart (s : State) : s.Loosens s.judgeStart.1 := loosens_startIdent _ s

theorem loosens_detach (s : State) (v : VehicleId) : s.Loosens (s.detach v) := loosens_setVehicle (follows_detached _)

theorem loosens_detachAll (vs : List VehicleId) (s : State) : s.Loosens (s.detachAll vs) := by
  refine loosens_of_vehicles (fun w => ?_) (by rw [detachAll_frame])
  rw [detachAll_vehicle]
  split
  · exact follows_detached _
  · exact .refl _

theorem loosens_cancelEntry (s : State) (x : VehicleId) : s.Loosens (s.cancelEntry x) := by
  unfold State.cancelEntry
  dsimp only
  refine State.Loosens.trans (loosens_of_same ?_ ?_) (loosens_leaveIdentQueue _ x) <;> split <;> split <;> rfl

theorem loosens_kingpinRelease (s : State) (y : VehicleId) : s.Loosens (s.kingpinRelease y).1 := by
  unfold State.kingpinRelease
  split
  · exact ((loosens_detachAll _ s).trans (loosens_detach _ y)).trans (loosens_judgeStart _)
  · exact .refl s

theorem loosens_opening (s : State) (x : VehicleId) : s.Loosens (s.opening x).1 :=
  ((loosens_detachAll _ s).trans (loosens_cancelEntry _ x)).trans (loosens_judgeStart _)

theorem attached_of_behind {s : State} {v w : VehicleId} (h : s.behind v = some w) : s.attached w v := behind_attached h

/-- Nothing is attached behind a vehicle that `behind` finds nothing behind. -/
theorem not_attached_of_behind {s : State} {v : VehicleId} (h : s.behind v = none) (w : VehicleId) : ¬s.attached w v := by
  unfold State.attached
  simpa using List.find?_eq_none.mp h w (List.mem_finRange w)

/-- A valid vehicle with nothing behind it joins the identification queue (R140). -/
theorem keepsFleet_enqueue {s : State} {x : VehicleId} (hx : (s.vehicle x).valid = true) (hb : s.behind x = none) :
    s.KeepsFleet { s with coupler := { s.coupler with queue := s.coupler.queue ++ [x] } } := by
  refine ⟨id, id, fun hs => ?_, id⟩
  obtain ⟨hends, hone, hfront, hqueue, hident⟩ := hs
  refine ⟨fun v f h => ?_, hone, hfront, fun y hy => ?_, fun i hi => List.mem_append_left _ (hident i hi)⟩
  · obtain ⟨h1, h2, h3, h4⟩ := hends v f h
    refine ⟨h1, h2, h3, fun hf => ?_⟩
    rcases List.mem_append.mp hf with hf | hf
    · exact h4 hf
    · obtain rfl := List.mem_singleton.mp hf
      exact not_attached_of_behind hb v h
  · rcases List.mem_append.mp hy with hy | hy
    · exact hqueue y hy
    · exact List.mem_singleton.mp hy ▸ hx

theorem keepsFleet_closure {s : State} {x : VehicleId} (hx : (s.vehicle x).valid = true) : s.KeepsFleet (s.closure x).1 := by
  unfold State.closure
  split
  · exact .refl s
  · rename_i hb
    split
    · exact .refl s
    · exact (keepsFleet_enqueue hx (by simpa using hb)).trans (loosens_judgeStart _).keepsFleet

theorem keepsFleet_couplerAck {s : State} {x : VehicleId} (before : Vehicle) (hx : (s.vehicle x).valid = true) :
    s.KeepsFleet (s.couplerAck x before).1 := by
  have hrelease (released : Bool) : s.Loosens (if released then s.kingpinRelease x else (s, [])).1 := by
    split
    · exact loosens_kingpinRelease s x
    · exact .refl s
  unfold State.couplerAck
  dsimp only
  generalize ((s.vehicle x).kind = .trailer && before.kingpin && !(s.vehicle x).kingpin : Bool) = released
  refine (hrelease released).keepsFleet.trans ?_
  have hx1 := ((hrelease released).vehicles x).valid.trans hx
  generalize (if released then s.kingpinRelease x else (s, [])).1 = s1 at hx1
  split
  · exact (loosens_opening s1 x).keepsFleet
  · split
    · exact keepsFleet_closure hx1
    · exact .refl s1

/-- A CONFIRMED decision keeps the attachment (R148). -/
theorem loosens_confirmBehind {s : State} {x w : VehicleId} (h : s.tentativeBehind x = some w) :
    s.Loosens (State.confirmBehind x w s) := by
  have hw : s.behind x = some w := by
    unfold State.tentativeBehind at h
    split at h
    · rename_i y hy
      split at h
      · rw [← h]; exact hy
      · simp at h
    · simp at h
  exact loosens_setVehicle (follows_of_fields rfl rfl rfl rfl rfl rfl rfl (.inr (behind_attached hw).symm))

theorem keepsFleet_runDecision {decide : VehicleId → VehicleId → State → State} {s : State}
    (h : ∀ x w, s.tentativeBehind x = some w → s.Loosens (decide x w s)) (args : List Byte) :
    s.KeepsFleet (runDecision decide args s).state := by
  unfold runDecision
  split
  · split
    · split
      · rename_i x _ _ w hw
        exact ((h x w hw).trans (loosens_judgeStart _)).keepsFleet
      · exact .refl s
    · exact .refl s
  · exact .refl s

/-! ### The end of a round -/

/-- The vehicle that a channel and an address name is valid (R145). -/
theorem occupant_valid {s : State} {c : Channel} {address : Byte} {y : VehicleId} (h : s.occupant c address = some y) :
    (s.vehicle y).valid = true := by
  have := List.find?_some h
  simp only [Bool.and_eq_true] at this
  exact this.1.1

theorem mem_forwardBy (s : State) (n : Nat) (v : VehicleId) : v ∈ s.forwardBy n v := by
  cases n with
  | zero => simp [State.forwardBy]
  | succ n => unfold State.forwardBy; split <;> simp

/-- What stands in front of an attached vehicle. -/
theorem forwardBy_attached {s : State} {v f : VehicleId} (n : Nat) (h : s.attached v f) :
    s.forwardBy (n + 1) v = v :: s.forwardBy n f := by
  obtain ⟨⟨g, st⟩, hg, rfl⟩ := Option.map_eq_some_iff.mp h
  simp [State.forwardBy, hg]

theorem mem_forwardBy_attached {s : State} {v f : VehicleId} (h : s.attached v f) : f ∈ s.forwardBy 64 v := by
  rw [forwardBy_attached 63 h]
  exact List.mem_cons_of_mem _ (mem_forwardBy s 63 f)

theorem trailerCount_eq (s : State) (vs : List VehicleId) :
    s.trailerCount vs = vs.countP (fun w => (s.vehicle w).kind = .trailer) := by
  rw [List.countP_eq_length_filter]; rfl

/-- A trailer that a list begins with counts. -/
theorem trailerCount_cons {s : State} {v : VehicleId} (vs : List VehicleId) (h : (s.vehicle v).kind = .trailer) :
    s.trailerCount (v :: vs) = s.trailerCount vs + 1 := by
  simp [State.trailerCount, h]

theorem trailerCount_pos {s : State} {v : VehicleId} {vs : List VehicleId} (hm : v ∈ vs)
    (h : (s.vehicle v).kind = .trailer) : 1 ≤ s.trailerCount vs := by
  rw [trailerCount_eq]
  exact List.countP_pos_iff.mpr ⟨v, hm, by simpa using h⟩

theorem suitable_parts {s : State} {x y : VehicleId} (h : s.suitable x y = true) :
    (s.vehicle y).kind = .trailer ∧ (s.vehicle y).attachedBehind = none ∧ y ∉ s.forwardBy 64 x ∧
      s.trailerCount (s.forwardBy 64 x) + s.trailerCount (y :: s.rear y) ≤ 2 := by
  simp only [State.suitable, Bool.and_eq_true, decide_eq_true_eq, Option.isNone_iff_eq_none, Bool.not_eq_true',
    List.contains_eq_mem, decide_eq_false_iff_not] at h
  obtain ⟨⟨⟨⟨hk, ha⟩, -⟩, hf⟩, hn⟩ := h
  exact ⟨hk, ha, hf, hn⟩

/-- What is in front of the subject of a suitable trailer, by the count of trailers, is a tractor (R145, R138). -/
theorem suitable_front {s : State} {x y g : VehicleId} (hs : s.stringsSound) (h : s.suitable x y = true)
    (hx : s.attached x g) : (s.vehicle g).kind = .tractor := by
  obtain ⟨hk, -, -, hn⟩ := suitable_parts h
  cases hg : (s.vehicle g).kind with
  | tractor => rfl
  | trailer =>
    have hxk := (hs.1 x g hx).2.1
    have hfront : 1 ≤ s.trailerCount (s.forwardBy 63 g) := trailerCount_pos (mem_forwardBy s 63 g) hg
    rw [forwardBy_attached 63 hx, trailerCount_cons _ hxk, trailerCount_cons _ hk] at hn
    omega

/-- The subject of a suitable trailer with another behind it is a tractor (R145, R138). -/
theorem suitable_subject {s : State} {x y w : VehicleId} (hs : s.stringsSound) (h : s.suitable x y = true)
    (hw : s.attached w y) : (s.vehicle x).kind = .tractor := by
  obtain ⟨hk, -, -, hn⟩ := suitable_parts h
  cases hx : (s.vehicle x).kind with
  | tractor => rfl
  | trailer =>
    have hb : s.behind y = some w := by
      cases hb : s.behind y with
      | none => exact absurd hw (not_attached_of_behind hb w)
      | some z => rw [hs.2.1 z w y (attached_of_behind hb) hw]
    have hrear : w ∈ s.rear y := by simp [State.rear, State.rearBy, hb]
    have h1 := trailerCount_pos (mem_forwardBy s 64 x) hx
    have h2 := trailerCount_pos hrear (hs.1 w y hw).2.1
    rw [trailerCount_cons _ hk] at hn
    omega

/-- The attachment of a suitable trailer behind a queued vehicle, which leaves the queue (R145). -/
theorem keepsFleet_attach {s : State} {x y : VehicleId} (hx : s.coupler.identQueued → x ∈ s.coupler.queue)
    (hy : (s.vehicle y).valid = true) (h : s.suitable x y = true) :
    s.KeepsFleet ((s.setVehicle y { s.vehicle y with attachedBehind := some (x, .tentative) }).leaveIdentQueue x) := by
  set t := (s.setVehicle y { s.vehicle y with attachedBehind := some (x, .tentative) }).leaveIdentQueue x with ht
  have hveh (w) : t.vehicle w = if w = y then { s.vehicle y with attachedBehind := some (x, .tentative) } else s.vehicle w := by
    rw [← vehicle_setVehicle]; rfl
  have hsame (w) : (t.vehicle w).valid = (s.vehicle w).valid ∧ (t.vehicle w).kind = (s.vehicle w).kind ∧
      (t.vehicle w).address = (s.vehicle w).address ∧ (t.vehicle w).claims = (s.vehicle w).claims ∧
      (t.vehicle w).occupies = (s.vehicle w).occupies ∧ ((t.vehicle w).configSound ↔ (s.vehicle w).configSound) := by
    rw [hveh]
    split
    · rename_i e; subst e; exact ⟨rfl, rfl, rfl, rfl, rfl, Iff.rfl⟩
    · exact ⟨rfl, rfl, rfl, rfl, rfl, Iff.rfl⟩
  have hatt (w f) : t.attached w f ↔ (w = y ∧ f = x) ∨ (w ≠ y ∧ s.attached w f) := by
    unfold State.attached
    rw [hveh]
    by_cases e : w = y
    · simp [e, eq_comm]
    · simp [e]
  obtain ⟨hk, hna, hfw, -⟩ := suitable_parts h
  have hyx : x ≠ y := fun e => hfw (e ▸ mem_forwardBy s 64 x)
  refine ⟨fun hs v w hvw a ha b hb => ?_, fun hs v w hvw => ?_, fun hs => ?_, fun hs v => (hsame v).2.2.2.2.2.mpr (hs v)⟩
  · rw [(hsame v).2.2.2.1] at ha
    rw [(hsame w).2.2.2.1] at hb
    exact hs v w hvw a ha b hb
  · obtain ⟨v1, -, v3, -, v5, -⟩ := hsame v
    obtain ⟨w1, -, w3, -, w5, -⟩ := hsame w
    rw [v1, v3, v5, w1, w3, w5]
    exact hs v w hvw
  · have hall := hs
    obtain ⟨hends, hone, hfront, hqueue, hident⟩ := hs
    replace hx := hx hident
    refine ⟨fun v f hv => ?_, fun v w f hv hw => ?_, fun v f g hv hf => ?_, fun z hz => ?_, identQueued_leave x hident⟩
    · rw [(hsame v).1, (hsame v).2.1, (hsame f).1]
      rcases (hatt v f).mp hv with ⟨rfl, rfl⟩ | ⟨-, hv⟩
      · exact ⟨hy, hk, hqueue _ hx, by simp [ht, State.leaveIdentQueue]⟩
      · obtain ⟨h1, h2, h3, h4⟩ := hends v f hv
        exact ⟨h1, h2, h3, fun hf => h4 (List.mem_of_mem_filter hf)⟩
    · have hfree (w) (hw : s.attached w x) : False := (hends w x hw).2.2.2 hx
      rcases (hatt v f).mp hv with ⟨rfl, rfl⟩ | ⟨-, kv⟩ <;> rcases (hatt w f).mp hw with ⟨rfl, e⟩ | ⟨-, kw⟩
      · rfl
      · exact (hfree w kw).elim
      · exact (hfree v (e ▸ kv)).elim
      · exact hone v w f kv kw
    · rw [(hsame g).2.1]
      rcases (hatt v f).mp hv with ⟨rfl, rfl⟩ | ⟨-, kv⟩ <;> rcases (hatt f g).mp hf with ⟨e, e2⟩ | ⟨-, kf⟩
      · exact absurd e hyx
      · exact suitable_front hall h kf
      · exact e2 ▸ suitable_subject hall h (e ▸ kv)
      · exact hfront v f g kv kf
    · rw [(hsame z).1]
      exact hqueue z (List.mem_of_mem_filter hz)

theorem keepsFleet_roundEnd {s : State} {i : Identification}
    (hi : s.coupler.identQueued → i.subject ∈ s.coupler.queue) :
    s.KeepsFleet (s.roundEnd i).1 := by
  unfold State.roundEnd
  split
  · rename_i y hy
    obtain ⟨-, d, address, -, hocc, hsuit⟩ := (roundCandidate_some s i y).mp hy
    exact (keepsFleet_attach hi (occupant_valid hocc) hsuit).trans (loosens_judgeStart _).keepsFleet
  · split
    · exact (loosens_beginRound _ hi).keepsFleet
    · exact ((loosens_leaveIdentQueue s _).trans (loosens_judgeStart _)).keepsFleet

end Sys2Proof.Machine

namespace Sys2Proof.Machine

/-- A channel's report ends the round of a queued vehicle, or is kept (R39, R144). -/
theorem keepsFleet_pollReport (s : State) (c : Channel) (replies : List Byte) (garbled : Bool) :
    s.KeepsFleet (s.pollReport c replies garbled).1 := by
  unfold State.pollReport
  split
  · rename_i i hi
    have hsubject (h : s.coupler.identQueued) : i.subject ∈ s.coupler.queue := h i hi
    split
    · dsimp only
      split
      · exact keepsFleet_roundEnd hsubject
      · refine State.Loosens.keepsFleet ⟨fun _ => .refl _, fun _ h => h, fun h j hj => ?_⟩
        obtain rfl : _ = j := Option.some.inj hj
        exact hsubject h
    · exact .refl s
  · exact .refl s

/-! ### Channels and slots -/

theorem loosens_setChannel (s : State) (c : Channel) (u : ChannelUnit) : s.Loosens (s.setChannel c u) :=
  loosens_of_same rfl rfl

theorem loosens_answerInFlight (s : State) (code : Byte) (a : Answer) : s.Loosens (s.answerInFlight code a).state := by
  unfold State.answerInFlight
  split
  · split <;> exact loosens_of_same rfl rfl
  · exact .refl s

theorem loosens_answerRestart (s : State) (c : Channel) (status : ReplyStatus) :
    s.Loosens (s.answerRestart c status).state := by
  unfold State.answerRestart
  split
  · exact loosens_answerInFlight s _ _
  · exact .refl s

theorem loosens_beginCycle (s : State) (c : Channel) (counter : Nat) : s.Loosens (s.beginCycle c counter) :=
  (loosens_setChannel s c _).trans (loosens_mapVehicles _ fun _ x => follows_cycleStart x c)

theorem loosens_lockReport (s : State) (c : Channel) : s.Loosens (s.lockReport c) := by
  unfold State.lockReport
  split
  case h_1 => exact loosens_setChannel s c _
  case h_2 => exact (loosens_setChannel s c _).trans (loosens_beginCycle _ c _)
  all_goals exact .refl s

theorem loosens_failed (s : State) (c : Channel) (u : ChannelUnit) (ls : List Latch) :
    s.Loosens ((s.setChannel c u).enterFailed c ls).state :=
  (loosens_setChannel s c u).trans (loosens_answerRestart _ c .failed)

theorem loosens_passTest (s : State) (c : Channel) : s.Loosens (s.passTest c).state :=
  ((loosens_setChannel s c _).trans (loosens_beginCycle _ c 0)).trans (loosens_answerRestart _ c .ok)

theorem loosens_pick (s : State) (n : Nat) : s.Loosens (s.pick n).2 := by
  rw [pick_state]
  exact loosens_of_same rfl rfl

theorem loosens_lockLostInTest (s : State) (c : Channel) (returned : List Byte) :
    s.Loosens (s.lockLostInTest c returned).state := by
  unfold State.lockLostInTest
  dsimp only
  split
  · exact loosens_failed s c _ _
  · split
    · exact loosens_failed s c _ _
    · exact (loosens_pick s 8).trans (loosens_failed _ c _ _)

theorem loosens_endVehicleSlot (s : State) (f : Option SlotFlight) : s.Loosens (s.endVehicleSlot f) := by
  unfold State.endVehicleSlot
  split
  · split
    · exact .refl s
    · rename_i h
      exact loosens_setVehicle (follows_reachOff (by simpa using h))
  · exact .refl s

theorem loosens_vehiclesLoseChannel (s : State) (c : Channel) (leaves : Bool) :
    s.Loosens (s.vehiclesLoseChannel c leaves) :=
  loosens_of_vehicles (fun v => by rw [vehiclesLoseChannel_vehicle]; exact follows_channelLost _ c leaves)
    (by rw [vehiclesLoseChannel_frame])

theorem keepsFleet_leaveServing (s : State) (c : Channel) (old : ChannelUnit) :
    s.KeepsFleet (s.leaveServing c old).state := by
  obtain ⟨t, ht⟩ : ∃ t, t =
      ((s.setChannel c (s.channel c).clearSlots).endVehicleSlot old.flight).vehiclesLoseChannel c true := ⟨_, rfl⟩
  have hleft : s.Loosens t := ht ▸ ((loosens_setChannel s c _).trans (loosens_endVehicleSlot _ old.flight)).trans
    (loosens_vehiclesLoseChannel _ c true)
  rw [leaveServing_eq s t c old ht]
  refine hleft.keepsFleet.trans ?_
  have hreport : t.KeepsFleet (if old.pollOpen then t.pollReport c [] false else (t, [])).1 := by
    split
    · exact keepsFleet_pollReport t c [] false
    · exact .refl t
  refine hreport.trans ?_
  dsimp only
  generalize (if old.pollOpen then t.pollReport c [] false else (t, [])).1 = r
  split
  · exact (loosens_answerInFlight _ _ _).keepsFleet
  · exact .refl _

theorem keepsFleet_lockLostReport (s : State) (c : Channel) (returned : List Byte) :
    s.KeepsFleet (s.lockLostReport c returned).state := by
  unfold State.lockLostReport
  split
  case h_1 => exact (loosens_setChannel s c _).keepsFleet.trans (keepsFleet_leaveServing _ c _)
  case h_2 => exact (loosens_lockLostInTest s c returned).keepsFleet
  all_goals exact .refl s

theorem keepsFleet_restartChannel (s : State) (c : Channel) : s.KeepsFleet (s.restartChannel c).state := by
  have hlocking : s.Loosens ((s.enterLocking c).setChannel c { (s.enterLocking c).channel c with counter := 0, testFrame := 0 }) :=
    (loosens_setChannel s c _).trans (loosens_setChannel _ c _)
  unfold State.restartChannel
  dsimp only
  refine hlocking.keepsFleet.trans ?_
  generalize (s.enterLocking c).setChannel c { (s.enterLocking c).channel c with counter := 0, testFrame := 0 } = t
  have hquiet : t.Loosens ((t.setChannel c (t.channel c).clearSlots).vehiclesLoseChannel c false) :=
    (loosens_setChannel t c _).trans (loosens_vehiclesLoseChannel _ c false)
  split
  · exact keepsFleet_leaveServing t c _
  · dsimp only
    exact hquiet.keepsFleet

theorem loosens_loseMembers (s : State) (lost : List VehicleId) : s.Loosens (s.loseMembers lost) := by
  obtain ⟨n, ks, h, -⟩ := loseMembers_spec s lost
  rw [h]
  exact loosens_of_same rfl rfl

theorem loosens_miss (s : State) (v : VehicleId) : s.Loosens (s.miss v).state := by
  have hcounted := follows_missed (s.vehicle v) (min 15 ((s.vehicle v).misses + 1))
  unfold State.miss
  dsimp only
  split
  · dsimp only
    exact (loosens_setVehicle (hcounted.trans (follows_goLost _))).trans (loosens_loseMembers _ [v])
  · exact loosens_setVehicle (follows_missed _ _)

theorem keepsFleet_validAck {s : State} {v : VehicleId} (a : Ack) (hv : (s.vehicle v).valid = true) :
    s.KeepsFleet (s.validAck v a).state := by
  have hack : s.Loosens (s.setVehicle v ((s.vehicle v).withAck a)) := loosens_setVehicle (follows_withAck _ a)
  have hconvoy (t : State) (b : Option Segment) : t.Loosens (t.convoyAck v b).1 := by
    rw [(convoyAck_spec t v b).1]
    exact loosens_of_same rfl rfl
  have hlane (t : State) : t.Loosens (t.laneAck v).1 := by
    rw [(laneAck_spec t v).1]
    exact loosens_of_same rfl rfl
  have hall := (hack.trans (hconvoy _ (s.vehicle v).current)).trans (hlane _)
  exact hall.keepsFleet.trans (keepsFleet_couplerAck _ ((hall.vehicles v).valid.trans hv))

theorem keepsFleet_slotOutcome (s : State) (v : VehicleId) (ack : Option Ack) :
    s.KeepsFleet (s.slotOutcome v ack).state := by
  unfold State.slotOutcome
  split
  · rename_i hv
    split
    · exact keepsFleet_validAck _ hv
    · exact (loosens_miss s v).keepsFleet
  · rename_i hv
    exact (loosens_setVehicle (follows_reachOff (by simpa using hv))).keepsFleet

/-! ### Convoys -/

theorem loosens_setConvoyOf (s : State) (v : VehicleId) (c : Option ConvoyId) : s.Loosens (s.setConvoyOf v c) :=
  loosens_setVehicle (follows_convoy _ c)

theorem loosens_setConvoy (s : State) (c : ConvoyId) (x : Convoy) : s.Loosens (s.setConvoy c x) := loosens_of_same rfl rfl

theorem loosens_runConvoyForm (args : List Byte) (s : State) : s.Loosens (runConvoyForm args s).state := by
  unfold runConvoyForm
  split
  · split
    · split
      · exact .refl s
      · split
        · exact .refl s
        · exact (loosens_setConvoy s _ _).trans (loosens_setConvoyOf _ _ _)
    · exact .refl s
  · exact .refl s

theorem loosens_runConvoyAdd (args : List Byte) (s : State) : s.Loosens (runConvoyAdd args s).state := by
  unfold runConvoyAdd
  split
  · dsimp only
    split
    · split
      · exact .refl s
      · split
        · exact .refl s
        · split
          · exact .refl s
          · exact (loosens_setConvoy s _ _).trans (loosens_setConvoyOf _ _ _)
    · exact .refl s
  · exact .refl s

theorem loosens_removeMember (s : State) (c : ConvoyId) (v : VehicleId) : s.Loosens (s.removeMember c v) := by
  unfold State.removeMember
  dsimp only
  split
  · exact ((loosens_setConvoy s _ _).trans (loosens_setConvoyOf _ _ _)).trans (loosens_of_same rfl rfl)
  · exact (loosens_setConvoy s _ _).trans (loosens_setConvoyOf _ _ _)

theorem loosens_runConvoyRemove (args : List Byte) (s : State) : s.Loosens (runConvoyRemove args s).state := by
  unfold runConvoyRemove
  split
  · split
    · split
      · exact .refl s
      · dsimp only
        split
        · exact .refl s
        · split
          · exact .refl s
          · exact loosens_removeMember s _ _
    · exact .refl s
  · exact .refl s

theorem loosens_runConvoyHold (args : List Byte) (s : State) : s.Loosens (runConvoyHold args s).state := by
  unfold runConvoyHold
  split
  · split
    · split
      · exact .refl s
      · exact loosens_setConvoy s _ _
    · exact .refl s
  · exact .refl s

theorem loosens_runConvoyResume (args : List Byte) (s : State) : s.Loosens (runConvoyResume args s).state := by
  unfold runConvoyResume
  split
  · split
    · split
      · exact .refl s
      · split
        · exact .refl s
        · exact loosens_setConvoy s _ _
    · exact .refl s
  · exact .refl s

theorem loosens_disbandConvoy (s : State) (c : ConvoyId) : s.Loosens (s.disbandConvoy c) := by
  have hfree : s.Loosens ((s.withdrawEverywhere (.convoy c)).setConvoy c .blank) := loosens_of_same rfl rfl
  unfold State.disbandConvoy
  refine hfree.trans (loosens_mapVehicles _ fun v x => ?_)
  split
  · exact follows_convoy x none
  · exact .refl x

theorem loosens_runConvoyDisband (args : List Byte) (s : State) : s.Loosens (runConvoyDisband args s).state := by
  unfold runConvoyDisband
  split
  · split
    · split
      · exact .refl s
      · split
        · exact .refl s
        · exact loosens_disbandConvoy s _
    · exact .refl s
  · exact .refl s

theorem loosens_runZoneRelease (args : List Byte) (s : State) : s.Loosens (runZoneRelease args s).state := by
  unfold runZoneRelease
  split
  · split
    · split
      · exact loosens_of_same rfl rfl
      · exact .refl s
    · exact .refl s
  · exact .refl s

/-! ### Management commands -/

theorem loosens_restarted (s : State) : s.Loosens s.restarted where
  vehicles v := by
    have : s.restarted.vehicle v = (s.vehicle v).atRest :=
      vehicle_mapVehicles_same (s.mapBindings Binding.disarm) (fun _ x => x.atRest) v
    rw [this]
    exact follows_atRest _
  queue _ h := by simp [State.restarted] at h
  ident _ i hi := by simp [State.restarted] at hi

theorem loosens_runNop (args : List Byte) (s : State) : s.Loosens (runNop args s).state := by
  unfold runNop
  split <;> exact .refl s

theorem loosens_runStatus (args : List Byte) (s : State) : s.Loosens (runStatus args s).state := by
  unfold runStatus
  split <;> exact .refl s

theorem loosens_runRead (args : List Byte) (s : State) : s.Loosens (runRead args s).state := by
  unfold runRead
  split <;> exact .refl s

theorem loosens_runFaultRead (args : List Byte) (s : State) : s.Loosens (runFaultRead args s).state := by
  unfold runFaultRead
  split <;> exact .refl s

theorem loosens_runFaultClear (args : List Byte) (s : State) : s.Loosens (runFaultClear args s).state := by
  unfold runFaultClear
  split
  · dsimp only
    split
    · exact .refl s
    · exact loosens_of_same rfl rfl
  · exact .refl s

theorem loosens_runStopAll (args : List Byte) (s : State) : s.Loosens (runStopAll args s).state := by
  unfold runStopAll
  split
  · exact loosens_of_same rfl rfl
  · exact .refl s

theorem loosens_runRestart (args : List Byte) (s : State) : s.Loosens (runRestart args s).state := by
  unfold runRestart
  split
  · exact loosens_restarted s
  · exact .refl s

/-! ### Link frames -/

theorem keepsFleet_unbound (s : State) (source : Byte) (group : Nat) (cls : Byte) :
    s.KeepsFleet (s.unbound source group cls) := by
  unfold State.unbound
  split
  · exact .refl s
  · refine keepsFleet_settle ?_
    rw [offerFrame_eq]
    exact keepsFleet_of_same rfl rfl

theorem keepsFleet_receiveDrive (s : State) (destination source : Byte) (payload : List Byte) :
    s.KeepsFleet (s.receiveDrive destination source payload) := by
  unfold State.receiveDrive
  split
  · split
    · split
      · exact keepsFleet_of_same rfl rfl
      · exact keepsFleet_unbound s _ _ _
    · exact .refl s
  · exact .refl s

theorem keepsFleet_receiveAux (s : State) (destination source : Byte) (payload : List Byte) :
    s.KeepsFleet (s.receiveAux destination source payload) := by
  unfold State.receiveAux
  split
  · split
    · split
      · exact keepsFleet_of_same rfl rfl
      · exact keepsFleet_unbound s _ _ _
    · exact .refl s
  · exact .refl s

theorem keepsFleet_receiveMgmt (s : State) (destination source : Byte) (payload : List Byte) :
    s.KeepsFleet (s.receiveMgmt destination source payload) := by
  unfold State.receiveMgmt
  split
  · dsimp only
    split
    · split
      · exact keepsFleet_of_same rfl rfl
      · exact .refl s
    · split
      · exact keepsFleet_of_same rfl rfl
      · rw [offerFrame_eq]
        exact keepsFleet_of_same rfl rfl
  · exact .refl s

end Sys2Proof.Machine

namespace Sys2Proof.Machine

/-! ### A vehicle entry (R5 to R13) -/

/-- An entry that is not refused passes checks 2 to 6 of R5. -/
theorem vehicleRefusal_none {s : State} {v : VehicleId} {cfg : VehicleConfig} (h : s.vehicleRefusal v cfg = none)
    (hv : cfg.valid = true) :
    (cfg.kind ≠ (s.vehicle v).kind → s.blocksKindChange v = false) ∧ s.duplicates v cfg = false ∧
      s.collidesWithOther v cfg.assignment = false := by
  unfold State.vehicleRefusal at h
  simp only [hv, Bool.true_and, Bool.not_true, Bool.false_and, Bool.false_eq_true, if_false] at h
  split at h
  · simp at h
  · split at h
    · simp at h
    · rename_i hk
      split at h
      · simp at h
      · rename_i hd
        split at h
        · simp at h
        · rename_i hc
          refine ⟨fun hne => ?_, by simpa using hd, by simpa using hc⟩
          simpa [hne] using hk

theorem mem_claims {x : Vehicle} {a : Assignment} :
    a ∈ x.claims ↔ x.valid = true ∧ ((x.inTransit = false ∧ a = x.active) ∨ x.staged = some a) := by
  unfold Vehicle.claims
  by_cases hv : x.valid = true
  · cases x.inTransit <;> simp [hv]
  · simp [hv]

theorem occupies_iff (x : Vehicle) (c : Channel) :
    x.occupies c = true ↔ (x.inTransit = false ∧ x.active.channel = c) ∨ ∃ a ∈ x.staged, a.channel = c := by
  simp [Vehicle.occupies, and_comm]

/-- Check 6 of R5, by what the others claim. -/
theorem collidesWithOther_iff (s : State) (v : VehicleId) (a : Assignment) :
    s.collidesWithOther v a = true ↔ ∃ w, w ≠ v ∧ ∃ b ∈ (s.vehicle w).claims, a.collides b = true := by
  simp only [State.collidesWithOther, indices, List.any_eq_true, List.mem_finRange, true_and, Bool.and_eq_true,
    decide_eq_true_eq, Bool.or_eq_true, Bool.not_eq_true']
  refine exists_congr fun w => ?_
  rw [and_assoc]
  refine and_congr_right fun _ => ?_
  constructor
  · rintro ⟨hv, ⟨ht, hc⟩ | hc⟩
    · exact ⟨_, mem_claims.mpr ⟨hv, .inl ⟨ht, rfl⟩⟩, hc⟩
    · cases hs : (s.vehicle w).staged with
      | none => simp [hs] at hc
      | some b => exact ⟨b, mem_claims.mpr ⟨hv, .inr hs⟩, by simpa [hs] using hc⟩
  · rintro ⟨b, hb, hc⟩
    obtain ⟨hv, ⟨ht, rfl⟩ | hs⟩ := mem_claims.mp hb
    · exact ⟨hv, .inl ⟨ht, hc⟩⟩
    · exact ⟨hv, .inr (by simpa [hs] using hc)⟩

/-- Check 5 of R5, by what the others occupy. -/
theorem duplicates_iff (s : State) (v : VehicleId) (cfg : VehicleConfig) :
    s.duplicates v cfg = true ↔ ∃ w, w ≠ v ∧ (s.vehicle w).valid = true ∧ (s.vehicle w).address = cfg.address ∧
      ∃ c ∈ (s.vehicle v).willOccupy cfg.assignment, (s.vehicle w).occupies c = true := by
  simp [State.duplicates, indices, and_assoc]

theorem collides_comm (a b : Assignment) : a.collides b = b.collides a := by
  rw [Bool.eq_iff_iff]
  simp only [Assignment.collides, Bool.and_eq_true, decide_eq_true_eq, List.any_eq_true, min_comm b.divisor]
  rw [eq_comm, eq_comm (a := b.phase % _)]
  simp only [and_comm (a := b.inSlotSet _ = true)]

/-- A record written where its new claims collide with no other's (R8, R31). -/
theorem assignmentsApart_setVehicle {s : State} {v : VehicleId} {y : Vehicle} (h : s.assignmentsApart)
    (hy : ∀ a ∈ y.claims, a ∈ (s.vehicle v).claims ∨ ∀ w, w ≠ v → ∀ b ∈ (s.vehicle w).claims, a.collides b = false) :
    (s.setVehicle v y).assignmentsApart := by
  have hnew (w : VehicleId) (hw : w ≠ v) (a : Assignment) (ha : a ∈ y.claims) (b : Assignment)
      (hb : b ∈ (s.vehicle w).claims) : a.collides b = false := by
    rcases hy a ha with hold | hfree
    · exact h v w hw.symm a hold b hb
    · exact hfree w hw b hb
  intro u w huw a ha b hb
  rw [vehicle_setVehicle] at ha hb
  split at ha <;> split at hb
  · rename_i e1 e2; exact absurd (e1.trans e2.symm) huw
  · rename_i hw; exact hnew w hw a ha b hb
  · rename_i hu _; exact (collides_comm a b).trans (hnew u hu b hb a ha)
  · exact h u w huw a ha b hb

/-- A record written where no other valid one shares a channel and its address (R7). -/
theorem addressesApart_setVehicle {s : State} {v : VehicleId} {y : Vehicle} (h : s.addressesApart)
    (hy : y.valid = true → ∀ w, w ≠ v → (s.vehicle w).valid = true → (s.vehicle w).address = y.address → ∀ c,
      y.occupies c = true → (s.vehicle w).occupies c = true → False) : (s.setVehicle v y).addressesApart := by
  intro u w huw hu hw he c
  rintro ⟨hcu, hcw⟩
  rw [vehicle_setVehicle] at hu hw he hcu hcw
  rw [vehicle_setVehicle] at he
  by_cases eu : u = v <;> by_cases ew : w = v <;> simp only [eu, ew, if_true, if_false] at hu hw he hcu hcw
  · exact huw (eu.trans ew.symm)
  · exact hy hu w ew hw he.symm c hcu hcw
  · exact hy hw u eu hu he c hcw hcu
  · exact h u w huw hu hw he c ⟨hcu, hcw⟩

/-- A record that is not valid is in no string (R138). -/
theorem unattached_of_invalid {s : State} {v : VehicleId} (h : s.stringsSound) (hv : (s.vehicle v).valid = false) :
    (s.vehicle v).attachedBehind = none ∧ s.behind v = none := by
  refine ⟨?_, ?_⟩
  · cases ha : (s.vehicle v).attachedBehind with
    | none => rfl
    | some p =>
      have := (h.1 v p.1 (by simp [State.attached, ha])).1
      simp [hv] at this
  · cases hb : s.behind v with
    | none => rfl
    | some w =>
      have := (h.1 w v (attached_of_behind hb)).2.2.1
      simp [hv] at this

/-- A record written in its place in its string, whose kind may change where it is in none (R138). -/
theorem stringsSound_setVehicle {s : State} {v : VehicleId} {y : Vehicle} (h : s.stringsSound)
    (hv : (s.vehicle v).valid = true → y.valid = true) (ha : y.attachedBehind = (s.vehicle v).attachedBehind)
    (hk : y.kind = (s.vehicle v).kind ∨ ((s.vehicle v).attachedBehind = none ∧ s.behind v = none)) :
    (s.setVehicle v y).stringsSound := by
  obtain ⟨hends, hone, hfront, hqueue, hident⟩ := h
  have hatt (w f) : (s.setVehicle v y).attached w f ↔ s.attached w f := by
    unfold State.attached
    rw [vehicle_setVehicle]
    split
    · rename_i e; rw [ha, e]
    · exact Iff.rfl
  have hvalid (w) (hw : (s.vehicle w).valid = true) : ((s.setVehicle v y).vehicle w).valid = true := by
    rw [vehicle_setVehicle]
    split
    · rename_i e; exact hv (e ▸ hw)
    · exact hw
  have hkind (w) (hw : w = v → (s.vehicle v).attachedBehind ≠ none ∨ s.behind v ≠ none) :
      ((s.setVehicle v y).vehicle w).kind = (s.vehicle w).kind := by
    rw [vehicle_setVehicle]
    split
    · rename_i e
      rcases hk with hk | ⟨h1, h2⟩
      · rw [hk, e]
      · rcases hw e with k | k
        · exact absurd h1 k
        · exact absurd h2 k
    · rfl
  refine ⟨fun w f hw => ?_, fun w u f hw hu => hone w u f ((hatt w f).mp hw) ((hatt u f).mp hu), fun w f g hw hf => ?_,
    fun x hx => hvalid x (hqueue x hx), hident⟩
  · have hw := (hatt w f).mp hw
    obtain ⟨h1, h2, h3, h4⟩ := hends w f hw
    refine ⟨hvalid w h1, (hkind w fun e => .inl ?_).trans h2, hvalid f h3, h4⟩
    rintro hnone
    simp [State.attached, e, hnone] at hw
  · have hf := (hatt f g).mp hf
    refine (hkind g fun e => .inr fun hnone => ?_).trans (hfront w f g ((hatt w f).mp hw) hf)
    exact not_attached_of_behind hnone f (e ▸ hf)

/-! ### What an accepted entry stores -/

theorem rewrite_fields (x : Vehicle) (cfg : VehicleConfig) (serving : Bool) :
    (x.rewrite cfg serving).valid = cfg.valid ∧ (x.rewrite cfg serving).kind = cfg.kind ∧
      (x.rewrite cfg serving).address = cfg.address ∧ (x.rewrite cfg serving).attachedBehind = x.attachedBehind := by
  unfold Vehicle.rewrite
  dsimp only
  split
  · exact ⟨rfl, rfl, rfl, rfl⟩
  · split <;> exact ⟨rfl, rfl, rfl, rfl⟩

/-- A rewritten record claims what it claimed, and the written assignment (R10). -/
theorem rewrite_claims {x : Vehicle} {cfg : VehicleConfig} {serving : Bool} (hx : x.valid = true) {a : Assignment}
    (h : a ∈ (x.rewrite cfg serving).claims) : a ∈ x.claims ∨ a = cfg.assignment := by
  obtain ⟨-, h⟩ := mem_claims.mp h
  unfold Vehicle.rewrite at h
  dsimp only at h
  split at h
  · rename_i ht
    rcases h with ⟨h, -⟩ | h
    · simp [Vehicle.withFields, ht] at h
    · exact .inr (Option.some.inj h).symm
  · rename_i ht
    split at h
    · rcases h with ⟨-, h⟩ | h
      · exact .inl (mem_claims.mpr ⟨hx, .inl ⟨by simpa using ht, h⟩⟩)
      · simp at h
    · rcases h with ⟨-, h⟩ | h
      · exact .inl (mem_claims.mpr ⟨hx, .inl ⟨by simpa using ht, h⟩⟩)
      · exact .inr (Option.some.inj h).symm

/-- A rewritten record occupies what the check of its address spoke of (R7). -/
theorem rewrite_occupies {x : Vehicle} {cfg : VehicleConfig} {serving : Bool} (hx : x.valid = true) {c : Channel}
    (h : (x.rewrite cfg serving).occupies c = true) : c ∈ x.willOccupy cfg.assignment := by
  have hactive (ht : ¬x.inTransit = true) (hne : ¬x.active = cfg.assignment) :
      x.willOccupy cfg.assignment = [cfg.assignment.channel, x.active.channel] := by
    simp [Vehicle.willOccupy, Vehicle.stages, hx, ht, hne]
  rw [occupies_iff] at h
  unfold Vehicle.rewrite at h
  dsimp only at h
  split at h
  · rename_i ht
    rcases h with ⟨h, -⟩ | ⟨a, ha, rfl⟩
    · simp [Vehicle.withFields, ht] at h
    · simp [Vehicle.willOccupy, (Option.some.inj ha).symm]
  · rename_i ht
    split at h
    · rename_i he
      rcases h with ⟨-, h⟩ | ⟨a, ha, -⟩
      · simp [Vehicle.willOccupy, ← h, ← he, Vehicle.withFields]
      · simp at ha
    · rename_i hne
      rw [hactive ht hne]
      rcases h with ⟨-, h⟩ | ⟨a, ha, rfl⟩
      · simp [← h, Vehicle.withFields]
      · simp [(Option.some.inj ha).symm]

theorem validate_claims {x : Vehicle} {cfg : VehicleConfig} {a : Assignment} (h : a ∈ (x.validate cfg).claims) :
    a = cfg.assignment := by
  rcases (mem_claims.mp h).2 with ⟨-, h⟩ | h
  · exact h
  · simp [Vehicle.validate, Vehicle.blankState, Vehicle.blank] at h

theorem validate_occupies {x : Vehicle} {cfg : VehicleConfig} {c : Channel} (h : (x.validate cfg).occupies c = true) :
    c ∈ x.willOccupy cfg.assignment := by
  rcases (occupies_iff _ c).mp h with ⟨-, h⟩ | ⟨a, h, -⟩
  · exact List.mem_cons.mpr (.inl h.symm)
  · simp [Vehicle.validate, Vehicle.blankState, Vehicle.blank] at h

/-- An accepted entry with valid yes keeps the fleet sound (R5, R9, R10). -/
theorem keepsFleet_store {s : State} {v : VehicleId} {bytes : List Byte} {cfg : VehicleConfig} {clamped : Bool} (serving : Bool)
    (hcfg : vehicleConfigOf bytes = some (cfg, clamped)) (hv : cfg.valid = true) (hr : s.vehicleRefusal v cfg = none) :
    s.KeepsFleet
      (s.setVehicle v (if (s.vehicle v).valid then (s.vehicle v).rewrite cfg serving else (s.vehicle v).validate cfg)) := by
  obtain ⟨hkind, hdup, hcol⟩ := vehicleRefusal_none hr hv
  have hfree (w : VehicleId) (hw : w ≠ v) (b) (hb : b ∈ (s.vehicle w).claims) : cfg.assignment.collides b = false := by
    rw [← Bool.not_eq_true]
    exact fun h => Bool.eq_false_iff.mp hcol ((collidesWithOther_iff s v cfg.assignment).mpr ⟨w, hw, b, hb, h⟩)
  have halone (w : VehicleId) (hw : w ≠ v) (hwv : (s.vehicle w).valid = true)
      (hwa : (s.vehicle w).address = cfg.address) (c) (hc : c ∈ (s.vehicle v).willOccupy cfg.assignment)
      (hwc : (s.vehicle w).occupies c = true) : False :=
    Bool.eq_false_iff.mp hdup ((duplicates_iff s v cfg).mpr ⟨w, hw, hwv, hwa, c, hc, hwc⟩)
  have hconfig (h : ∀ w, (s.vehicle w).configSound) := written_range hcfg (s.vehicle v) (h v) serving
  split
  · rename_i hx
    obtain ⟨-, hk, ha, hb⟩ := rewrite_fields (s.vehicle v) cfg serving
    refine ⟨fun h => assignmentsApart_setVehicle h fun a ha => ?_, fun h => addressesApart_setVehicle h ?_,
      fun h => stringsSound_setVehicle h (fun _ => (rewrite_fields _ cfg serving).1.trans hv) hb ?_, fun h w => ?_⟩
    · rcases rewrite_claims hx ha with hold | rfl
      · exact .inl hold
      · exact .inr hfree
    · rw [ha]
      exact fun _ w hw hwv hwa c hc => halone w hw hwv hwa c (rewrite_occupies hx hc)
    · rw [hk]
      by_cases e : cfg.kind = (s.vehicle v).kind
      · exact .inl e
      · have := hkind e
        simp only [State.blocksKindChange, Bool.or_eq_false_iff, Option.isSome_eq_false_iff, Option.isNone_iff_eq_none] at this
        exact .inr ⟨this.1.1.1.2, this.1.1.2⟩
    · rw [vehicle_setVehicle]
      split
      · exact (hconfig h).2.2
      · exact h w
  · rename_i hx
    refine ⟨fun h => assignmentsApart_setVehicle h fun a ha => .inr (validate_claims ha ▸ hfree),
      fun h => addressesApart_setVehicle h fun _ w hw hwv hwa c hc => halone w hw hwv hwa c (validate_occupies hc),
      fun h => ?_, fun h w => ?_⟩
    · have hun := unattached_of_invalid h (by simpa using hx)
      exact stringsSound_setVehicle h (fun k => absurd k hx) hun.1.symm (.inr hun)
    · rw [vehicle_setVehicle]
      split
      · exact (hconfig h).1
      · exact h w

/-- An accepted entry with valid no for a record that is not valid (R5). -/
theorem keepsFleet_storeInvalid {s : State} {v : VehicleId} {bytes : List Byte} {cfg : VehicleConfig} {clamped : Bool}
    (hcfg : vehicleConfigOf bytes = some (cfg, clamped)) (hv : cfg.valid = false) (hx : (s.vehicle v).valid = false) :
    s.KeepsFleet (s.setVehicle v ((s.vehicle v).withConfig cfg)) := by
  have hno : ((s.vehicle v).withConfig cfg).valid = false := hv
  refine ⟨fun h => assignmentsApart_setVehicle h fun a ha => ?_, fun h => addressesApart_setVehicle h fun k => ?_,
    fun h => ?_, fun h w => ?_⟩
  · simp [(mem_claims.mp ha).1] at hno
  · simp [k] at hno
  · exact stringsSound_setVehicle h (fun k => by simp [hx] at k) rfl (.inr (unattached_of_invalid h hx))
  · rw [vehicle_setVehicle]
    split
    · exact (written_range hcfg (s.vehicle v) (h v) false).2.1
    · exact h w

/-! ### Invalidation (R13, R149) -/

/-- What an invalidated vehicle's record holds while a slot of it is in flight (R13). -/
def Vehicle.stored (x : Vehicle) (cfg : VehicleConfig) : Vehicle :=
  { x.withConfig cfg with staged := none, attachedBehind := none }

/-- The record that an invalidation writes: OFF, unless a slot of it is in flight (R13, R14). -/
def Vehicle.invalidated (x : Vehicle) (cfg : VehicleConfig) (inFlight : Bool) : Vehicle :=
  if inFlight then x.stored cfg else (x.stored cfg).reachOff

theorem invalidated_fields (x : Vehicle) (cfg : VehicleConfig) (b : Bool) :
    (x.invalidated cfg b).valid = cfg.valid ∧ (x.invalidated cfg b).attachedBehind = none := by
  cases b <;> exact ⟨rfl, rfl⟩

/-- An invalidation, one operation after another. -/
theorem invalidate_eq (s : State) (v : VehicleId) (cfg : VehicleConfig) :
    s.invalidate v cfg =
      (((s.dissolveNaming v).setVehicle v ((s.vehicle v).invalidated cfg (s.slotInFlight v))).withdrawEverywhere
        (.vehicle v)).cancelEntry v := by
  have hown : (s.dissolveNaming v).vehicle v = { s.vehicle v with attachedBehind := none } := by
    rw [dissolveNaming_vehicle, if_pos (.inl rfl)]
  unfold State.invalidate Vehicle.invalidated
  simp only [hown]
  rfl

theorem invalidate_vehicle (s : State) (v : VehicleId) (cfg : VehicleConfig) (w : VehicleId) :
    (s.invalidate v cfg).vehicle w =
      if w = v then (s.vehicle v).invalidated cfg (s.slotInFlight v)
      else if s.behind v = some w then { s.vehicle w with attachedBehind := none } else s.vehicle w := by
  have hcancel (t : State) : (t.cancelEntry v).vehicle w = t.vehicle w :=
    congrArg (fun u => u.vehicle w) (cancelEntry_spec t v).1
  have hwithdraw (t : State) (u : MoveUnit) : (t.withdrawEverywhere u).vehicle w = t.vehicle w := rfl
  rw [invalidate_eq, hcancel, hwithdraw, vehicle_setVehicle, dissolveNaming_vehicle]
  by_cases e : w = v
  · rw [if_pos e, if_pos e]
  · simp only [e, if_false, false_or]

theorem invalidate_coupler (s : State) (v : VehicleId) (cfg : VehicleConfig) :
    (s.invalidate v cfg).coupler =
      { queue := s.coupler.queue.filter (fun y => y ≠ v)
        ident := if s.coupler.ident.map Identification.subject = some v then none else s.coupler.ident } := by
  have hbefore (z : Vehicle) :
      (((s.dissolveNaming v).setVehicle v z).withdrawEverywhere (.vehicle v)).coupler = s.coupler := by
    rw [dissolveNaming_frame]
    rfl
  rw [invalidate_eq, (cancelEntry_cancelled _ v).1]
  simp only [hbefore]

/-- An invalidated vehicle claims nothing, and is in no string and no identification (R13, R149). -/
theorem keepsFleet_invalidate {s : State} {v : VehicleId} {bytes : List Byte} {cfg : VehicleConfig} {clamped : Bool}
    (hcfg : vehicleConfigOf bytes = some (cfg, clamped)) (hv : cfg.valid = false) : s.KeepsFleet (s.invalidate v cfg) := by
  set t := s.invalidate v cfg with ht
  have hveh := invalidate_vehicle s v cfg
  rw [← ht] at hveh
  have hoff : (t.vehicle v).valid = false ∧ (t.vehicle v).attachedBehind = none := by
    rw [hveh, if_pos rfl, (invalidated_fields _ cfg _).1]
    exact ⟨hv, (invalidated_fields _ cfg _).2⟩
  have hother (w) (hw : w ≠ v) : (s.vehicle w).Follows (t.vehicle w) := by
    rw [hveh, if_neg hw]
    split
    · exact follows_detached _
    · exact .refl _
  have hne (w) (hw : (t.vehicle w).valid = true) : w ≠ v := by
    rintro rfl
    simp [hoff.1] at hw
  refine ⟨fun hs u w huw a ha b hb => ?_, fun hs u w huw hu hw he c => ?_, fun hs => ?_, fun hs w => ?_⟩
  · have hu := hother u (hne u (mem_claims.mp ha).1)
    have hw := hother w (hne w (mem_claims.mp hb).1)
    exact hs u w huw a (hu.claims a ha) b (hw.claims b hb)
  · have ku := hother u (hne u hu)
    have kw := hother w (hne w hw)
    rw [ku.valid] at hu
    rw [kw.valid] at hw
    rw [ku.address, kw.address] at he
    rintro ⟨cu, cw⟩
    exact hs u w huw hu hw he c ⟨ku.occupies hu c cu, kw.occupies hw c cw⟩
  · obtain ⟨hends, hone, hfront, hqueue, hident⟩ := hs
    have hatt (w f) (h : t.attached w f) : w ≠ v ∧ f ≠ v ∧ s.attached w f := by
      have hw : w ≠ v := by
        rintro rfl
        simp [State.attached, hoff.2] at h
      have hold := (hother w hw).attached f h
      refine ⟨hw, ?_, hold⟩
      rintro rfl
      have hb : s.behind f = some w := by
        cases hb : s.behind f with
        | none => exact absurd hold (not_attached_of_behind hb w)
        | some z => rw [hone z w f (attached_of_behind hb) hold]
      rw [State.attached, hveh, if_neg hw, if_pos hb] at h
      simp at h
    have hqueued (x) (hx : x ∈ t.coupler.queue) : x ∈ s.coupler.queue ∧ x ≠ v := by
      rw [ht, invalidate_coupler] at hx
      simpa using hx
    refine ⟨fun w f h => ?_, fun w u f h k => ?_, fun w f g h k => ?_, fun x hx => ?_, fun i hi => ?_⟩
    · obtain ⟨hw, hf, h⟩ := hatt w f h
      obtain ⟨h1, h2, h3, h4⟩ := hends w f h
      exact ⟨(hother w hw).valid.trans h1, (hother w hw).kind.trans h2, (hother f hf).valid.trans h3,
        fun k => h4 (hqueued f k).1⟩
    · exact hone w u f (hatt w f h).2.2 (hatt u f k).2.2
    · exact (hother g (hatt f g k).2.1).kind.trans (hfront w f g (hatt w f h).2.2 (hatt f g k).2.2)
    · exact (hother x (hqueued x hx).2).valid.trans (hqueue x (hqueued x hx).1)
    · rw [ht, invalidate_coupler] at hi ⊢
      dsimp only at hi ⊢
      split at hi
      · simp at hi
      · rename_i hsub
        refine List.mem_filter.mpr ⟨hident i hi, ?_⟩
        rw [Option.mem_def.mp hi] at hsub
        simpa using hsub
  · by_cases e : w = v
    · have hw := (written_range hcfg (s.vehicle v) (hs v) false).2.1
      have hst : ((s.vehicle v).stored cfg).configSound := ⟨hw.1, by simp [Vehicle.stored], hw.2.2⟩
      rw [hveh, if_pos e]
      unfold Vehicle.invalidated
      split
      · exact hst
      · exact (follows_reachOff (x := (s.vehicle v).stored cfg) hv).config hst
    · exact (hother w e).config (hs w)

theorem keepsFleet_judgeVehicle (index : Nat) (bytes : List Byte) (s : State) :
    s.KeepsFleet (judgeVehicle index bytes s).state := by
  unfold judgeVehicle
  split
  · split
    · exact .refl s
    · rename_i cfg clamped hcfg
      split
      · exact .refl s
      · rename_i hr
        unfold State.applyVehicle
        dsimp only
        split
        · rename_i hv
          exact keepsFleet_store _ hcfg hv hr
        · rename_i hv
          have hv : cfg.valid = false := by simpa using hv
          split
          · exact keepsFleet_invalidate hcfg hv
          · rename_i hx
            exact keepsFleet_storeInvalid hcfg hv (by simpa using hx)
  · exact .refl s

/-! ### A whole WRITE -/

theorem keepsFleet_writeEntries {judge : EntryJudge} (h : ∀ i bytes (s : State), s.KeepsFleet (judge i bytes s).state) (index : Nat)
    (entries : List (List Byte)) (s : State) : s.KeepsFleet (writeEntries judge index entries s).state := by
  induction entries generalizing index s with
  | nil => exact .refl s
  | cons e es ih => exact (h index e s).trans (ih (index + 1) _)

theorem keepsFleet_ended (w : Written) : w.state.KeepsFleet w.ended.1 := by
  unfold Written.ended
  split
  · exact (loosens_judgeStart _).keepsFleet
  · exact .refl _

theorem keepsFleet_writeStep {judge : EntryJudge} (h : ∀ i bytes (s : State), s.KeepsFleet (judge i bytes s).state) (table : Byte)
    (size : Nat) (s : State) : s.KeepsFleet (writeStep table size judge s) := by
  have hrun (args : List Byte) : s.KeepsFleet (runWrite table size judge args s).state := by
    unfold runWrite
    split
    · rename_i first entries _
      exact (keepsFleet_writeEntries h first entries s).trans (keepsFleet_ended _)
    · exact .refl s
  unfold writeStep
  split
  · split
    · exact keepsFleet_settle ((hrun _).trans (keepsFleet_of_same rfl rfl))
    · exact .refl s
  · exact .refl s

theorem keepsFleet_judgeBinding (index : Nat) (bytes : List Byte) (s : State) :
    s.KeepsFleet (judgeBinding index bytes s).state := by
  rw [judgeBinding_frame]
  exact keepsFleet_of_same rfl rfl

theorem keepsFleet_judgeZone (index : Nat) (bytes : List Byte) (s : State) :
    s.KeepsFleet (judgeZone index bytes s).state := by
  rw [judgeZone_frame]
  exact keepsFleet_of_same rfl rfl

theorem keepsFleet_judgeLimits (index : Nat) (bytes : List Byte) (s : State) :
    s.KeepsFleet (judgeLimits index bytes s).state := by
  rw [judgeLimits_frame]
  exact keepsFleet_of_same rfl rfl

end Sys2Proof.Machine

namespace Sys2Proof.Machine

/-! ### Every command -/

section BlankFleet

variable {t : State} (hv : ∀ v, t.vehicle v = .blank)
include hv

theorem assignmentsApart_of_blank : t.assignmentsApart := by
  simp [State.assignmentsApart, hv, Vehicle.claims, Vehicle.blank]

theorem addressesApart_of_blank : t.addressesApart := by simp [State.addressesApart, hv, Vehicle.blank]

theorem stringsSound_of_blank (hc : t.coupler = ⟨[], none⟩) : t.stringsSound := by
  have hatt (v f) : ¬t.attached v f := by simp [State.attached, hv, Vehicle.blank]
  exact ⟨fun v f h => absurd h (hatt v f), fun v w f h => absurd h (hatt v f), fun v f g h => absurd h (hatt v f),
    by simp [hc], by simp [hc]⟩

theorem configSound_of_blank (v : VehicleId) : (t.vehicle v).configSound := by
  rw [hv]
  unfold Vehicle.configSound Assignment.inRange
  decide

/-- A fleet of blank vehicles is sound (R20). -/
theorem keepsFleet_of_blank {s : State} (hc : t.coupler = ⟨[], none⟩) : s.KeepsFleet t :=
  ⟨fun _ => assignmentsApart_of_blank hv, fun _ => addressesApart_of_blank hv, fun _ => stringsSound_of_blank hv hc,
    fun _ => configSound_of_blank hv⟩

end BlankFleet

/-- Whatever state a meaning answers, the fleet is kept sound. -/
def State.FleetSafe (s : State) (o : Result) : Prop := ∀ t, o = .next t → s.KeepsFleet t

theorem fleetSafe_next {s u : State} (h : s.KeepsFleet u) : s.FleetSafe (.next u) :=
  fun _ e => Host.Outcome.next.inj e ▸ h

theorem fleetSafe_refl (s : State) : s.FleetSafe (.next s) := fleetSafe_next (.refl s)

/-- A command answered at once, from what its effect loosens. -/
theorem fleetSafe_atOnce {s : State} {code : Byte} {run : List Byte → State → Done}
    (h : ∀ args s, State.Loosens s (run args s).state) : s.FleetSafe (.next (atOnce code run s)) :=
  fleetSafe_next (keepsFleet_atOnce fun args => (h args s).keepsFleet)

/-- A command that is answered with its effect undone keeps the fleet. -/
theorem fleetSafe_answered {s : State} (e : MgmtEntry) {d : Done} (h : d.state = s) :
    s.FleetSafe (.next (d.finish e).settle) :=
  fleetSafe_next (keepsFleet_settle (h ▸ keepsFleet_of_same rfl rfl))

theorem fleetSafe_powerOnReset (pins : Pins) (s : State) : s.FleetSafe (execPowerOnReset pins s) := by
  refine fleetSafe_next (keepsFleet_settle (keepsFleet_of_blank (fun v => ?_) rfl))
  simp [State.vehicle, State.powerOn]

theorem fleetSafe_frameCheckFailure (bytes : List Byte) (s : State) : s.FleetSafe (execFrameCheckFailure bytes s) := by
  unfold execFrameCheckFailure
  split
  · exact fleetSafe_next (keepsFleet_settle (.refl s))
  · exact fleetSafe_refl s

theorem fleetSafe_drive (header : LinkHeader) (payload : List Byte) (check : Half) (s : State) :
    s.FleetSafe (execDrive header payload check s) := by
  unfold execDrive
  split
  · exact fleetSafe_next (keepsFleet_receiveDrive s _ _ _)
  · exact fleetSafe_refl s

theorem fleetSafe_aux (header : LinkHeader) (payload : List Byte) (check : Half) (s : State) :
    s.FleetSafe (execAux header payload check s) := by
  unfold execAux
  split
  · exact fleetSafe_next (keepsFleet_receiveAux s _ _ _)
  · exact fleetSafe_refl s

theorem fleetSafe_mgmt (header : LinkHeader) (payload : List Byte) (check : Half) (s : State) :
    s.FleetSafe (execMgmt header payload check s) := by
  unfold execMgmt
  split
  · exact fleetSafe_next (keepsFleet_receiveMgmt s _ _ _)
  · exact fleetSafe_refl s

theorem fleetSafe_outputFrameSend (s : State) : s.FleetSafe (execOutputFrameSend s) := by
  unfold execOutputFrameSend
  split
  · exact fleetSafe_next (keepsFleet_of_same rfl rfl)
  · exact fleetSafe_refl s

theorem fleetSafe_unknownCommand (s : State) : s.FleetSafe (execUnknownCommand s) := by
  unfold execUnknownCommand
  split
  · split
    · exact fleetSafe_answered _ rfl
    · split
      · exact fleetSafe_refl s
      · exact fleetSafe_answered _ rfl
  · exact fleetSafe_refl s

theorem fleetSafe_coupleConfirm (s : State) : s.FleetSafe (execCoupleConfirm s) :=
  fleetSafe_next (keepsFleet_atOnce (keepsFleet_runDecision fun _ _ h => loosens_confirmBehind h))

theorem fleetSafe_coupleReject (s : State) : s.FleetSafe (execCoupleReject s) :=
  fleetSafe_next (keepsFleet_atOnce (keepsFleet_runDecision fun _ w _ => loosens_detach s w))

theorem fleetSafe_directSend (s : State) : s.FleetSafe (execDirectSend s) := by
  unfold execDirectSend
  split
  · split
    · split
      · exact fleetSafe_next (keepsFleet_of_same rfl rfl)
      · exact fleetSafe_answered _ rfl
    · exact fleetSafe_answered _ rfl
  · exact fleetSafe_refl s

theorem fleetSafe_channelRestart (s : State) : s.FleetSafe (execChannelRestart s) := by
  have hflight : s.KeepsFleet s.headGoesInFlight := keepsFleet_of_same rfl rfl
  unfold execChannelRestart
  split
  · split
    · split
      · rename_i c _
        exact fleetSafe_next (keepsFleet_settle (hflight.trans (keepsFleet_restartChannel _ c)))
      · exact fleetSafe_answered _ rfl
    · exact fleetSafe_answered _ rfl
  · exact fleetSafe_refl s

theorem fleetSafe_lockReport (s : State) (c : Channel) : s.FleetSafe (.next (s.lockReport c)) :=
  fleetSafe_next (loosens_lockReport s c).keepsFleet

theorem fleetSafe_lockLimitExpiry (c : Channel) (s : State) : s.FleetSafe (execLockLimitExpiry c s) := by
  unfold execLockLimitExpiry
  dsimp only
  split
  · exact fleetSafe_next (keepsFleet_settle (loosens_failed s c _ _).keepsFleet)
  · exact fleetSafe_refl s

theorem fleetSafe_relockLimitExpiry (c : Channel) (s : State) : s.FleetSafe (execRelockLimitExpiry c s) := by
  unfold execRelockLimitExpiry
  dsimp only
  split
  · exact fleetSafe_next (keepsFleet_settle (loosens_failed s c _ _).keepsFleet)
  · exact fleetSafe_refl s

theorem fleetSafe_loopbackWindowEnd (c : Channel) (returned : List Byte) (s : State) :
    s.FleetSafe (execLoopbackWindowEnd c returned s) := by
  unfold execLoopbackWindowEnd
  dsimp only
  split
  · split
    · exact fleetSafe_next (keepsFleet_settle (loosens_failed s c _ _).keepsFleet)
    · split
      · exact fleetSafe_next (keepsFleet_settle (loosens_passTest s c).keepsFleet)
      · exact fleetSafe_next (loosens_setChannel s c _).keepsFleet
  · exact fleetSafe_refl s

theorem fleetSafe_lockLost (c : Channel) (returned : List Byte) (s : State) : s.FleetSafe (execLockLost c returned s) :=
  fleetSafe_next (keepsFleet_settle (keepsFleet_lockLostReport s c returned))

theorem fleetSafe_cycleStart (c : Channel) (s : State) : s.FleetSafe (execCycleStart c s) := by
  unfold execCycleStart
  dsimp only
  split
  · exact fleetSafe_next (loosens_beginCycle s c _).keepsFleet
  · exact fleetSafe_refl s

theorem fleetSafe_frameBuild (c : Channel) (slot : SlotNo) (s : State) : s.FleetSafe (execFrameBuild c slot s) := by
  unfold execFrameBuild
  dsimp only
  split
  · split
    · exact fleetSafe_next ((loosens_setVehicle (follows_withFrame _ _)).trans (loosens_setChannel _ c _)).keepsFleet
    · exact fleetSafe_next (loosens_setChannel s c _).keepsFleet
  · exact fleetSafe_refl s

theorem fleetSafe_radioFrameReceive (c : Channel) (bytes : List Byte) (s : State) :
    s.FleetSafe (execRadioFrameReceive c bytes s) := by
  unfold execRadioFrameReceive
  split
  · exact fleetSafe_next (loosens_setChannel s c _).keepsFleet
  · exact fleetSafe_refl s

theorem loosens_endSlot (s : State) (c : Channel) : s.Loosens (s.endSlot c) := loosens_setChannel s c _

theorem fleetSafe_responseWindowEnd (c : Channel) (s : State) : s.FleetSafe (execResponseWindowEnd c s) := by
  unfold execResponseWindowEnd
  split
  · exact fleetSafe_next (keepsFleet_settle ((loosens_endSlot s c).keepsFleet.trans (keepsFleet_slotOutcome _ _ _)))
  · exact fleetSafe_refl s

theorem fleetSafe_housekeepingWindowEnd (c : Channel) (s : State) : s.FleetSafe (execHousekeepingWindowEnd c s) := by
  have hend := (loosens_endSlot s c).keepsFleet
  unfold execHousekeepingWindowEnd
  split
  · split
    · exact fleetSafe_next (keepsFleet_settle (hend.trans (keepsFleet_pollReport _ c _ _)))
    · exact fleetSafe_next hend
  · split
    · exact fleetSafe_next (keepsFleet_settle (hend.trans (loosens_answerInFlight _ _ _).keepsFleet))
    · exact fleetSafe_next hend
  · exact fleetSafe_refl s

theorem fleetSafe_sendLimitExpiry (c : Channel) (s : State) : s.FleetSafe (execSendLimitExpiry c s) := by
  unfold execSendLimitExpiry
  dsimp only
  split
  · exact fleetSafe_next
      (keepsFleet_settle ((loosens_setChannel s c _).trans (loosens_answerInFlight _ _ _)).keepsFleet)
  · exact fleetSafe_refl s

theorem fleetSafe_silenceExpiry (b : BindingId) (s : State) : s.FleetSafe (execSilenceExpiry b s) := by
  unfold execSilenceExpiry
  dsimp only
  split
  · exact fleetSafe_next (keepsFleet_settle (keepsFleet_of_same rfl rfl))
  · exact fleetSafe_refl s

theorem fleetSafe_estopAssertionEdge (s : State) : s.FleetSafe (execEstopAssertionEdge s) := by
  unfold execEstopAssertionEdge
  split
  · exact fleetSafe_refl s
  · exact fleetSafe_next (keepsFleet_settle (keepsFleet_of_same rfl rfl))

theorem fleetSafe_supplyMonitorAssertionEdge (s : State) : s.FleetSafe (execSupplyMonitorAssertionEdge s) := by
  unfold execSupplyMonitorAssertionEdge
  split
  · exact fleetSafe_refl s
  · exact fleetSafe_next (keepsFleet_settle (keepsFleet_of_same rfl rfl))

/-- Every command keeps the fleet sound. -/
theorem fleetSafe_exec (i : Instr) (s : State) : s.FleetSafe (exec i s) := by
  cases i with
  | powerOnReset pins => exact fleetSafe_powerOnReset pins s
  | frameCheckFailure bytes => exact fleetSafe_frameCheckFailure bytes s
  | drive header payload check => exact fleetSafe_drive header payload check s
  | aux header payload check => exact fleetSafe_aux header payload check s
  | mgmt header payload check => exact fleetSafe_mgmt header payload check s
  | outputFrameSend => exact fleetSafe_outputFrameSend s
  | unknownCommand => exact fleetSafe_unknownCommand s
  | nop => exact fleetSafe_atOnce loosens_runNop
  | status => exact fleetSafe_atOnce loosens_runStatus
  | read => exact fleetSafe_atOnce loosens_runRead
  | vehicleWrite => exact fleetSafe_next (keepsFleet_writeStep keepsFleet_judgeVehicle _ _ s)
  | bindingWrite => exact fleetSafe_next (keepsFleet_writeStep keepsFleet_judgeBinding _ _ s)
  | zoneWrite => exact fleetSafe_next (keepsFleet_writeStep keepsFleet_judgeZone _ _ s)
  | limitsWrite => exact fleetSafe_next (keepsFleet_writeStep keepsFleet_judgeLimits _ _ s)
  | convoyForm => exact fleetSafe_atOnce loosens_runConvoyForm
  | convoyAdd => exact fleetSafe_atOnce loosens_runConvoyAdd
  | convoyRemove => exact fleetSafe_atOnce loosens_runConvoyRemove
  | convoyHold => exact fleetSafe_atOnce loosens_runConvoyHold
  | convoyResume => exact fleetSafe_atOnce loosens_runConvoyResume
  | convoyDisband => exact fleetSafe_atOnce loosens_runConvoyDisband
  | zoneRelease => exact fleetSafe_atOnce loosens_runZoneRelease
  | coupleConfirm => exact fleetSafe_coupleConfirm s
  | coupleReject => exact fleetSafe_coupleReject s
  | directSend => exact fleetSafe_directSend s
  | channelRestart => exact fleetSafe_channelRestart s
  | faultRead => exact fleetSafe_atOnce loosens_runFaultRead
  | faultClear => exact fleetSafe_atOnce loosens_runFaultClear
  | stopAll => exact fleetSafe_atOnce loosens_runStopAll
  | restart => exact fleetSafe_atOnce loosens_runRestart
  | lockAchieved c => exact fleetSafe_lockReport s c
  | lockLimitExpiry c => exact fleetSafe_lockLimitExpiry c s
  | loopbackWindowEnd c returned => exact fleetSafe_loopbackWindowEnd c returned s
  | lockLost c returned => exact fleetSafe_lockLost c returned s
  | relock c => exact fleetSafe_lockReport s c
  | relockLimitExpiry c => exact fleetSafe_relockLimitExpiry c s
  | cycleStart c => exact fleetSafe_cycleStart c s
  | frameBuild c slot => exact fleetSafe_frameBuild c slot s
  | radioFrameReceive c bytes => exact fleetSafe_radioFrameReceive c bytes s
  | responseWindowEnd c => exact fleetSafe_responseWindowEnd c s
  | housekeepingWindowEnd c => exact fleetSafe_housekeepingWindowEnd c s
  | sendLimitExpiry c => exact fleetSafe_sendLimitExpiry c s
  | silenceExpiry b => exact fleetSafe_silenceExpiry b s
  | estopAssertionEdge => exact fleetSafe_estopAssertionEdge s
  | estopRelease => exact fleetSafe_next (keepsFleet_of_same rfl rfl)
  | supplyMonitorAssertionEdge => exact fleetSafe_supplyMonitorAssertionEdge s
  | supplyMonitorRelease => exact fleetSafe_next (keepsFleet_of_same rfl rfl)
  | timeCounterTick => exact fleetSafe_next (keepsFleet_of_same rfl rfl)

theorem step_keepsFleet {s t : State} (h : step s = .next t) : s.KeepsFleet t := by
  unfold step at h
  split at h
  · exact fleetSafe_refl s t h
  · rename_i c rest _
    exact (keepsFleet_of_same (s := s) (t := { s with pending := rest }) rfl rfl).trans (fleetSafe_exec c _ t h)

/-- Settles O56: each step keeps all four, from what every command does to the fleet. -/
theorem fleetStaysApart : Obligations.FleetStaysApart :=
  ⟨fun _ _ hs h => (step_keepsFleet h).assignments hs, fun _ _ hs h => (step_keepsFleet h).addresses hs,
    fun _ _ hs h => (step_keepsFleet h).strings hs, fun _ _ hs h => (step_keepsFleet h).config hs⟩

end Sys2Proof.Machine

/-! SUPPORT. The block right after a power-on reset, and after RESTART (R20, R159, R176). -/

namespace Sys2Proof.Machine

/-! ### The reset state, table by table -/

@[simp] theorem powerOn_vehicle (pins : Pins) (v : VehicleId) : (State.powerOn pins).vehicle v = .blank := by
  simp [State.powerOn, State.vehicle]

@[simp] theorem powerOn_binding (pins : Pins) (b : BindingId) : (State.powerOn pins).binding b = .blank := by
  simp [State.powerOn, State.binding]

@[simp] theorem powerOn_channel (pins : Pins) (c : Channel) : (State.powerOn pins).channel c = .blank := by
  simp [State.powerOn, State.channel]

@[simp] theorem powerOn_convoy (pins : Pins) (c : ConvoyId) : (State.powerOn pins).convoy c = .blank := by
  simp [State.powerOn, State.convoy]

@[simp] theorem powerOn_zone (pins : Pins) (r : RangeId) : (State.powerOn pins).zone r = .blank := by
  simp [State.powerOn, State.zone]

@[simp] theorem powerOn_lane (pins : Pins) (r : RangeId) : (State.powerOn pins).lane r = .blank := by
  simp [State.powerOn, State.lane]

theorem reset_eq : State.reset = .powerOn resetPins := rfl

theorem powerOn_withinCapacity (pins : Pins) : (State.powerOn pins).withinCapacity := by
  refine ⟨by simp [State.outCount, State.reserved, State.powerOn], by simp [State.powerOn], by simp [State.powerOn],
    by simp [State.powerOn], fun c => ?_, fun r => ?_, by simp [State.powerOn], fun c => ?_, fun r => ?_⟩
  · simp [ChannelUnit.blank]
  · simp [Lane.blank]
  · simp [Convoy.blank]
  · simp [Range.blank]

theorem blank_convoySound : Convoy.blank.cursorsSound ∧ Convoy.blank.fieldsSound ∧ Convoy.blank.bandsSound := by
  simp [Convoy.cursorsSound, Convoy.fieldsSound, Convoy.bandsSound, Convoy.blank]

theorem powerOn_convoysSound (pins : Pins) : (State.powerOn pins).convoysSound :=
  ⟨fun c => by rw [powerOn_convoy]; exact blank_convoySound, fun v c => by simp [Vehicle.blank, Convoy.blank]⟩

theorem blank_shapingSound : Vehicle.blank.shapingSound := by
  unfold Vehicle.shapingSound
  decide

/-- Settles O60: the tables are blank, and a blank fleet is sound. -/
theorem invariantsHoldAtReset : Obligations.InvariantsHoldAtReset := by
  unfold Obligations.InvariantsHoldAtReset
  rw [reset_eq]
  have hblank := powerOn_vehicle resetPins
  refine ⟨powerOn_withinCapacity _, ?_, ?_, assignmentsApart_of_blank hblank, addressesApart_of_blank hblank, ?_,
    powerOn_convoysSound _, ?_, ?_, stringsSound_of_blank hblank rfl, configSound_of_blank hblank⟩
  · simp [State.rangesApart, Range.covers, Range.blank]
  · simp [State.bindingsDistinct, Binding.blank]
  · exact fun v => by rw [powerOn_vehicle]; exact blank_shapingSound
  · simp [FaultUnit.sound, State.powerOn, FaultUnit.blank]
  · simp [State.lanesSound, Lane.blank]

/-! ### POWER_ON_RESET -/

/-- POWER_ON_RESET before its latches are taken: every table is blank, and the inputs found asserted are to be latched (R156). -/
def powerOnWork (pins : Pins) (s : State) : Work where
  state := { State.powerOn pins with freeCount := s.freeCount, pending := s.pending }
  latches :=
    [if pins.estop then [⟨.estop, .none, none⟩] else [], if pins.supply then [⟨.supplyLow, .none, none⟩] else []]

theorem exec_powerOnReset (pins : Pins) (s : State) : exec (.powerOnReset pins) s = .next (powerOnWork pins s).settle := rfl

/-- POWER_ON_RESET changes the Fault Unit and the counter of choices alone, once every table is blank: no alert is enabled. -/
theorem powerOnWork_settle (pins : Pins) (s : State) :
    (powerOnWork pins s).settle =
      { State.reset with
        pins := pins, link := ⟨8 + pins.straps.setWidth 8, if pins.endStrap then .last else .through, [], []⟩
        pending := s.pending, fault := (powerOnWork pins s).settle.fault
        freeCount := (powerOnWork pins s).settle.freeCount } := by
  set w := powerOnWork pins s with hw
  obtain ⟨order, -, ht, -⟩ := settle_settled w rfl
  have hquiet (ls : List Latch) (t : State) (hl : t.limits.alertNode = 0) :
      (ls.foldl State.latched t).link = t.link ∧ (ls.foldl State.latched t).limits = t.limits := by
    induction ls generalizing t with
    | nil => exact ⟨rfl, rfl⟩
    | cons l ls ih =>
      have hdue : t.alertDue l.cls = false := by simp [State.alertDue, hl]
      have := ih (t.latched l) hl
      simpa [hdue] using this
  have hlink : w.settle.link = w.state.link := by rw [ht]; exact (hquiet order w.state rfl).1
  have hframe := settled_frame (settle_settled w rfl)
  rw [hlink] at hframe
  exact hframe

/-- A locked record is kept, and a latch after it sets the multiple flag (R154). -/
theorem takeAll_locked (filter : CaptureFilter) (ls : List Latch) (u : FaultUnit) (hu : u.record.isSome = true) :
    (ls.foldl (fun u l => u.take filter l) u).record = u.record ∧
      (ls.foldl (fun u l => u.take filter l) u).multiple = (u.multiple || !ls.isEmpty) := by
  induction ls generalizing u with
  | nil => simp
  | cons l ls ih =>
    obtain ⟨r, hr⟩ := Option.isSome_iff_exists.mp hu
    have hrec : (u.take filter l).record = u.record := by simp [FaultUnit.take, hr]
    have hmul : (u.take filter l).multiple = true := by simp [FaultUnit.take, hr]
    obtain ⟨h1, h2⟩ := ih (u.take filter l) (hrec ▸ hu)
    exact ⟨h1.trans hrec, by simpa [hmul] using h2⟩

/-- With every class captured, the first latch of a blank Fault Unit is its record, and a second sets the multiple flag. -/
theorem takeAll_blank (ls : List Latch) :
    (ls.foldl (fun u l => u.take .all l) FaultUnit.blank).record = ls.head?.map (fun l => ⟨l, 0⟩) ∧
      (ls.foldl (fun u l => u.take .all l) FaultUnit.blank).multiple = decide (1 < ls.length) := by
  cases ls with
  | nil => simp [FaultUnit.blank]
  | cons l ls =>
    have hrec : (FaultUnit.blank.take .all l).record = some ⟨l, 0⟩ := rfl
    have hmul : (FaultUnit.blank.take .all l).multiple = false := rfl
    obtain ⟨h1, h2⟩ := takeAll_locked .all ls (FaultUnit.blank.take .all l) rfl
    refine ⟨h1.trans hrec, h2.trans ?_⟩
    rw [hmul]
    cases ls <;> simp

theorem mem_powerOnWork_latches {pins : Pins} {s : State} {l : Latch} (h : l ∈ (powerOnWork pins s).latches.flatten) :
    l.subject = .none ∧ l.segment = none ∧
      ((l.cls = .estop ∧ pins.estop = true) ∨ (l.cls = .supplyLow ∧ pins.supply = true)) := by
  simp only [powerOnWork, List.flatten_cons, List.flatten_nil, List.append_nil, List.mem_append] at h
  rcases h with h | h <;> split at h <;> simp at h
  · rename_i hp; subst h; exact ⟨rfl, rfl, .inl ⟨rfl, hp⟩⟩
  · rename_i hp; subst h; exact ⟨rfl, rfl, .inr ⟨rfl, hp⟩⟩

/-- The Fault Unit after a power-on reset: what it holds is the inputs found asserted (R156, R159). -/
theorem powerOnWork_fault (pins : Pins) (s : State) :
    let u := (powerOnWork pins s).settle.fault
    u.time = 0 ∧
      (∀ k, u.flag k = true ↔ (k = .estop ∧ pins.estop = true) ∨ (k = .supplyLow ∧ pins.supply = true)) ∧
      u.record.isSome = (pins.estop || pins.supply) ∧
      (∀ r ∈ u.record, r.time = 0 ∧ r.latch.subject = .none ∧ r.latch.segment = none ∧
        ((r.latch.cls = .estop ∧ pins.estop = true) ∨ (r.latch.cls = .supplyLow ∧ pins.supply = true))) ∧
      u.multiple = (pins.estop && pins.supply) := by
  intro u
  obtain ⟨ls, hperm, hfault⟩ := settle_fault (powerOnWork pins s)
  have hfault : u = ls.foldl (fun u l => u.take .all l) FaultUnit.blank := hfault
  obtain ⟨hrecord, hmultiple⟩ := takeAll_blank ls
  have hlength : ls.length = pins.estop.toNat + pins.supply.toNat := by
    rw [hperm.length_eq]
    cases he : pins.estop <;> cases hs : pins.supply <;> simp [powerOnWork, he, hs]
  have hflag (k : FaultClass) : FaultUnit.blank.flag k = false := by simp [FaultUnit.flag, FaultUnit.blank]
  refine ⟨hfault ▸ takeAll_time .all ls .blank, fun k => ?_, ?_, fun r hr => ?_, ?_⟩
  · rw [hfault, takeAll_flag, hflag, Bool.false_or, List.any_eq_true]
    constructor
    · rintro ⟨l, hl, hk⟩
      rw [of_decide_eq_true hk]
      exact (mem_powerOnWork_latches (hperm.mem_iff.mp hl)).2.2
    · rintro (⟨rfl, hp⟩ | ⟨rfl, hp⟩)
      · exact ⟨⟨.estop, .none, none⟩, hperm.mem_iff.mpr (by simp [powerOnWork, hp]), rfl⟩
      · exact ⟨⟨.supplyLow, .none, none⟩, hperm.mem_iff.mpr (by simp [powerOnWork, hp]), rfl⟩
  · have hhead : ls.head?.isSome = decide (0 < ls.length) := by cases ls <;> simp
    rw [hfault, hrecord, Option.isSome_map, hhead, hlength]
    cases pins.estop <;> cases pins.supply <;> rfl
  · rw [hfault, hrecord, Option.mem_map] at hr
    obtain ⟨l, hl, rfl⟩ := hr
    exact ⟨rfl, mem_powerOnWork_latches (hperm.mem_iff.mp (List.mem_of_head? hl))⟩
  · rw [hfault, hmultiple, hlength]
    cases pins.estop <;> cases pins.supply <;> rfl

/-- Settles O3: the blank tables are written out, and POWER_ON_RESET latches what its inputs hold asserted alone. -/
theorem powerOnResetRestoresEverything : Obligations.PowerOnResetRestoresEverything := by
  refine ⟨⟨powerOn_vehicle resetPins, powerOn_binding resetPins, fun c => ?_, powerOn_convoy resetPins,
    powerOn_zone resetPins, powerOn_lane resetPins, rfl, rfl, rfl, rfl, rfl, rfl⟩, fun pins s => ?_⟩
  · rw [reset_eq, powerOn_channel]
    exact ⟨rfl, rfl, rfl, rfl, rfl, rfl, rfl, rfl, rfl, rfl⟩
  · have h := powerOnWork_settle pins s
    obtain ⟨htime, hflag, hsome, hrecord, hmultiple⟩ := powerOnWork_fault pins s
    have field {α : Type} (f : State → α) := congrArg f h
    exact ⟨_, exec_powerOnReset pins s, field State.pins, field State.link, field State.mgmt, field State.bindings,
      field State.vehicles, field State.channels, field State.convoys, field State.zones, field State.lanes,
      field State.coupler, field State.limits, htime, hflag, hsome, hrecord, hmultiple, field State.pending⟩

end Sys2Proof.Machine

/-! SUPPORT. STOP_ALL, a broadcast and RESTART (R56, R165, R166, R176). -/

namespace Sys2Proof.Machine

/-- A broadcast command at the head is executed whatever the output queue holds (R166). -/
theorem readyFor_broadcast (s : State) (code tag source : Byte) (args : List Byte) (rest : List MgmtEntry)
    (he : s.mgmt.entries = ⟨source, code :: tag :: args, true⟩ :: rest) (hf : s.mgmt.inFlight = false) :
    s.readyFor code = some (⟨source, code :: tag :: args, true⟩, args) := by
  simp [State.readyFor, State.ready, he, hf]

/-- A broadcast command leaves with its effect and no reply (R166). -/
theorem atOnce_broadcast {s t : State} {code tag source : Byte} {args : List Byte} {rest : List MgmtEntry}
    {run : List Byte → State → Done} (he : s.mgmt.entries = ⟨source, code :: tag :: args, true⟩ :: rest)
    (hf : s.mgmt.inFlight = false) (ht : (run args s).state = t) (hl : (run args s).latches = []) (hm : t.mgmt = s.mgmt) :
    atOnce code run s = { t with mgmt := ⟨rest, false⟩ } := by
  rw [atOnce_some code run s _ _ (readyFor_broadcast s code tag source args rest he hf),
    finish_settle_broadcast _ _ rfl hl, ht]
  simp [State.popHead, hm, he, hf]

theorem disarm_eq (b : Binding) : b.disarm = { b with state := if b.state = .armed then .disarmed else b.state } := by
  unfold Binding.disarm
  split <;> rfl

theorem binding_disarmed (s : State) (b : BindingId) : (s.mapBindings Binding.disarm).binding b =
    { s.binding b with state := if (s.binding b).state = .armed then .disarmed else (s.binding b).state } := by
  rw [binding_mapBindings_same, disarm_eq]

/-- NOP's effect is none, well formed or not (R175). -/
theorem runNop_state (args : List Byte) (s : State) : (runNop args s).state = s ∧ (runNop args s).latches = [] := by
  unfold runNop
  split <;> exact ⟨rfl, rfl⟩

/-- RESTART at the head: its reply is all that the output queue holds (R176). -/
theorem exec_restart {source tag : Byte} {rest : List MgmtEntry} {s : State} (h : s.hasHead source 63 tag [] rest) :
    exec .restart s = .next
      { s.restarted with
        mgmt := ⟨[], false⟩, link := { s.link with queue := [⟨source, s.link.address, 4, [63, tag, 0, 0]⟩] } } := by
  have hrun := atOnce_head (code := codeRestart) h runRestart rfl
  obtain ⟨he, hf, -⟩ := h
  refine congrArg Host.Outcome.next (hrun.trans ?_)
  have hstate : (runRestart [] s).state = s.restarted := rfl
  rw [hstate]
  simp [State.popHead, State.appendFrame, State.restarted, State.replyTo, codeOf, tagOf, classReply, runRestart, Done.ok,
    codeRestart,
    ReplyStatus.code, Reason.code, he, hf]

/-- Settles O11, command by command: each effect is a map over a table. -/
theorem stopAllAndRestartDisarm : Obligations.StopAllAndRestartDisarm := by
  refine ⟨fun source tag rest s h => ?_, fun source tag args rest s hf => ⟨fun he => ?_, fun he => ?_⟩,
    fun source tag rest s h => ?_⟩
  · exact ⟨_, next_ok (t := s.mapBindings Binding.disarm) (data := []) h runStopAll rfl rfl, rfl, binding_disarmed s⟩
  · exact congrArg Host.Outcome.next (atOnce_broadcast he hf (runNop_state args s).1 (runNop_state args s).2 rfl)
  · exact congrArg Host.Outcome.next (atOnce_broadcast (run := runStopAll) he hf rfl rfl rfl)
  · refine ⟨_, exec_restart h, rfl, binding_disarmed s, fun v => ?_, fun c => ?_, fun c => ?_⟩
    · exact vehicle_mapVehicles_same (s.mapBindings Binding.disarm) (fun _ x => x.atRest) v
    · exact channel_mapChannels_same ((s.mapBindings Binding.disarm).mapVehicles fun _ x => x.atRest) ChannelUnit.restart c
    · refine (convoy_mapConvoys_same s Convoy.restart c).trans ?_
      simp [Convoy.restart]

end Sys2Proof.Machine

/-! SUPPORT. The refresh cycle: cycle starts, slot owners, and misses (R11, R12, R15 to R18, R29 to R32, R37). -/

namespace Sys2Proof.Machine

/-! ### Cycle starts -/

theorem exec_cycleStart_idle {c : Channel} {s : State} (h : (s.channel c).state ≠ .serving) :
    exec (.cycleStart c) s = .next s := by
  show execCycleStart c s = _
  simp [execCycleStart, h]

theorem exec_cycleStart {c : Channel} {s : State} (hs : (s.channel c).state = .serving)
    (hf : (s.channel c).flight = none) :
    exec (.cycleStart c) s = .next (s.beginCycle c (((s.channel c).counter + 1) % 4)) := by
  show execCycleStart c s = _
  simp [execCycleStart, hs, hf]

/-- The record after slot 0 of a cycle has begun, by what the housekeeping queue holds (R37, R41). -/
theorem startSlotZero_poll {u : ChannelUnit} {p : PollSubject} (h : u.pendingPoll = some p) :
    u.startSlotZero =
      { u with
        slot := 0, pendingPoll := none, flight := some (.poll p [] false true)
        sent := [3, channelCode p.channel, p.address, radioCheck [3, channelCode p.channel, p.address]] } := by
  simp [ChannelUnit.startSlotZero, h, RadioFrame.encode, RadioFrame.body]

theorem startSlotZero_direct {u : ChannelUnit} {e : DirectEntry} {rest : List DirectEntry} (hp : u.pendingPoll = none)
    (hd : u.direct = e :: rest) :
    u.startSlotZero =
      { u with
        slot := 0, direct := rest, sendLimit := if e.owned then none else u.sendLimit, flight := some (.direct e none)
        sent := [5, e.address, BitVec.ofNat 8 e.payload.length] ++ e.payload ++
          [radioCheck ([5, e.address, BitVec.ofNat 8 e.payload.length] ++ e.payload)] } := by
  simp [ChannelUnit.startSlotZero, hp, hd, RadioFrame.encode, RadioFrame.body, byteOf]

theorem startSlotZero_none {u : ChannelUnit} (hp : u.pendingPoll = none) (hd : u.direct = []) :
    u.startSlotZero = { u with slot := 0, flight := none } := by
  simp [ChannelUnit.startSlotZero, hp, hd]

/-! ### What a cycle start does to one vehicle -/

theorem cycleStart_valid {x : Vehicle} (h : x.valid = true) (c : Channel) : x.cycleStart c = (x.stagingAt c).acquireAt c := by
  simp [Vehicle.cycleStart, h]

theorem acquireAt_eq (x : Vehicle) (c : Channel) : x.acquireAt c =
    if x.link = .waiting ∧ x.inTransit = false ∧ x.active.channel = c then { x with link := .acquiring } else x := by
  simp [Vehicle.acquireAt, and_assoc]

/-- A vehicle in transit, or of another channel, is not acquired (R15). -/
theorem acquireAt_other {x : Vehicle} {c : Channel} (h : x.inTransit = true ∨ x.active.channel ≠ c) : x.acquireAt c = x := by
  rw [acquireAt_eq, if_neg]
  rintro ⟨-, ht, hc⟩
  rcases h with h | h
  · simp [ht] at h
  · exact h hc

/-- An arrival on the channel that the vehicle stood on, and its acquisition there (R12, R15, assumption 9). -/
theorem arrive_same_acquire {x : Vehicle} {a : Assignment} {c : Channel} (ha : a.channel = c) (hx : x.active.channel = c) :
    (x.arrive a).acquireAt c =
      { x with
        active := a, staged := none, inTransit := false, link := if x.link = .waiting then .acquiring else x.link } := by
  have harrive : x.arrive a = { x with active := a, staged := none, inTransit := false } := by
    simp [Vehicle.arrive, ha, hx]
  rw [harrive, acquireAt_eq]
  by_cases h : x.link = .waiting
  · simp [h, ha]
  · simp [h]

/-- An arrival on another channel is ACQUIRING already (R12). -/
theorem arrive_other_acquire {x : Vehicle} {a : Assignment} {c : Channel} (ha : a.channel = c) (hx : x.active.channel ≠ c) :
    (x.arrive a).acquireAt c =
      { x with active := a, staged := none, inTransit := false, link := .acquiring, misses := 0 } := by
  have harrive : x.arrive a =
      { x with active := a, staged := none, inTransit := false, link := .acquiring, misses := 0 } := by
    simp [Vehicle.arrive, ha, Ne.symm hx]
  rw [harrive, acquireAt_eq]
  simp

/-- The staged vehicle at a cycle start, case by case (R11, R12, R29). -/
theorem cycleStart_staged {x : Vehicle} {a : Assignment} (hv : x.valid = true) (hs : x.staged = some a) (c : Channel) :
    (x.inTransit = false → x.active.channel = c → a.channel ≠ c → x.cycleStart c = { x with inTransit := true }) ∧
    (x.inTransit = false → x.active.channel = c → a.channel = c → x.cycleStart c =
      { x with active := a, staged := none, link := if x.link = .waiting then .acquiring else x.link }) ∧
    (x.inTransit = true → a.channel = c → x.active.channel ≠ c → x.cycleStart c =
      { x with active := a, staged := none, inTransit := false, link := .acquiring, misses := 0 }) ∧
    (x.inTransit = true → a.channel = c → x.active.channel = c → x.cycleStart c =
      { x with
        active := a, staged := none, inTransit := false
        link := if x.link = .waiting then .acquiring else x.link }) ∧
    (x.inTransit = true → a.channel ≠ c → x.cycleStart c = x) ∧
    (x.inTransit = false → x.active.channel ≠ c → x.cycleStart c = x) := by
  rw [cycleStart_valid hv]
  refine ⟨fun ht hx ha => ?_, fun ht hx ha => ?_, fun ht ha hx => ?_, fun ht ha hx => ?_, fun ht ha => ?_, fun ht hx => ?_⟩
  · have hstage : x.stagingAt c = x.depart := by simp [Vehicle.stagingAt, hs, ht, hx, ha]
    rw [hstage]
    exact acquireAt_other (.inl rfl)
  · have hstage : x.stagingAt c = x.arrive a := by simp [Vehicle.stagingAt, hs, ht, hx, ha]
    rw [hstage, arrive_same_acquire ha hx, ← ht]
  · have hstage : x.stagingAt c = x.arrive a := by simp [Vehicle.stagingAt, hs, ht, ha]
    rw [hstage, arrive_other_acquire ha hx]
  · have hstage : x.stagingAt c = x.arrive a := by simp [Vehicle.stagingAt, hs, ht, ha]
    rw [hstage, arrive_same_acquire ha hx]
  · have hstage : x.stagingAt c = x := by simp [Vehicle.stagingAt, hs, ht, ha]
    rw [hstage]
    exact acquireAt_other (.inl ht)
  · have hstage : x.stagingAt c = x := by simp [Vehicle.stagingAt, hs, ht, hx]
    rw [hstage]
    exact acquireAt_other (.inr hx)

/-- Settles O32: slot 0 by the housekeeping queue, and each vehicle by its staging. -/
theorem cycleStartMovesVehiclesAndChoosesSlotZero : Obligations.CycleStartMovesVehiclesAndChoosesSlotZero := by
  refine ⟨fun c s h => exec_cycleStart_idle h, fun c s hs hf => ?_, fun x c => ⟨fun hv => ?_, fun hv => ⟨fun hn => ?_,
    fun a ha => cycleStart_staged hv ha c⟩⟩⟩
  · rw [exec_cycleStart hs hf]
    unfold State.beginCycle
    refine ⟨fun p hp => ?_, fun e rest hp hd => ?_, fun hp hd => ?_⟩
    · rw [startSlotZero_poll (u := { s.channel c with counter := ((s.channel c).counter + 1) % 4 }) hp]
    · rw [startSlotZero_direct (u := { s.channel c with counter := ((s.channel c).counter + 1) % 4 }) hp hd]
    · rw [startSlotZero_none (u := { s.channel c with counter := ((s.channel c).counter + 1) % 4 }) hp hd, ← hf]
  · simp [Vehicle.cycleStart, hv]
  · have hstage : x.stagingAt c = x := by simp [Vehicle.stagingAt, hn]
    rw [cycleStart_valid hv, hstage, acquireAt_eq]

/-! ### Slots and their owners -/

/-- A list's one member with a property is the one that is found. -/
theorem find?_of_unique {α : Type} {p : α → Bool} {l : List α} {a : α} (ha : a ∈ l) (hp : p a = true)
    (h : ∀ b ∈ l, p b = true → b = a) : l.find? p = some a := by
  cases hf : l.find? p with
  | none => exact absurd hp (by simpa using List.find?_eq_none.mp hf a ha)
  | some b => rw [h b (List.mem_of_find?_eq_some hf) (List.find?_some hf)]

/-- Two assignments collide where they share a channel, a drive slot, and the cycles of one phase (R31). -/
theorem collides_iff (a b : Assignment) :
    a.collides b = true ↔ a.channel = b.channel ∧
      (∃ slot : Nat, 1 ≤ slot ∧ slot ≤ 15 ∧ a.pattern.getLsbD (slot % a.period) = true ∧
        b.pattern.getLsbD (slot % b.period) = true) ∧
      a.phase % min a.divisor b.divisor = b.phase % min a.divisor b.divisor := by
  simp only [Assignment.collides, Assignment.inSlotSet, Bool.and_eq_true, decide_eq_true_eq, List.any_eq_true,
    List.mem_range, and_assoc]
  refine and_congr_right fun _ => and_congr_left fun _ => exists_congr fun slot => ?_
  constructor
  · rintro ⟨-, h1, h2, h3, -, -, h4⟩
    exact ⟨h1, h2, h3, h4⟩
  · rintro ⟨h1, h2, h3, h4⟩
    exact ⟨by omega, h1, h2, h3, h1, h2, h4⟩

/-- Two phases agree where some cycle of the four is in both (R31). -/
theorem phases_agree : ∀ d ∈ [1, 2, 4], ∀ e ∈ [1, 2, 4], ∀ p < d, ∀ q < e,
    (p % min d e = q % min d e ↔ ∃ counter < 4, counter % d = p ∧ counter % e = q) := by decide

/-- The phases of one cycle agree (R30, R31). -/
theorem phases_of_cycle {d e : Nat} (hd : d ∈ [1, 2, 4]) (he : e ∈ [1, 2, 4]) (counter : Nat) :
    counter % d % min d e = counter % e % min d e := by
  have hdvd : ∀ d ∈ [1, 2, 4], ∀ e ∈ [1, 2, 4], min d e ∣ d ∧ min d e ∣ e := by decide
  obtain ⟨h1, h2⟩ := hdvd d hd e he
  rw [Nat.mod_mod_of_dvd _ h1, Nat.mod_mod_of_dvd _ h2]

/-- The slot is the vehicle's: it is served, and the slot and the cycle are its own (R15, R30, R32). -/
def State.ownsSlot (s : State) (c : Channel) (slot : SlotNo) (v : VehicleId) : Prop :=
  (s.vehicle v).valid = true ∧ (s.vehicle v).inTransit = false ∧
    ((s.vehicle v).link = .acquiring ∨ (s.vehicle v).link = .online ∨ (s.vehicle v).link = .lost) ∧
    (s.vehicle v).active.channel = c ∧ 1 ≤ slot.val ∧
    (s.vehicle v).active.pattern.getLsbD (slot.val % (s.vehicle v).active.period) = true ∧
    (s.channel c).counter % (s.vehicle v).active.divisor = (s.vehicle v).active.phase

/-- What the search for a slot's owner asks of each vehicle. -/
theorem ownsSlot_iff (s : State) (c : Channel) (slot : SlotNo) (v : VehicleId) :
    ((s.vehicle v).served && decide ((s.vehicle v).active.channel = c) && (s.vehicle v).active.inSlotSet slot.val &&
      decide ((s.channel c).counter % (s.vehicle v).active.divisor = (s.vehicle v).active.phase)) = true ↔
      s.ownsSlot c slot v := by
  have hslot : slot.val ≤ 15 := by omega
  simp only [Vehicle.served, Assignment.inSlotSet, State.ownsSlot, Bool.and_eq_true, Bool.or_eq_true, Bool.not_eq_true',
    decide_eq_true_eq, hslot, and_true, and_assoc, or_assoc]

/-- Where no assignments collide, a slot has one owner (R31, R32). -/
theorem ownsSlot_unique {s : State} {c : Channel} {slot : SlotNo} (h : s.assignmentsApart)
    (hd : ∀ v, (s.vehicle v).active.divisor ∈ [1, 2, 4]) {v w : VehicleId} (hv : s.ownsSlot c slot v)
    (hw : s.ownsSlot c slot w) : w = v := by
  obtain ⟨v1, v2, -, v3, v4, v5, v6⟩ := hv
  obtain ⟨w1, w2, -, w3, w4, w5, w6⟩ := hw
  by_contra hne
  have hapart := h w v hne _ (mem_claims.mpr ⟨w1, .inl ⟨w2, rfl⟩⟩) _ (mem_claims.mpr ⟨v1, .inl ⟨v2, rfl⟩⟩)
  have hcollide := (collides_iff (s.vehicle w).active (s.vehicle v).active).mpr
    ⟨w3.trans v3.symm, ⟨slot.val, w4, by omega, w5, v5⟩, by rw [← w6, ← v6]; exact phases_of_cycle (hd w) (hd v) _⟩
  simp [hapart] at hcollide

/-- Settles O34, by the uniqueness of a slot's owner and the phases that share a cycle. -/
theorem slotServesOneVehicle : Obligations.SlotServesOneVehicle := by
  refine ⟨fun s c slot h hd v => ?_, fun a b hda hdb hpa hpb => ?_⟩
  · show s.slotOwner c slot = some v ↔ s.ownsSlot c slot v
    constructor
    · intro hf
      unfold State.slotOwner at hf
      have howner := List.find?_some hf
      exact (ownsSlot_iff s c slot v).mp howner
    · exact fun hv => find?_of_unique (List.mem_finRange v) ((ownsSlot_iff s c slot v).mpr hv) fun w _ hw =>
        ownsSlot_unique h hd hv ((ownsSlot_iff s c slot w).mp hw)
  · rw [collides_iff, phases_agree _ hda _ hdb _ hpa _ hpb]
    refine and_congr_right fun _ => ⟨?_, ?_⟩
    · rintro ⟨⟨slot, h1, h2, h3, h4⟩, counter, h5, h6, h7⟩
      exact ⟨slot, h1, h2, counter, h5, ⟨h3, h6⟩, h4, h7⟩
    · rintro ⟨slot, h1, h2, counter, h5, ⟨h3, h6⟩, h4, h7⟩
      exact ⟨⟨slot, h1, h2, h3, h4⟩, counter, h5, h6, h7⟩

/-! ### Windows that end without an ack -/

/-- The end of a drive slot's window, handed to the Vehicle Table (R35). -/
theorem exec_responseWindowEnd {c : Channel} {v : VehicleId} {address : Byte} {kind : Kind} {ack : Option Ack} {s : State}
    (h : (s.channel c).flight = some (.drive v address kind ack)) :
    exec (.responseWindowEnd c) s = .next ((s.endSlot c).slotOutcome v ack).settle := by
  show execResponseWindowEnd c s = _
  simp [execResponseWindowEnd, h]

theorem endSlot_vehicle (s : State) (c : Channel) (v : VehicleId) : (s.endSlot c).vehicle v = s.vehicle v := rfl

/-- The window of a vehicle that is leaving (R13, R14). -/
theorem slotOutcome_leaving {s : State} {v : VehicleId} (hv : (s.vehicle v).valid = false) (ack : Option Ack) :
    (s.slotOutcome v ack).settle = s.setVehicle v (s.vehicle v).reachOff := by
  have hout : s.slotOutcome v ack = { state := s.setVehicle v (s.vehicle v).reachOff } := by simp [State.slotOutcome, hv]
  rw [hout, settle_quiet _ rfl rfl]

theorem slotOutcome_miss {s : State} {v : VehicleId} (hv : (s.vehicle v).valid = true) :
    s.slotOutcome v none = s.miss v := by
  simp [State.slotOutcome, hv]

/-- A miss that loses no vehicle (R17). -/
theorem miss_counted {s : State} {v : VehicleId}
    (h : ((s.vehicle v).link ≠ .acquiring ∧ (s.vehicle v).link ≠ .online) ∨
      min 15 ((s.vehicle v).misses + 1) < s.limits.lostThreshold) :
    (s.miss v).settle = s.setVehicle v { s.vehicle v with misses := min 15 ((s.vehicle v).misses + 1) } := by
  have hout : s.miss v = { state := s.setVehicle v { s.vehicle v with misses := min 15 ((s.vehicle v).misses + 1) } } := by
    unfold State.miss
    dsimp only
    rw [if_neg]
    simp only [Bool.and_eq_true, Bool.or_eq_true, decide_eq_true_eq]
    rintro ⟨hl, hk⟩
    rcases h with ⟨h1, h2⟩ | h
    · exact hl.elim h1 h2
    · omega
  rw [hout, settle_quiet _ rfl rfl]

/-- The state in which a vehicle has gone LOST by its misses, and its convoy has broken (R17, R18, R94). -/
def State.missedLost (s : State) (v : VehicleId) : State :=
  (s.setVehicle v ({ s.vehicle v with misses := min 15 ((s.vehicle v).misses + 1) } : Vehicle).goLost).loseMembers [v]

/-- A miss that loses its vehicle (R17). -/
theorem miss_lost {s : State} {v : VehicleId} (hl : (s.vehicle v).link = .acquiring ∨ (s.vehicle v).link = .online)
    (hk : s.limits.lostThreshold ≤ min 15 ((s.vehicle v).misses + 1)) :
    s.miss v =
      { state := s.missedLost v
        latches := [if (s.vehicle v).link = .online then [⟨.vehicleLost, .vehicle v, (s.vehicle v).current⟩] else []] } := by
  unfold State.miss
  dsimp only
  rw [if_pos]
  · rfl
  · simpa only [Bool.and_eq_true, Bool.or_eq_true, decide_eq_true_eq] using ⟨hl, hk⟩

/-- What the loss of a vehicle by its misses leaves, written out (R18, R94). -/
theorem missedLost_eq (s : State) (v : VehicleId) :
    s.missedLost v =
      let lost := s.setVehicle v
        { s.vehicle v with
          misses := min 15 ((s.vehicle v).misses + 1), link := .lost, speed := 0, direction := .neutral, zeroFrames := 15 }
      match (s.vehicle v).convoy with
      | some i =>
        if (s.convoy i).state = .rolling ∨ (s.convoy i).state = .holdPending ∨ (s.convoy i).state = .holding then
          lost.setConvoy i { s.convoy i with state := .broken, cause := some (.lost v), holdRef := none }
        else lost
      | none => lost := by
  have hbreaks (k : Convoy) : k.breaksOnLoss = true ↔ k.state = .rolling ∨ k.state = .holdPending ∨ k.state = .holding := by
    simp [Convoy.breaksOnLoss, or_assoc]
  unfold State.missedLost
  rw [loseMembers_one, vehicle_setVehicle_same]
  simp only [Vehicle.goLost, setVehicle_convoy, hbreaks]
  rfl

/-- Settles O36, by whether the miss loses the vehicle. -/
theorem missOrLeavingEndsSlot : Obligations.MissOrLeavingEndsSlot := by
  refine ⟨fun c v address kind s h hv => ?_, fun c v address kind ack s h hv => ?_⟩
  · have hmiss : exec (.responseWindowEnd c) s = .next ((s.endSlot c).miss v).settle := by
      rw [exec_responseWindowEnd h, slotOutcome_miss (s := s.endSlot c) hv]
    have hbroken := missedLost_eq (s.endSlot c) v
    refine ⟨fun hk => ?_, fun hl hk => ?_, fun hl hk => ?_⟩
    · exact hmiss.trans (congrArg _ (miss_counted (s := s.endSlot c) hk))
    · have hquiet : (s.vehicle v).link ≠ .online := by simp [hl]
      rw [hmiss, miss_lost (s := s.endSlot c) (.inl hl) hk, endSlot_vehicle, if_neg hquiet, settle_quiet _ rfl rfl]
      dsimp only
      rw [hbroken]
      rfl
    · rw [hmiss, miss_lost (s := s.endSlot c) (.inr hl) hk, endSlot_vehicle, if_pos hl, settle_latched]
      rw [hbroken]
      rfl
  · rw [exec_responseWindowEnd h, slotOutcome_leaving (s := s.endSlot c) hv]
    rfl

end Sys2Proof.Machine

/-! SUPPORT. The end of a round, the vehicle that a reply names, and the front of a string (R138, R144, R145). -/

namespace Sys2Proof.Machine

/-- A poll's window ends: its report is given, and what that latches is taken in order (R39, R144). -/
theorem exec_housekeepingWindowEnd_poll {c : Channel} {p : PollSubject} {replies : List Byte} {garbled : Bool} {s : State}
    (h : (s.channel c).flight = some (.poll p replies garbled true)) :
    exec (.housekeepingWindowEnd c) s = .next
      (((s.endSlot c).pollReport c replies garbled).2.foldl State.latched ((s.endSlot c).pollReport c replies garbled).1) := by
  rw [← settle_latches]
  show execHousekeepingWindowEnd c s = _
  simp [execHousekeepingWindowEnd, h]

/-- The report of the only channel that is awaited ends the round (R144). -/
theorem pollReport_last {s : State} {i : Identification} {c : Channel} (hi : s.coupler.ident = some i)
    (hc : i.awaiting = [c]) (replies : List Byte) (garbled : Bool) :
    s.roundEnded (s.pollReport c replies garbled).1
      { i with
        awaiting := [], replies := i.replies ++ replies.map (fun r => (c, r)), garbled := i.garbled || garbled }
      (s.pollReport c replies garbled).2 :=
  ((pollReport_reported s c replies garbled).2 i hi (by simp [hc])).2 (by simp [hc])

/-! ### The vehicle that a channel and an address name -/

/-- What the search for an occupant asks of each vehicle (R7, R145). -/
theorem occupant_iff (s : State) (c : Channel) (address : Byte) (v : VehicleId) :
    ((s.vehicle v).valid && decide ((s.vehicle v).address = address) &&
      (decide ((s.vehicle v).active.channel = c) && !(s.vehicle v).inTransit ||
        decide ((s.vehicle v).staged.map Assignment.channel = some c))) = true ↔
      (s.vehicle v).valid = true ∧ (s.vehicle v).address = address ∧
        (((s.vehicle v).active.channel = c ∧ (s.vehicle v).inTransit = false) ∨ ∃ a ∈ (s.vehicle v).staged, a.channel = c) := by
  simp only [Bool.and_eq_true, Bool.or_eq_true, Bool.not_eq_true', decide_eq_true_eq, Option.map_eq_some_iff,
    Option.mem_def, and_assoc]

/-- Where no two vehicles share a channel and an address, a name has one bearer (R7). -/
theorem occupant_unique {s : State} {c : Channel} {v w : VehicleId} (h : s.addressesApart)
    (hv : (s.vehicle v).valid = true) (hw : (s.vehicle w).valid = true)
    (ha : (s.vehicle w).address = (s.vehicle v).address) (hcv : (s.vehicle v).occupies c = true)
    (hcw : (s.vehicle w).occupies c = true) : w = v := by
  by_contra hne
  exact h w v hne hw hv ha c ⟨hcw, hcv⟩

/-! ### The front of a string -/

theorem forwardBy_front {s : State} {v : VehicleId} (h : (s.vehicle v).attachedBehind = none) (n : Nat) :
    s.forwardBy n v = [v] ∧ s.foremostBy n v = v := by
  cases n with
  | zero => exact ⟨rfl, rfl⟩
  | succ n => simp [State.forwardBy, State.foremostBy, h]

theorem foremostBy_attached {s : State} {v f : VehicleId} (n : Nat) (h : s.attached v f) :
    s.foremostBy (n + 1) v = s.foremostBy n f := by
  obtain ⟨⟨g, st⟩, hg, rfl⟩ := Option.map_eq_some_iff.mp h
  simp [State.foremostBy, hg]

theorem attached_or_front (s : State) (v : VehicleId) :
    (∃ f, s.attached v f) ∨ (s.vehicle v).attachedBehind = none := by
  unfold State.attached
  cases (s.vehicle v).attachedBehind <;> simp

/-- A vehicle that is attached behind an attached one has a front in two links: a string holds two trailers at most (R138). -/
theorem front_of_second {s : State} {v f g : VehicleId} (hs : s.stringsSound) (h : s.attached v f) (k : s.attached f g) :
    (s.vehicle g).attachedBehind = none := by
  rcases attached_or_front s g with ⟨e, he⟩ | hnone
  · have htractor := hs.2.2.1 v f g h k
    have htrailer := (hs.1 g e he).2.1
    simp [htractor] at htrailer
  · exact hnone

/-- Two links are enough from behind an attached vehicle, and one more changes nothing (R138). -/
theorem forwardBy_stable {s : State} {v f : VehicleId} (hs : s.stringsSound) (h : s.attached v f) (n : Nat) :
    s.forwardBy (n + 1) f = s.forwardBy (n + 2) f ∧ s.foremostBy (n + 1) f = s.foremostBy (n + 2) f := by
  rcases attached_or_front s f with ⟨g, k⟩ | hnone
  · have hg := front_of_second hs h k
    rw [forwardBy_attached n k, forwardBy_attached (n + 1) k, foremostBy_attached n k, foremostBy_attached (n + 1) k,
      (forwardBy_front hg n).1, (forwardBy_front hg (n + 1)).1, (forwardBy_front hg n).2, (forwardBy_front hg (n + 1)).2]
    exact ⟨rfl, rfl⟩
  · rw [(forwardBy_front hnone _).1, (forwardBy_front hnone _).1, (forwardBy_front hnone _).2, (forwardBy_front hnone _).2]
    exact ⟨rfl, rfl⟩

/-- What stands in front of an attached vehicle is what stands in front of the one it is attached behind. -/
theorem forward_attached {s : State} {v f : VehicleId} (hs : s.stringsSound) (h : s.attached v f) :
    s.forwardBy 64 v = v :: s.forwardBy 64 f ∧ s.foremost v = s.foremost f := by
  obtain ⟨h1, h2⟩ := forwardBy_stable hs h 62
  exact ⟨(forwardBy_attached 63 h).trans (congrArg _ h1), (foremostBy_attached 63 h).trans h2⟩

/-- The foremost vehicle is attached behind nothing (R138). -/
theorem foremost_front {s : State} (hs : s.stringsSound) (v : VehicleId) :
    (s.vehicle (s.foremost v)).attachedBehind = none := by
  rcases attached_or_front s v with ⟨f, h⟩ | hv
  · rw [(forward_attached hs h).2]
    rcases attached_or_front s f with ⟨g, k⟩ | hf
    · have hg := front_of_second hs h k
      rw [(forward_attached hs k).2, State.foremost, (forwardBy_front hg 64).2]
      exact hg
    · rw [State.foremost, (forwardBy_front hf 64).2]
      exact hf
  · rw [State.foremost, (forwardBy_front hv 64).2]
    exact hv

/-- Settles O42, from what a channel's report does and the length of a string. -/
theorem roundEndAttachesOrPollsAgain : Obligations.RoundEndAttachesOrPollsAgain := by
  refine ⟨fun c p replies garbled i s hf hi hc => ?_, fun s c address => ⟨fun y hy => ?_, fun hnone y hy => ?_,
    fun ha y hy => ?_⟩, fun s x y => ?_, fun s v => ⟨fun h => forwardBy_front h 64, fun hs => ⟨foremost_front hs v,
    fun f st h => forward_attached hs (by simp [State.attached, h])⟩⟩⟩
  · exact ⟨_, exec_housekeepingWindowEnd_poll hf, _, _, pollReport_last (s := s.endSlot c) hi hc replies garbled, rfl⟩
  · unfold State.occupant at hy
    have hfound := List.find?_some hy
    exact (occupant_iff s c address y).mp hfound
  · exact List.find?_eq_none.mp hnone y (List.mem_finRange y) ((occupant_iff s c address y).mpr hy)
  · refine find?_of_unique (List.mem_finRange y) ((occupant_iff s c address y).mpr hy) fun w _ hw => ?_
    obtain ⟨hwv, hwa, hwc⟩ := (occupant_iff s c address w).mp hw
    obtain ⟨hyv, hya, hyc⟩ := hy
    exact occupant_unique ha hyv hwv (hwa.trans hya.symm) ((occupies_iff _ c).mpr (hyc.imp_left And.symm))
      ((occupies_iff _ c).mpr (hwc.imp_left And.symm))
  · simp only [State.suitable, trailerCount_eq, Bool.and_eq_true, decide_eq_true_eq, Option.isNone_iff_eq_none,
      Bool.not_eq_true', List.contains_eq_mem, decide_eq_false_iff_not, and_assoc]

end Sys2Proof.Machine

/-! SUPPORT. A window that ends with a valid ack: the telemetry, and the three blocks that act on it (R16). -/

namespace Sys2Proof.Machine

/-- BATTERY_LOW is due where the battery has newly fallen below the floor (R16). -/
theorem batteryFalls_eq (s : State) (before : Vehicle) (a : Ack) :
    s.batteryFalls before a =
      match a.battery with
      | some b => decide (b.toNat < s.limits.batteryFloor ∧ ∀ o ∈ before.battery, s.limits.batteryFloor ≤ o.toNat)
      | none => false := by
  unfold State.batteryFalls
  cases a.battery with
  | none => rfl
  | some b => cases before.battery <;> simp

/-- What the Convoy Engine and the Lane Arbiter do at an ack: convoys and lane lists alone (R16). -/
theorem laneAck_after_convoyAck (s : State) (v : VehicleId) (before : Option Segment) :
    let lane := (s.convoyAck v before).1.laneAck v
    lane.1 = { s with convoys := lane.1.convoys, lanes := lane.1.lanes } ∧
      (∀ i, (s.vehicle v).convoy ≠ some i → lane.1.convoy i = s.convoy i) ∧
      ((s.vehicle v).kind = .trailer → lane.1.lanes = s.lanes) := by
  obtain ⟨hframe, hother, -⟩ := convoyAck_spec s v before
  generalize hc : s.convoyAck v before = convoy at hframe hother
  obtain ⟨hlane, -, htrailer⟩ := laneAck_spec convoy.1 v
  have hvehicle : convoy.1.vehicle v = s.vehicle v := by rw [hframe]; rfl
  dsimp only
  refine ⟨?_, fun i hi => ?_, fun hk => ?_⟩
  · rw [hlane, hframe]
  · rw [hlane]
    exact hother i hi
  · rw [htrailer (hvehicle ▸ hk), hframe]

/-- What the three blocks do at an ack (R16): the vehicles change in their attachments alone, and the channels in their polls. -/
theorem ackBlocks_spec {s t : State} {v : VehicleId} {before : Vehicle}
    (ht : t = (((s.convoyAck v before.current).1.laneAck v).1.couplerAck v before).1) :
    (∀ x, t.vehicle x = { s.vehicle x with attachedBehind := (t.vehicle x).attachedBehind }) ∧
      (∀ d, t.channel d = { s.channel d with pendingPoll := (t.channel d).pendingPoll, flight := (t.channel d).flight }) ∧
      (∀ d, (s.channel d).flight = none → (t.channel d).flight = none) ∧
      (∀ i, (s.vehicle v).convoy ≠ some i → t.convoy i = s.convoy i) ∧
      ((s.vehicle v).kind = .trailer → t.lanes = s.lanes) ∧
      t = { s with
        vehicles := t.vehicles, convoys := t.convoys, lanes := t.lanes, coupler := t.coupler, channels := t.channels } := by
  obtain ⟨hlane, hconvoys, hlanes⟩ := laneAck_after_convoyAck s v before.current
  generalize ((s.convoyAck v before.current).1.laneAck v).1 = lane at ht hlane hconvoys hlanes
  obtain ⟨⟨hcouple, hvehicle, hchannel, hended⟩, -⟩ := couplerAck_spec lane v before
  have hveh (x) : lane.vehicle x = s.vehicle x := by rw [hlane]; rfl
  have hch (d) : lane.channel d = s.channel d := by rw [hlane]; rfl
  rw [← ht] at hcouple hvehicle hchannel hended
  refine ⟨fun x => hveh x ▸ hvehicle x, fun d => hch d ▸ hchannel d, fun d hd => hended d (hch d ▸ hd),
    fun i hi => ?_, fun hk => ?_, ?_⟩
  · exact (show t.convoy i = lane.convoy i by rw [hcouple]; rfl).trans (hconvoys i hi)
  · exact (show t.lanes = lane.lanes by rw [hcouple]).trans (hlanes hk)
  · rw [hcouple, hlane]

/-- The end of a window with an ack, handed to the Vehicle Table (R35). -/
theorem slotOutcome_ack {s : State} {v : VehicleId} (hv : (s.vehicle v).valid = true) (a : Ack) :
    s.slotOutcome v (some a) = s.validAck v a := by
  simp [State.slotOutcome, hv]

/-- A valid ack, block after block (R16). -/
theorem validAck_eq (s : State) (v : VehicleId) (a : Ack) :
    let convoy := (s.setVehicle v ((s.vehicle v).withAck a)).convoyAck v (s.vehicle v).current
    let lane := convoy.1.laneAck v
    let couple := lane.1.couplerAck v (s.vehicle v)
    s.validAck v a =
      { state := couple.1
        latches :=
          [if s.batteryFalls (s.vehicle v) a then [⟨.batteryLow, .vehicle v, a.current⟩] else [], convoy.2, lane.2,
            couple.2] } := by
  unfold State.validAck
  rfl

/-- The latches of an ack, class by class (R151, R153). -/
theorem ackLatches_any (b : Bool) (l : Latch) (xs ys zs : List Latch) (k : FaultClass) :
    [if b then [l] else [], xs, ys, zs].flatten.any (fun m => decide (k = m.cls)) =
      ((b && decide (k = l.cls)) || (xs ++ ys ++ zs).any (fun m => decide (k = m.cls))) := by
  cases b <;> simp

/-- The slot of a channel has ended there, and nothing else has changed (R35). -/
theorem endSlot_channel (s : State) (c d : Channel) :
    (s.endSlot c).channel d = { s.channel d with flight := ((s.endSlot c).channel d).flight } := by
  unfold State.endSlot
  rw [channel_setChannel]
  split
  · rename_i e; rw [e]
  · rfl

/-- Settles O37: the blocks change what their own laws say, and the end of the event takes the latches. -/
theorem validAckWritesTelemetry : Obligations.ValidAckWritesTelemetry := by
  intro c v address kind a s hflight hv before written batteryFalls s1 convoy lane couple
  obtain ⟨w, hw⟩ : ∃ w : Work, w =
      { state := couple.1
        latches :=
          [if batteryFalls then [⟨.batteryLow, .vehicle v, a.current⟩] else [], convoy.2, lane.2, couple.2] } := ⟨_, rfl⟩
  have hexec : exec (.responseWindowEnd c) s = .next w.settle := by
    rw [exec_responseWindowEnd hflight, slotOutcome_ack (s := s.endSlot c) hv, validAck_eq, batteryFalls_eq, hw]
    rfl
  have hstate : w.state = couple.1 := by rw [hw]
  have hlatches : w.latches =
      [if batteryFalls then [⟨.batteryLow, .vehicle v, a.current⟩] else [], convoy.2, lane.2, couple.2] := by rw [hw]
  have hsettled : couple.1.settled w.settle w.latches := hstate ▸ settle_settled w (by rw [hw])
  have hflag := settle_flag w
  rw [hstate, hlatches] at hflag
  rw [hlatches] at hsettled
  have hs1 (x) : s1.vehicle x = if x = v then written else s.vehicle x := vehicle_setVehicle _ v x written
  have hslot (d) : s1.channel d = { s.channel d with flight := (s1.channel d).flight } := endSlot_channel s c d
  have hover : (s1.channel c).flight = none := congrArg ChannelUnit.flight (channel_setChannel_same s c _)
  have hwritten : written.convoy = (s.vehicle v).convoy ∧ written.kind = (s.vehicle v).kind := ⟨rfl, rfl⟩
  have hsame : s1 = { s with vehicles := s1.vehicles, channels := s1.channels } := rfl
  have hspec := ackBlocks_spec (s := s1) (t := couple.1) (v := v) (before := before) rfl
  clear_value couple lane convoy s1 written
  obtain ⟨hvehicle, hchannel, hended, hconvoys, hlanes, hblocks⟩ := hspec
  have hframe := settled_frame hsettled
  generalize w.settle = t at hexec hsettled hframe hflag
  have htv (x) : t.vehicle x = couple.1.vehicle x := by rw [hframe]; rfl
  have htc (d) : t.channel d = couple.1.channel d := by rw [hframe]; rfl
  have hmine : s1.vehicle v = written := (hs1 v).trans (if_pos rfl)
  refine ⟨t, hexec, ?_, fun x hx => ?_, hsettled, fun k => ?_, fun i hi => ?_, fun hk => ?_, ?_, fun d => ?_, ?_⟩
  · rw [htv, ← hmine]
    exact hvehicle v
  · rw [htv, ← (hs1 x).trans (if_neg hx)]
    exact hvehicle x
  · have hfault : couple.1.fault = s.fault := by rw [hblocks, hsame]
    rw [hflag, ackLatches_any, hfault, Bool.or_assoc]
  · have hmember : (s1.vehicle v).convoy ≠ some i := by rwa [hmine, hwritten.1]
    have hback : s1.convoy i = s.convoy i := by rw [hsame]; rfl
    rw [hframe]
    exact (hconvoys i hmember).trans hback
  · have htrailer : (s1.vehicle v).kind = .trailer := by rwa [hmine, hwritten.2]
    rw [hframe]
    exact (hlanes htrailer).trans (by rw [hsame])
  · rw [htc]
    exact hended c hover
  · rw [htc, hchannel d, hslot d]
  · rw [hframe, hblocks, hsame]

end Sys2Proof.Machine

namespace Sys2Proof.Machine

/-! ### The bytes of a vehicle entry (check 1 of R5, R6) -/

theorem kindOf_none (b : Byte) : kindOf b = none ↔ 2 ≤ b.toNat := by
  simp only [kindOf, ← BitVec.toNat_inj, show (0 : Byte).toNat = 0 from rfl, show (1 : Byte).toNat = 1 from rfl]
  split
  · simp_all
  · split
    · simp_all
    · simp only [true_iff]
      omega

theorem kindOf_some {b : Byte} {k : Kind} (h : kindOf b = some k) : k = if b = 0 then .tractor else .trailer := by
  unfold kindOf at h
  split at h
  · rename_i e
    rw [if_pos e]
    exact (Option.some.inj h).symm
  · rename_i e
    split at h
    · rw [if_neg e]
      exact (Option.some.inj h).symm
    · simp at h

/-- The flags at P and above are stored clear (R3). -/
theorem maskPattern_eq (pattern : Half) (period : Nat) :
    pattern &&& BitVec.ofNat 16 (2 ^ period - 1) = BitVec.ofNat 16 (pattern.toNat % 2 ^ period) := by
  apply BitVec.eq_of_toNat_eq
  have hlt : pattern.toNat % 2 ^ period < 2 ^ 16 := lt_of_le_of_lt (Nat.mod_le _ _) pattern.isLt
  rw [BitVec.toNat_and, BitVec.toNat_ofNat, BitVec.toNat_ofNat, Nat.mod_eq_of_lt hlt, ← Nat.and_two_pow_sub_one_eq_mod _ 16,
    ← Nat.and_assoc, Nat.and_right_comm, Nat.and_two_pow_sub_one_eq_mod _ 16, Nat.mod_eq_of_lt pattern.isLt,
    Nat.and_two_pow_sub_one_eq_mod]

/-- The stored pattern has the written flag at every position that a slot of a cycle can name (R3, R30). -/
theorem maskPattern_bit (pattern : Half) {period : Nat} (h : 1 ≤ period) (slot : Nat) :
    (pattern &&& BitVec.ofNat 16 (2 ^ period - 1)).getLsbD (slot % period) = pattern.getLsbD (slot % period) := by
  have hlt : slot % period < period := Nat.mod_lt _ h
  rw [BitVec.getLsbD_and, BitVec.getLsbD_ofNat, Nat.testBit_two_pow_sub_one]
  by_cases hs : slot % period < 16
  · simp [hs, hlt]
  · simp [BitVec.getLsbD_of_ge pattern (slot % period) (by omega)]

theorem slotSet_isEmpty (a : Assignment) :
    a.slotSet.isEmpty = true ↔ ∀ slot, 1 ≤ slot → slot ≤ 15 → a.pattern.getLsbD (slot % a.period) = false := by
  simp only [Assignment.slotSet, List.isEmpty_iff, List.filter_eq_nil_iff, List.mem_range, Assignment.inSlotSet,
    Bool.and_eq_true, decide_eq_true_eq, not_and, Bool.not_eq_true]
  exact ⟨fun h slot h1 h2 => h slot (by omega) ⟨h1, h2⟩, fun h slot _ hs => h slot hs.1 hs.2⟩

/-- The fields of an assignment that check 1 of R5 refuses, its channel apart. -/
def assignmentBad (period divisor phase : Byte) (pattern : Half) : Prop :=
  period.toNat < 1 ∨ 16 < period.toNat ∨ (divisor ≠ 1 ∧ divisor ≠ 2 ∧ divisor ≠ 4) ∨ divisor.toNat ≤ phase.toNat ∨
    ∀ slot, 1 ≤ slot → slot ≤ 15 → pattern.getLsbD (slot % period.toNat) = false

/-- The test that `assignmentOf` makes, on the pattern as stored. -/
theorem not_assignmentBad (c : Channel) (period divisor phase : Byte) (pattern : Half) :
    (1 ≤ period.toNat ∧ period.toNat ≤ 16 ∧ (divisor = 1 ∨ divisor = 2 ∨ divisor = 4) ∧ phase.toNat < divisor.toNat ∧
      (!(Assignment.mk c period.toNat (pattern &&& BitVec.ofNat 16 (2 ^ period.toNat - 1)) divisor.toNat
        phase.toNat).slotSet.isEmpty) = true) ↔ ¬assignmentBad period divisor phase pattern := by
  by_cases h : 1 ≤ period.toNat
  · rw [Bool.not_eq_true', ← Bool.not_eq_true, slotSet_isEmpty]
    simp only [maskPattern_bit pattern h, assignmentBad, not_or, not_lt, not_le]
    simp only [not_and_or, ne_eq, not_not]
  · simp only [assignmentBad, h, false_and, false_iff, not_not]
    exact .inl (by omega)

/-- What an assignment is read as (R3). -/
theorem assignmentOf_code (c : Channel) (period divisor phase : Byte) (pattern : Half) :
    (assignmentBad period divisor phase pattern → assignmentOf (channelCode c) period divisor phase pattern = none) ∧
      (¬assignmentBad period divisor phase pattern →
        assignmentOf (channelCode c) period divisor phase pattern =
          some ⟨c, period.toNat, BitVec.ofNat 16 (pattern.toNat % 2 ^ period.toNat), divisor.toNat, phase.toNat⟩) := by
  unfold assignmentOf
  rw [channelOf_code, ← maskPattern_eq]
  dsimp only
  exact ⟨fun h => if_neg fun k => (not_assignmentBad c period divisor phase pattern).mp k h,
    fun h => if_pos ((not_assignmentBad c period divisor phase pattern).mpr h)⟩

theorem assignmentOf_none_of_bad {channel period divisor phase : Byte} {pattern : Half}
    (h : 4 ≤ channel.toNat ∨ assignmentBad period divisor phase pattern) :
    assignmentOf channel period divisor phase pattern = none := by
  cases hc : channelOf channel with
  | none => simp [assignmentOf, hc]
  | some c =>
    have hlt : ¬4 ≤ channel.toNat := fun k => by simp [(channelOf_none channel).mpr k] at hc
    rw [(channelOf_some channel c).mp hc]
    exact (assignmentOf_code c period divisor phase pattern).1 (h.resolve_left hlt)

/-- A clamped number differs from the written one outside the range (R2). -/
theorem clampNat_ne {lo hi n : Nat} (h : lo ≤ hi) : clampNat lo hi n ≠ n ↔ n < lo ∨ hi < n := by
  unfold clampNat
  omega

theorem clampInt_ne {lo hi n : Int} (h : lo ≤ hi) : clampInt lo hi n ≠ n ↔ n < lo ∨ hi < n := by
  unfold clampInt
  omega

/-- The configuration of an entry that check 1 of R5 refuses, and of one that it passes (R3, R6). -/
theorem vehicleConfigOf_spec (valid kind channel address period ph pl divisor phase up down dwell sh sl trim load : Byte) :
    let entry := vehicleConfigOf
      [valid, kind, channel, address, period, ph, pl, divisor, phase, up, down, dwell, sh, sl, trim, load]
    let pattern := halfOf ph pl
    let span := (halfOf sh sl).toNat
    let bad := 2 ≤ kind.toNat ∨ 4 ≤ channel.toNat ∨ address = 0 ∨ address = 255 ∨ assignmentBad period divisor phase pattern
    (bad → entry = none) ∧
      (¬bad → ∀ c : Channel, channel = channelCode c → entry = some
        ({ valid := decide (valid ≠ 0), kind := if kind = 0 then .tractor else .trailer
           assignment :=
             { channel := c, period := period.toNat
               pattern := BitVec.ofNat 16 (pattern.toNat % 2 ^ period.toNat)
               divisor := divisor.toNat, phase := phase.toNat }
           address := address, accelUp := max 1 (min 32 up.toNat), accelDown := max 1 (min 64 down.toNat)
           dwell := max 1 (min 15 dwell.toNat), span := max 200 (min 500 span)
           trim := max (-64) (min 63 trim.toInt), loadClass := min 3 load.toNat },
         decide (up.toNat < 1 ∨ 32 < up.toNat ∨ down.toNat < 1 ∨ 64 < down.toNat ∨ dwell.toNat < 1 ∨ 15 < dwell.toNat ∨
           span < 200 ∨ 500 < span ∨ trim.toInt < -64 ∨ 63 < trim.toInt ∨ 3 < load.toNat))) := by
  intro entry pattern span bad
  refine ⟨fun h => ?_, fun h c hc => ?_⟩
  · show vehicleConfigOf _ = none
    unfold vehicleConfigOf
    dsimp only
    by_cases hk : 2 ≤ kind.toNat
    · rw [(kindOf_none kind).mpr hk]
    · by_cases ha : 4 ≤ channel.toNat ∨ assignmentBad period divisor phase pattern
      · rw [assignmentOf_none_of_bad ha]
        cases kindOf kind <;> rfl
      · have hz : address = 0 ∨ address = 255 := by tauto
        simp only [if_pos hz]
        split <;> rfl
  · obtain ⟨hk, -, h0, h255, ha⟩ : _ ∧ _ ∧ _ ∧ _ ∧ _ := by simpa only [bad, not_or] using h
    obtain ⟨k, hkind⟩ : ∃ k, kindOf kind = some k := by
      cases e : kindOf kind with
      | none => exact absurd ((kindOf_none kind).mp e) hk
      | some k => exact ⟨k, rfl⟩
    subst hc
    show vehicleConfigOf _ = _
    unfold vehicleConfigOf
    dsimp only
    rw [hkind, (assignmentOf_code c period divisor phase _).2 ha]
    have hload : clampNat 0 3 load.toNat = min 3 load.toNat := Nat.zero_max _
    have hclamped : (decide (clampNat 1 32 up.toNat ≠ up.toNat) || decide (clampNat 1 64 down.toNat ≠ down.toNat) ||
        decide (clampNat 1 15 dwell.toNat ≠ dwell.toNat) || decide (clampNat 200 500 span ≠ span) ||
        decide (clampInt (-64) 63 trim.toInt ≠ trim.toInt) || decide (clampNat 0 3 load.toNat ≠ load.toNat)) =
        decide (up.toNat < 1 ∨ 32 < up.toNat ∨ down.toNat < 1 ∨ 64 < down.toNat ∨ dwell.toNat < 1 ∨ 15 < dwell.toNat ∨
          span < 200 ∨ 500 < span ∨ trim.toInt < -64 ∨ 63 < trim.toInt ∨ 3 < load.toNat) := by
      simp only [clampNat_ne (by decide : 1 ≤ 32), clampNat_ne (by decide : 1 ≤ 64), clampNat_ne (by decide : 1 ≤ 15),
        clampNat_ne (by decide : 200 ≤ 500), clampInt_ne (by decide : (-64 : Int) ≤ 63), clampNat_ne (by decide : 0 ≤ 3),
        ← Bool.decide_or, or_assoc, Nat.not_lt_zero, false_or]
    simp only [h0, h255, or_self, if_false, ← hclamped, ← kindOf_some hkind, hload]
    rfl

/-! ### Checks 2 to 6 of R5 -/

theorem isTarget_iff (s : State) (v : VehicleId) :
    s.isTarget v = true ↔ ∃ b, (s.binding b).state ≠ .empty ∧ ∃ t ∈ (s.binding b).tie, t.target = .vehicle v := by
  simp only [State.isTarget, State.ownBinding, State.bindingOn, Option.isSome_map, List.find?_isSome, indices,
    List.mem_finRange, true_and, Bool.and_eq_true, decide_eq_true_eq]
  refine exists_congr fun b => and_congr_right fun _ => ?_
  cases (s.binding b).tie <;> simp

theorem holdsAny_iff (s : State) (u : MoveUnit) : s.holdsAny u = true ↔ ∃ r, ∃ h ∈ (s.lane r).holders, h.unit = u := by
  simp [State.holdsAny, Lane.holds, indices]

theorem waitsAny_iff (s : State) (u : MoveUnit) : s.waitsAny u = true ↔ ∃ r, u ∈ (s.lane r).waiting := by
  simp [State.waitsAny, Lane.waits, indices]

theorem behind_ne_none (s : State) (v : VehicleId) : s.behind v ≠ none ↔ ∃ w, s.attached w v := by
  constructor
  · intro h
    obtain ⟨w, hw⟩ := Option.ne_none_iff_exists'.mp h
    exact ⟨w, attached_of_behind hw⟩
  · rintro ⟨w, hw⟩ h
    exact not_attached_of_behind h w hw

/-- The uses of a vehicle that keep it from being invalidated (R13). -/
def State.uses (s : State) (v : VehicleId) : Prop :=
  (s.vehicle v).convoy ≠ none ∨ (∃ b, (s.binding b).state ≠ .empty ∧ ∃ t ∈ (s.binding b).tie, t.target = .vehicle v) ∨
    ∃ r, ∃ h ∈ (s.lane r).holders, h.unit = .vehicle v

theorem blocksInvalidation_iff (s : State) (v : VehicleId) : s.blocksInvalidation v = true ↔ s.uses v := by
  simp only [State.blocksInvalidation, Bool.or_eq_true, isTarget_iff, holdsAny_iff, Option.isSome_iff_ne_none, or_assoc,
    State.uses]

theorem blocksKindChange_iff (s : State) (v : VehicleId) :
    s.blocksKindChange v = true ↔
      s.uses v ∨ (∃ r, .vehicle v ∈ (s.lane r).waiting) ∨ (s.vehicle v).attachedBehind ≠ none ∨ (∃ w, s.attached w v) ∨
        v ∈ s.coupler.queue ∨ ∃ i ∈ s.coupler.ident, i.subject = v := by
  have hident : s.coupler.ident.map Identification.subject = some v ↔ ∃ i ∈ s.coupler.ident, i.subject = v := by
    simp
  simp only [State.blocksKindChange, Bool.or_eq_true, isTarget_iff, holdsAny_iff, waitsAny_iff,
    behind_ne_none, Option.isSome_iff_ne_none, decide_eq_true_eq, List.contains_iff_mem, hident, or_assoc, State.uses]

/-- The channels that a written vehicle will occupy (R7), those it occupies as it is written among them. -/
theorem mem_willOccupy (x : Vehicle) (a : Assignment) (c : Channel) :
    c ∈ x.willOccupy a ↔ c = a.channel ∨ (x.valid = true ∧ x.inTransit = false ∧ x.active.channel = c) := by
  unfold Vehicle.willOccupy Vehicle.stages
  by_cases ha : x.active = a
  · subst ha
    cases x.valid <;> cases x.inTransit <;> simp [eq_comm]
  · cases x.valid <;> cases x.inTransit <;> simp [ha, eq_comm]

/-- The code of the reason, check by check (R5). -/
theorem vehicleRefusal_code (s : State) (v : VehicleId) (cfg : VehicleConfig) :
    (s.vehicleRefusal v cfg).map Reason.code =
      if cfg.valid && (s.vehicle v).leaving then some 3
      else if !cfg.valid && (s.vehicle v).valid && s.blocksInvalidation v then some 2
      else if cfg.valid && cfg.kind ≠ (s.vehicle v).kind && s.blocksKindChange v then some 2
      else if cfg.valid && s.duplicates v cfg then some 4
      else if cfg.valid && s.collidesWithOther v cfg.assignment then some 6
      else none := by
  unfold State.vehicleRefusal
  simp only [apply_ite (Option.map Reason.code)]
  rfl

/-- The reason of an entry, by the tables as they stand (R5). -/
theorem vehicleRefusal_spec (s : State) (v : VehicleId) (cfg : VehicleConfig) :
    let x := s.vehicle v
    let reason := (s.vehicleRefusal v cfg).map Reason.code
    let leaving := cfg.valid = true ∧ x.valid = false ∧ x.link ≠ .off
    let inUse := (cfg.valid = false ∧ x.valid = true ∧ s.uses v) ∨
      (cfg.valid = true ∧ cfg.kind ≠ x.kind ∧
        (s.uses v ∨ (∃ r, .vehicle v ∈ (s.lane r).waiting) ∨ x.attachedBehind ≠ none ∨ (∃ w, s.attached w v) ∨
          v ∈ s.coupler.queue ∨ ∃ i ∈ s.coupler.ident, i.subject = v))
    let duplicate := cfg.valid = true ∧ ∃ w, w ≠ v ∧ (s.vehicle w).valid = true ∧ (s.vehicle w).address = cfg.address ∧
      ∃ c, (c = cfg.assignment.channel ∨ (x.valid = true ∧ x.inTransit = false ∧ x.active.channel = c)) ∧
        (((s.vehicle w).inTransit = false ∧ (s.vehicle w).active.channel = c) ∨ ∃ a ∈ (s.vehicle w).staged, a.channel = c)
    let collision := cfg.valid = true ∧ ∃ w, w ≠ v ∧ ∃ a ∈ (s.vehicle w).claims, cfg.assignment.collides a = true
    (leaving → reason = some 3) ∧ (¬leaving → inUse → reason = some 2) ∧
      (¬leaving → ¬inUse → duplicate → reason = some 4) ∧
      (¬leaving → ¬inUse → ¬duplicate → collision → reason = some 6) ∧
      (¬leaving → ¬inUse → ¬duplicate → ¬collision → reason = none) := by
  intro x reason leaving inUse duplicate collision
  have hleaving : (cfg.valid && (s.vehicle v).leaving) = true ↔ leaving := by
    simp [leaving, x, Vehicle.leaving]
  have hinUse : ((!cfg.valid && (s.vehicle v).valid && s.blocksInvalidation v) = true ∨
      (cfg.valid && cfg.kind ≠ (s.vehicle v).kind && s.blocksKindChange v) = true) ↔ inUse := by
    simp only [Bool.and_eq_true, Bool.not_eq_true', decide_eq_true_eq, blocksInvalidation_iff, blocksKindChange_iff,
      and_assoc, inUse, x]
  have hduplicate : (cfg.valid && s.duplicates v cfg) = true ↔ duplicate := by
    simp only [Bool.and_eq_true, duplicates_iff, mem_willOccupy, occupies_iff, duplicate, x]
  have hcollision : (cfg.valid && s.collidesWithOther v cfg.assignment) = true ↔ collision := by
    simp only [Bool.and_eq_true, collidesWithOther_iff, collision]
  have hreason := vehicleRefusal_code s v cfg
  rw [← hleaving, ← hinUse, ← hduplicate, ← hcollision]
  refine ⟨fun h => ?_, fun h1 h2 => ?_, fun h1 h2 h3 => ?_, fun h1 h2 h3 h4 => ?_, fun h1 h2 h3 h4 => ?_⟩
  · exact hreason.trans (if_pos h)
  · rw [if_neg h1] at hreason
    rcases h2 with h2 | h2
    · exact hreason.trans (if_pos h2)
    · rw [if_pos h2, ite_self] at hreason
      exact hreason
  all_goals
    rw [if_neg h1, if_neg (not_or.mp h2).1, if_neg (not_or.mp h2).2] at hreason
  · exact hreason.trans (if_pos h3)
  · exact hreason.trans ((if_neg h3).trans (if_pos h4))
  · exact hreason.trans ((if_neg h3).trans (if_neg h4))

/-! ### One vehicle entry, judged and applied -/

theorem vehicleIndex_toNat (v : VehicleId) : (BitVec.ofNat 8 v.val : Byte).toNat = v.val := by
  have := v.isLt
  simp only [BitVec.toNat_ofNat]
  omega

theorem judgeVehicle_bad {bytes : List Byte} (v : VehicleId) (s : State) (h : vehicleConfigOf bytes = none) :
    judgeVehicle (BitVec.ofNat 8 v.val : Byte).toNat bytes s = { state := s, status := .refused .badValue } := by
  rw [vehicleIndex_toNat, judgeVehicle, dif_pos v.isLt, h]

theorem judgeVehicle_refused {bytes : List Byte} {v : VehicleId} {s : State} {cfg : VehicleConfig} {clamped : Bool}
    {r : Reason} (h : vehicleConfigOf bytes = some (cfg, clamped)) (hr : s.vehicleRefusal v cfg = some r) :
    judgeVehicle (BitVec.ofNat 8 v.val : Byte).toNat bytes s = { state := s, status := .refused r } := by
  rw [vehicleIndex_toNat, judgeVehicle, dif_pos v.isLt, h]
  dsimp only
  rw [hr]

theorem judgeVehicle_applied {bytes : List Byte} {v : VehicleId} {s : State} {cfg : VehicleConfig} {clamped : Bool}
    (h : vehicleConfigOf bytes = some (cfg, clamped)) (hr : s.vehicleRefusal v cfg = none) :
    judgeVehicle (BitVec.ofNat 8 v.val : Byte).toNat bytes s =
      ⟨s.applyVehicle v cfg, acceptedStatus clamped, !cfg.valid && (s.vehicle v).valid⟩ := by
  rw [vehicleIndex_toNat, judgeVehicle, dif_pos v.isLt, h]
  dsimp only
  rw [hr]

theorem exec_vehicleWrite_refused {s : State} {source tag : Byte} {rest : List MgmtEntry} {v : VehicleId} {bytes : List Byte}
    {r : Reason} (hhead : s.hasHead source 3 tag (1 :: BitVec.ofNat 8 v.val :: 1 :: bytes) rest) (hlen : bytes.length = 16)
    (hjudge : judgeVehicle (BitVec.ofNat 8 v.val : Byte).toNat bytes s = { state := s, status := .refused r }) :
    exec .vehicleWrite s = .next (s.answered source rest [3, tag, 2, r.code, 3, r.code]) :=
  writeStep_quiet 16 judgeVehicle hhead hlen hjudge rfl

/-- An accepted entry that writes a vehicle's record and no more. -/
theorem exec_vehicleWrite_stored {s : State} {source tag : Byte} {rest : List MgmtEntry} {v : VehicleId} {bytes : List Byte}
    {cfg : VehicleConfig} {clamped : Bool} {y : Vehicle}
    (hhead : s.hasHead source 3 tag (1 :: BitVec.ofNat 8 v.val :: 1 :: bytes) rest) (hlen : bytes.length = 16)
    (hcfg : vehicleConfigOf bytes = some (cfg, clamped)) (hok : s.vehicleRefusal v cfg = none)
    (hquiet : (!cfg.valid && (s.vehicle v).valid) = false) (hy : s.applyVehicle v cfg = s.setVehicle v y) :
    exec .vehicleWrite s =
      .next ((s.setVehicle v y).answered source rest [3, tag, 0, 0, if clamped then 1 else 0, 0]) := by
  have hjudge := judgeVehicle_applied hcfg hok
  rw [hquiet, hy] at hjudge
  refine (writeStep_quiet 16 judgeVehicle hhead hlen hjudge rfl).trans ?_
  cases clamped <;> rfl

/-- The rewritten record (R10, R11). -/
theorem rewrite_eq (x : Vehicle) (cfg : VehicleConfig) (serving : Bool) :
    x.rewrite cfg serving =
      { x.withFields cfg with
        staged := if x.inTransit = false ∧ x.active = cfg.assignment then none else some cfg.assignment
        inTransit :=
          if x.inTransit = true then true
          else if x.active = cfg.assignment then false
          else !serving && decide (cfg.assignment.channel ≠ x.active.channel) } := by
  unfold Vehicle.rewrite
  cases ht : x.inTransit
  · by_cases ha : x.active = cfg.assignment
    · simp [ha, Vehicle.withFields, ht]
    · simp [ha]
  · simp [Vehicle.withFields, ht]

/-- Settles O15: each entry is judged by R5 and applied as its record says, and its reason is that of the first check that
fails. -/
theorem vehicleEntryIsJudgedAndApplied : Obligations.VehicleEntryIsJudgedAndApplied := by
  refine ⟨?refused, ?validated, ?rewritten, ?stored, ?config, fun v cfg s => vehicleRefusal_spec s v cfg, fun _ _ => rfl⟩
  case refused =>
    intro source tag rest v bytes s hhead hlen
    exact ⟨fun hcfg => exec_vehicleWrite_refused hhead hlen (judgeVehicle_bad v s hcfg),
      fun cfg clamped r hcfg hr => exec_vehicleWrite_refused hhead hlen (judgeVehicle_refused hcfg hr)⟩
  case validated =>
    intro source tag rest v bytes cfg clamped s hhead hlen hcfg hvalid hold hok
    refine exec_vehicleWrite_stored hhead hlen hcfg hok (by rw [hvalid]; rfl) ?_
    simp only [State.applyVehicle, hvalid, hold, if_true, Bool.false_eq_true, if_false, Vehicle.validate, Vehicle.withConfig,
      Vehicle.withFields, Vehicle.blankState, Vehicle.blank]
  case rewritten =>
    intro source tag rest v bytes cfg clamped s hhead hlen hcfg hvalid hold hok
    refine exec_vehicleWrite_stored hhead hlen hcfg hok (by rw [hvalid]; rfl) ?_
    simp only [State.applyVehicle, hvalid, hold, if_true, rewrite_eq]
    simp [State.serving]
  case stored =>
    intro source tag rest v bytes cfg clamped s hhead hlen hcfg hvalid hold hok
    refine exec_vehicleWrite_stored hhead hlen hcfg hok (by rw [hold, Bool.and_false]) ?_
    simp only [State.applyVehicle, hvalid, hold, Bool.false_eq_true, if_false]
    rfl
  case config =>
    intro valid kind channel address period ph pl divisor phase up down dwell sh sl trim load
    have h := vehicleConfigOf_spec valid kind channel address period ph pl divisor phase up down dwell sh sl trim load
    dsimp only at h
    rw [halfOf_toNat sh sl, halfOf_eq ph pl] at h
    exact h

end Sys2Proof.Machine

namespace Sys2Proof.Machine

/-! ### Invalidation by an entry (R13, R14, R147, R149) -/

theorem slotInFlight_iff (s : State) (v : VehicleId) :
    s.slotInFlight v = true ↔ ∃ c address kind ack, (s.channel c).flight = some (.drive v address kind ack) := by
  simp only [State.slotInFlight, List.any_eq_true]
  constructor
  · rintro ⟨c, -, h⟩
    split at h
    · rename_i w address kind ack hf
      obtain rfl := of_decide_eq_true h
      exact ⟨c, address, kind, ack, hf⟩
    · simp at h
  · rintro ⟨c, address, kind, ack, hf⟩
    exact ⟨c, by cases c <;> simp [allChannels], by simp [hf]⟩

/-- The state in which an invalidated vehicle's entry is cancelled: it differs in vehicles and lane lists alone. -/
def State.withdrawn (s : State) (v : VehicleId) (cfg : VehicleConfig) : State :=
  ((s.dissolveNaming v).setVehicle v ((s.vehicle v).invalidated cfg (s.slotInFlight v))).withdrawEverywhere (.vehicle v)

theorem invalidate_withdrawn (s : State) (v : VehicleId) (cfg : VehicleConfig) :
    s.invalidate v cfg = (s.withdrawn v cfg).cancelEntry v := invalidate_eq s v cfg

theorem withdrawn_frame (s : State) (v : VehicleId) (cfg : VehicleConfig) :
    s.withdrawn v cfg = { s with vehicles := (s.withdrawn v cfg).vehicles, lanes := (s.withdrawn v cfg).lanes } := by
  unfold State.withdrawn
  rw [dissolveNaming_frame]
  rfl

theorem withdrawn_lane (s : State) (v : VehicleId) (cfg : VehicleConfig) (r : RangeId) :
    (s.withdrawn v cfg).lane r =
      if .vehicle v ∈ (s.lane r).waiting then
        Lane.grant (s.laneCapacity r) { s.lane r with waiting := (s.lane r).waiting.filter (fun u => u ≠ .vehicle v) }
      else s.lane r := by
  have hwaits : (s.lane r).waits (.vehicle v) = true ↔ .vehicle v ∈ (s.lane r).waiting := by simp [Lane.waits]
  unfold State.withdrawn State.withdrawEverywhere
  rw [lane_mapLanes_same, dissolveNaming_frame]
  simp only [← hwaits]
  rfl

/-- The entry of a vehicle that is not the one identified is cancelled without a change to the channels (R147). -/
theorem cancelEntry_channels_other {s : State} {x : VehicleId} (h : s.coupler.ident.map Identification.subject ≠ some x) :
    (s.cancelEntry x).channels = s.channels := by
  unfold State.cancelEntry
  cases hi : s.coupler.ident with
  | none => rfl
  | some i =>
    have hne : i.subject ≠ x := fun e => h (by rw [hi, ← e]; rfl)
    simp only [hne, decide_false, Bool.false_eq_true, if_false]
    rfl

/-- What a judged start leaves of an invalidation (R143, R147). -/
theorem judgeStart_of_cancelled {s u : State} {v : VehicleId} (h : s.entryCancelled u v) :
    v ∉ u.judgeStart.1.coupler.queue ∧ (∀ i, u.judgeStart.1.coupler.ident = some i → i.subject ≠ v) ∧
      ∀ c, u.judgeStart.1.channel c =
        { s.channel c with
          pendingPoll := (u.judgeStart.1.channel c).pendingPoll
          flight :=
            match (s.channel c).flight with
            | some (.poll p replies garbled counted) =>
              some (.poll p replies garbled (if s.coupler.ident.map Identification.subject = some v then false else counted))
            | f => f } := by
  obtain ⟨hstate, hchannel⟩ := h
  obtain ⟨-, hpolls, -, hqueue⟩ := (judgeStart_spec u).1
  have hcoupler := congrArg State.coupler hstate
  have hgone : v ∉ u.coupler.queue := by
    rw [hcoupler]
    simp
  refine ⟨fun k => hgone (hqueue.subset k), fun i hi => ?_, fun c => ?_⟩
  · rcases startIdent_ident _ u i hi with hold | hnew
    · rw [hcoupler] at hold
      dsimp only at hold
      split at hold
      · simp at hold
      · rename_i hne
        intro e
        exact hne (by rw [hold, ← e]; rfl)
    · exact fun e => hgone (e ▸ hnew)
  · rw [hpolls c, hchannel c]
    split
    · rfl
    · dsimp only
      cases (s.channel c).flight with
      | none => rfl
      | some f => cases f <;> rfl

/-- The record that an invalidation leaves, written out (R13, R14). -/
theorem invalidated_eq {cfg : VehicleConfig} (x : Vehicle) (h : cfg.valid = false) :
    x.invalidated cfg false =
        { Vehicle.blank with
          kind := cfg.kind, active := cfg.assignment, address := cfg.address, accelUp := cfg.accelUp,
          accelDown := cfg.accelDown, dwell := cfg.dwell, span := cfg.span, trim := cfg.trim, loadClass := cfg.loadClass } ∧
      x.invalidated cfg true =
        { x.withFields cfg with active := cfg.assignment, staged := none, attachedBehind := none } := by
  refine ⟨?_, rfl⟩
  simp [Vehicle.invalidated, Vehicle.stored, Vehicle.withConfig, Vehicle.withFields, Vehicle.reachOff, Vehicle.blankState,
    Vehicle.blank, h]

/-- An invalidating entry: the vehicle's entry is cancelled, a start is judged, and the event ends with the reply (R13, R143,
R166). -/
theorem exec_vehicleWrite_invalidated {s : State} {source tag : Byte} {rest : List MgmtEntry} {v : VehicleId}
    {bytes : List Byte} {cfg : VehicleConfig} {clamped : Bool}
    (hhead : s.hasHead source 3 tag (1 :: BitVec.ofNat 8 v.val :: 1 :: bytes) rest) (hlen : bytes.length = 16)
    (hcfg : vehicleConfigOf bytes = some (cfg, clamped)) (hvalid : cfg.valid = false) (hold : (s.vehicle v).valid = true)
    (hok : s.vehicleRefusal v cfg = none) :
    Leads (exec .vehicleWrite s) fun t => (s.invalidate v cfg).judgeStart.1.settledWith t source rest
      [3, tag, 0, 0, if clamped then 1 else 0, 0] [(s.invalidate v cfg).judgeStart.2] := by
  have hjudge := judgeVehicle_applied hcfg hok
  simp only [State.applyVehicle, hvalid, hold, Bool.false_eq_true, if_false, if_true, Bool.not_false, Bool.true_and] at hjudge
  refine ⟨_, congrArg Host.Outcome.next (writeStep_one 16 judgeVehicle hhead hlen), ?_⟩
  rw [hjudge]
  have hmgmt : (s.invalidate v cfg).judgeStart.1.mgmt = s.mgmt := by
    rw [(judgeStart_spec _).1.1, invalidate_frame]
  have hsettled := finish_settledWith
    { state := (s.invalidate v cfg).judgeStart.1, answer := writeAnswer [acceptedStatus clamped]
      latches := (s.invalidate v cfg).judgeStart.2 } s hhead hmgmt
  cases clamped <;> exact hsettled

/-- Settles O16: the vehicle's own changes come before the cancelling of its entry, which comes before the judged start. -/
theorem invalidationReachesOff : Obligations.InvalidationReachesOff := by
  refine ⟨?_, slotInFlight_iff⟩
  intro source tag rest v bytes cfg clamped s hhead hlen hcfg hvalid hold hok
  obtain ⟨t, hexec, hsettled⟩ := exec_vehicleWrite_invalidated hhead hlen hcfg hvalid hold hok
  have hvehicle := invalidate_vehicle s v cfg
  have hlane := withdrawn_lane s v cfg
  have hwithdrawn := withdrawn_frame s v cfg
  have hcancelled := cancelEntry_cancelled (s.withdrawn v cfg) v
  have hchannels := cancelEntry_channels_other (s := s.withdrawn v cfg) (x := v)
  rw [← invalidate_withdrawn] at hcancelled hchannels
  have hcoupler := invalidate_coupler s v cfg
  generalize s.invalidate v cfg = u at *
  generalize s.withdrawn v cfg = w at *
  have hjudged := judgeStart_judged u
  have hbusy := judgeStart_busy u
  have hstart := judgeStart_of_cancelled hcancelled
  have hpolls := (judgeStart_spec u).1.1
  generalize u.judgeStart = j at *
  have hframe := settledWith_frame hsettled
  have hfields : t.vehicles = u.vehicles ∧ t.lanes = w.lanes ∧ t.channels = j.1.channels ∧ t.coupler = j.1.coupler := by
    rw [hframe, hpolls, hcancelled.1]
    exact ⟨rfl, rfl, rfl, rfl⟩
  obtain ⟨htv, htl, htc, htk⟩ := hfields
  have htw : w = { s with vehicles := t.vehicles, lanes := t.lanes } := by
    rw [hwithdrawn, hframe, hpolls, hcancelled.1]
  rw [htw] at hcancelled hstart hchannels
  have hveh (x) : t.vehicle x = u.vehicle x := by rw [State.vehicle, htv]; rfl
  have hlan (r) : t.lane r = w.lane r := by rw [State.lane, htl]; rfl
  have hchan (c) : t.channel c = j.1.channel c := by rw [State.channel, htc]; rfl
  obtain ⟨hqueue, hident, hchannel⟩ := hstart
  refine ⟨t, hexec, fun h => ?_, fun h => ?_, fun x hx => ?_, ?_, ?_, fun r => ?_, fun c => ?_, fun i hi hne => ?_,
    u, j.1, j.2, hcancelled, hjudged, hsettled⟩
  · rw [hveh, hvehicle, if_pos rfl, h]
    exact (invalidated_eq _ hvalid).1
  · rw [hveh, hvehicle, if_pos rfl, h]
    exact (invalidated_eq _ hvalid).2
  · rw [hveh, hvehicle, if_neg hx]
  · rw [htk]
    exact hqueue
  · rw [htk]
    exact hident
  · rw [hlan, hlane]
  · rw [hchan]
    exact hchannel c
  · have hother : s.coupler.ident.map Identification.subject ≠ some v := by
      rw [hi]
      exact fun e => hne (Option.some.inj e)
    have hcou : u.coupler = ⟨s.coupler.queue.filter (fun y => y ≠ v), some i⟩ := by
      rw [hcoupler, if_neg hother, hi]
    rw [htc, htk, hbusy (by rw [hcou]; rfl)]
    exact ⟨hchannels hother, hcou⟩

end Sys2Proof.Machine

namespace Sys2Proof.Machine

/-! ### Leaving SERVING (R27) -/

@[simp] theorem setChannel_setChannel (s : State) (c : Channel) (u w : ChannelUnit) :
    (s.setChannel c u).setChannel c w = s.setChannel c w := by
  simp [State.setChannel]

theorem ownsDirect_iff (u : ChannelUnit) :
    u.ownsDirect = true ↔
      (∃ e ∈ u.direct, e.owned = true) ∨ ∃ e response, u.flight = some (.direct e response) ∧ e.owned = true := by
  simp only [ChannelUnit.ownsDirect, Bool.or_eq_true, List.any_eq_true]
  refine or_congr_right ?_
  constructor
  · intro h
    split at h
    · rename_i e response hf
      exact ⟨e, response, hf, h⟩
    · simp at h
  · rintro ⟨e, response, hf, h⟩
    rw [hf]
    exact h

theorem pollOpen_iff (u : ChannelUnit) :
    u.pollOpen = true ↔ u.pendingPoll ≠ none ∨ ∃ p replies garbled, u.flight = some (.poll p replies garbled true) := by
  simp only [ChannelUnit.pollOpen, Bool.or_eq_true, Option.isSome_iff_ne_none]
  refine or_congr_right ?_
  constructor
  · intro h
    split at h
    · rename_i p replies garbled counted hf
      exact ⟨p, replies, garbled, h ▸ hf⟩
    · simp at h
  · rintro ⟨p, replies, garbled, hf⟩
    rw [hf]

/-- The open poll of a channel that leaves SERVING reported closed, with no response (R27). -/
def State.pollClosed (s : State) (c : Channel) (old : ChannelUnit) : State × List Latch :=
  if old.pollOpen then s.pollReport c [] false else (s, [])

theorem pollClosed_open (s : State) (c : Channel) {old : ChannelUnit} (h : old.pollOpen = true) :
    s.reported (s.pollClosed c old).1 c [] false (s.pollClosed c old).2 := by
  rw [State.pollClosed, if_pos h]
  exact pollReport_reported s c [] false

theorem pollClosed_quiet (s : State) (c : Channel) {old : ChannelUnit} (h : old.pollOpen = false) :
    (s.pollClosed c old).1 = s ∧ (s.pollClosed c old).2 = [] := by
  rw [State.pollClosed, h]
  exact ⟨rfl, rfl⟩

theorem pollClosed_keeps (s : State) (c : Channel) (old : ChannelUnit) :
    (s.pollClosed c old).1.mgmt = s.mgmt ∧ (s.pollClosed c old).1.link = s.link := by
  unfold State.pollClosed
  split
  · rw [(pollReport_spec s c [] false).1.1]
    exact ⟨rfl, rfl⟩
  · exact ⟨rfl, rfl⟩

theorem inFlightCode_congr {s t : State} (h : t.mgmt = s.mgmt) (code : Byte) : t.inFlightCode code = s.inFlightCode code := by
  rw [State.inFlightCode, h]
  rfl

theorem inFlightCode_head {s : State} {source code tag : Byte} {args : List Byte} {rest : List MgmtEntry} (other : Byte)
    (h : s.mgmt.entries = ⟨source, code :: tag :: args, false⟩ :: rest) :
    s.inFlightCode other = (s.mgmt.inFlight && decide (code = other)) := by
  rw [State.inFlightCode, h]
  rfl

/-- The state in which the open poll of a channel that leaves SERVING with the record u is reported: its slot has ended, and
its vehicles have lost it (R27). -/
def State.serviceLeft (s : State) (c : Channel) (u : ChannelUnit) : State :=
  ((s.setChannel c u).endVehicleSlot (s.channel c).flight).vehiclesLoseChannel c true

/-- What leaving SERVING changes, before the open poll is reported (R27, R19, R11). -/
theorem serviceLeft_left (s : State) (c : Channel) (u : ChannelUnit) :
    (s.serviceLeft c u).channel c = u ∧ (∀ d, d ≠ c → (s.serviceLeft c u).channel d = s.channel d) ∧
      s.serviceEnds (s.serviceLeft c u) c true ∧
      (∀ v, (s.vehicle v).valid = false →
        ((∃ address kind ack, (s.channel c).flight = some (.drive v address kind ack)) →
          (s.serviceLeft c u).vehicle v = (s.vehicle v).reachOff) ∧
        ((∀ address kind ack, (s.channel c).flight ≠ some (.drive v address kind ack)) →
          (s.serviceLeft c u).vehicle v = s.vehicle v)) ∧
      s.serviceLeft c u =
        { s with
          vehicles := (s.serviceLeft c u).vehicles, convoys := (s.serviceLeft c u).convoys
          channels := (s.serviceLeft c u).channels, freeCount := (s.serviceLeft c u).freeCount } :=
  serviceLeft_spec s (s.serviceLeft c u) c u (s.channel c).flight true s.mgmt rfl

/-- Leaving SERVING, from the state that the slots and vehicles have left, its open poll reported (R27). -/
theorem leaveServing_left (s : State) (c : Channel) (u : ChannelUnit) :
    (s.setChannel c u).leaveServing c (s.channel c) =
      { (if (s.channel c).ownsDirect then
          ((s.serviceLeft c u.clearSlots).pollClosed c (s.channel c)).1.answerInFlight codeDirectSend { status := .notReady }
        else { state := ((s.serviceLeft c u.clearSlots).pollClosed c (s.channel c)).1 }) with
        latches := [((s.serviceLeft c u.clearSlots).pollClosed c (s.channel c)).2] } :=
  leaveServing_eq (s.setChannel c u) (s.serviceLeft c u.clearSlots) c (s.channel c)
    (by rw [State.serviceLeft, channel_setChannel_same, setChannel_setChannel])

theorem pollClosed_serviceLeft_keeps (s : State) (c : Channel) (u old : ChannelUnit) :
    ((s.serviceLeft c u).pollClosed c old).1.mgmt = s.mgmt := by
  rw [(pollClosed_keeps _ c old).1, (serviceLeft_left s c u).2.2.2.2]

/-- Leaving SERVING where no DIRECT_SEND is answered (R27). -/
theorem leaveServing_unanswered {s : State} {c : Channel} (u : ChannelUnit)
    (h : (s.channel c).ownsDirect = false ∨ s.inFlightCode codeDirectSend = false) :
    (s.setChannel c u).leaveServing c (s.channel c) =
      { state := ((s.serviceLeft c u.clearSlots).pollClosed c (s.channel c)).1
        latches := [((s.serviceLeft c u.clearSlots).pollClosed c (s.channel c)).2] } := by
  rw [leaveServing_left]
  rcases h with h | h
  · rw [h]
    rfl
  · rw [answerInFlight_other _ _ _ ((inFlightCode_congr (pollClosed_serviceLeft_keeps s c _ _) _).trans h), ite_self]

/-- Leaving SERVING with the owned direct frame of the DIRECT_SEND in flight: it is answered NOT_READY (R27, R40). -/
theorem leaveServing_answered {s : State} {c : Channel} (u : ChannelUnit) {source tag : Byte} {args : List Byte}
    {rest : List MgmtEntry} (h : (s.channel c).ownsDirect = true) (hflight : s.mgmt.inFlight = true)
    (hhead : s.mgmt.entries = ⟨source, 32 :: tag :: args, false⟩ :: rest) :
    (s.setChannel c u).leaveServing c (s.channel c) =
      { state := { ((s.serviceLeft c u.clearSlots).pollClosed c (s.channel c)).1 with mgmt := ⟨rest, false⟩ }
        reply := some
          ⟨source, ((s.serviceLeft c u.clearSlots).pollClosed c (s.channel c)).1.link.address, 4, [32, tag, 8, 0]⟩
        latches := [((s.serviceLeft c u.clearSlots).pollClosed c (s.channel c)).2] } := by
  have hmgmt := pollClosed_serviceLeft_keeps s c u.clearSlots (s.channel c)
  have hcode : ((s.serviceLeft c u.clearSlots).pollClosed c (s.channel c)).1.inFlightCode codeDirectSend = true := by
    rw [inFlightCode_congr hmgmt, inFlightCode_head codeDirectSend hhead, hflight]
    rfl
  rw [leaveServing_left, if_pos h]
  unfold State.answerInFlight
  rw [hcode, hmgmt, hhead]
  rfl

/-- The record of a channel whose module has lost lock in SERVING (R26, R27). -/
def ChannelUnit.lockLost (old : ChannelUnit) (limit : Time) : ChannelUnit :=
  { old with
    state := .relocking, attempts := min 255 (old.attempts + 1), limit := some limit, direct := [], sendLimit := none
    pendingPoll := none, flight := none }

/-- Lock lost in SERVING: CHANNEL_UNLOCK, then the effects of leaving SERVING (R26, R27). -/
theorem lockLostServing_eq (s : State) (c : Channel) :
    ∃ u : ChannelUnit, u.clearSlots = (s.channel c).lockLost (s.fault.time + 50) ∧
      s.lockLostServing c =
        { (s.setChannel c u).leaveServing c (s.channel c) with
          latches := [⟨.channelUnlock, .channel c, none⟩] :: ((s.setChannel c u).leaveServing c (s.channel c)).latches } :=
  ⟨_, rfl, rfl⟩

theorem exec_lockLost_serving {s : State} {c : Channel} (returned : List Byte) (h : (s.channel c).state = .serving) :
    exec (.lockLost c returned) s = .next (s.lockLostServing c).settle := by
  change execLockLost c returned s = _
  rw [execLockLost, State.lockLostReport, h]

/-- Settles O31: the slots and vehicles of the channel, the report of its poll, and the latches with the answer of the
DIRECT_SEND that it drops. -/
theorem lockLostLeavesServing : Obligations.LockLostLeavesServing := by
  refine ⟨fun c returned s hserving => ?_, fun u => ⟨ownsDirect_iff u, pollOpen_iff u⟩⟩
  obtain ⟨u, hu, hlost⟩ := lockLostServing_eq s c
  have hunanswered := leaveServing_unanswered (s := s) (c := c) u
  have hanswered {source tag args rest} := leaveServing_answered (s := s) (c := c) (source := source) (tag := tag)
    (args := args) (rest := rest) u
  rw [hu] at hunanswered hanswered
  obtain ⟨hown, hothers, hends, hinvalid, hframe⟩ := serviceLeft_left s c ((s.channel c).lockLost (s.fault.time + 50))
  have hopen := pollClosed_open (s.serviceLeft c ((s.channel c).lockLost (s.fault.time + 50))) c (old := s.channel c)
  have hquiet := pollClosed_quiet (s.serviceLeft c ((s.channel c).lockLost (s.fault.time + 50))) c (old := s.channel c)
  refine ⟨_, exec_lockLost_serving returned hserving, _, _, _, hown, hothers, hends, hinvalid, hframe, hopen, hquiet,
    fun source tag args rest hflight hhead howns => ?_, fun h => ?_⟩
  · rw [hlost, hanswered howns hflight hhead]
    exact settle_settledWith _ _ _ _ _ rfl rfl
  · have hnone : (s.channel c).ownsDirect = false ∨ s.inFlightCode codeDirectSend = false :=
      h.imp_right fun e => by rw [State.inFlightCode, e]; rfl
    rw [hlost, hunanswered hnone]
    exact settle_settled (Work.mk _ none _) rfl

end Sys2Proof.Machine

namespace Sys2Proof.Machine

/-! ### CHANNEL_RESTART (R28) -/

/-- The record of a channel that a CHANNEL_RESTART has put in LOCKING (R28, R23). -/
def ChannelUnit.restartLocking (old : ChannelUnit) (limit : Time) : ChannelUnit :=
  { old with
    state := .locking, counter := 0, attempts := min 255 (old.attempts + 1), direct := [], pendingPoll := none
    limit := some limit, sendLimit := none, testFrame := 0, flight := none, moduleCommand := .acquire }

/-- CHANNEL_RESTART from SERVING, and from any other state (R28). -/
theorem restartChannel_eq (s : State) (c : Channel) :
    ∃ u : ChannelUnit, u.clearSlots = (s.channel c).restartLocking (s.fault.time + 50) ∧
      s.restartChannel c =
        if (s.channel c).state = .serving then (s.setChannel c u).leaveServing c (s.channel c)
        else { state := (s.setChannel c u.clearSlots).vehiclesLoseChannel c false } := by
  refine ⟨{ (s.channel c).countAttempt with
    state := .locking, limit := some (s.after Config.lockLimit), moduleCommand := .acquire, counter := 0, testFrame := 0 },
    rfl, ?_⟩
  unfold State.restartChannel State.enterLocking
  simp only [channel_setChannel_same, setChannel_setChannel]

theorem exec_channelRestart_ok {s : State} {source tag : Byte} {c : Channel} {rest : List MgmtEntry}
    (h : s.hasHead source 33 tag [channelCode c] rest) :
    exec .channelRestart s = .next (s.headGoesInFlight.restartChannel c).settle := by
  change execChannelRestart s = _
  rw [execChannelRestart, hasHead_ready (code := codeChannelRestart) h]
  dsimp only
  rw [channelOf_code]

theorem exec_channelRestart_refused {s : State} {source tag ch : Byte} {rest : List MgmtEntry}
    (h : s.hasHead source 33 tag [ch] rest) (hch : 4 ≤ ch.toNat) :
    exec .channelRestart s = .next (s.answered source rest [33, tag, 2, 7]) := by
  change execChannelRestart s = _
  rw [execChannelRestart, hasHead_ready (code := codeChannelRestart) h]
  dsimp only
  rw [(channelOf_none ch).mpr hch]
  dsimp only
  rw [finish_settle _ _ rfl rfl]
  exact congrArg _ (pop_answered s s h rfl _)

/-- The end of an event with no latch and no reply. -/
theorem settle_state (s : State) : Work.settle { state := s } = s := settle_quiet _ rfl rfl

/-- Settles O28: from SERVING the channel leaves it, and from any other state its vehicles alone lose it. -/
theorem channelRestartEntersLocking : Obligations.ChannelRestartEntersLocking := by
  intro source tag ch rest s hhead
  refine ⟨exec_channelRestart_refused hhead, ?_, fun _ => rfl⟩
  rintro c rfl
  have hexec := exec_channelRestart_ok hhead
  have hcode : s.headGoesInFlight.inFlightCode codeDirectSend = false :=
    inFlightCode_head (s := s.headGoesInFlight) codeDirectSend hhead.1
  obtain ⟨u, hu, hrestart⟩ := restartChannel_eq s.headGoesInFlight c
  by_cases hserving : (s.channel c).state = .serving
  · have hwork := hrestart.trans (if_pos hserving)
    rw [leaveServing_unanswered u (.inr hcode), hu] at hwork
    obtain ⟨hown, hothers, hends, hinvalid, hframe⟩ :=
      serviceLeft_left s.headGoesInFlight c ((s.channel c).restartLocking (s.fault.time + 50))
    refine ⟨_, hexec, _, _, _, hown, hothers, ?_, fun v hv => ⟨fun h _ => (hinvalid v hv).1 h, ?_⟩, hframe,
      fun _ => pollClosed_open _ c, ?_, ?_⟩
    · rw [decide_eq_true hserving]
      exact hends
    · exact fun h => (hinvalid v hv).2 (h.resolve_right (not_not.mpr hserving))
    · exact fun h => pollClosed_quiet _ c (h.resolve_left (not_not.mpr hserving))
    · rw [hwork]
      exact settle_latches _ _
  · have hwork := hrestart.trans (if_neg hserving)
    rw [hu, show s.headGoesInFlight.channel c = s.channel c from rfl,
      show s.headGoesInFlight.fault = s.fault from rfl] at hwork
    obtain ⟨hown, hothers, hends, hinvalid, hframe⟩ := serviceLeft_spec s.headGoesInFlight
      ((s.headGoesInFlight.setChannel c ((s.channel c).restartLocking (s.fault.time + 50))).vehiclesLoseChannel c false) c
      ((s.channel c).restartLocking (s.fault.time + 50)) none false s.headGoesInFlight.mgmt rfl
    refine ⟨_, hexec, _, _, [], hown, hothers, ?_, fun v hv => ⟨fun _ h => absurd h hserving, fun _ => ?_⟩, hframe,
      fun h => absurd h hserving, fun _ => ⟨rfl, rfl⟩, ?_⟩
    · rw [decide_eq_false hserving]
      exact hends
    · exact (hinvalid v hv).2 (fun _ _ _ => by simp)
    · rw [hwork, settle_state, List.foldl_nil]

end Sys2Proof.Machine

/-! SUPPORT. Which operations keep the queues and lists within their capacities (R22, R79, R80, R98, R110, R125, R143, R164,
R165). -/

namespace Sys2Proof.Machine

/-! ### Records within their capacities -/

/-- A channel holds at most two direct frames, of 1 to 8 bytes (R22, R40). -/
def ChannelUnit.Fits (u : ChannelUnit) : Prop :=
  u.direct.length ≤ 2 ∧ ∀ d ∈ u.direct, 1 ≤ d.payload.length ∧ d.payload.length ≤ 8

/-- A range has at most four holders and eight waiting units (R125). -/
def Lane.Fits (l : Lane) : Prop := l.holders.length ≤ 4 ∧ l.waiting.length ≤ 8

/-- A convoy has at most eight members and sixteen trail entries (R80, R98). -/
def Convoy.Fits (c : Convoy) : Prop := c.members.length ≤ 8 ∧ c.trail.length ≤ 16

/-- Every table and the identification queue are within their capacities. -/
structure State.TablesFit (s : State) : Prop where
  channels : ∀ c, (s.channel c).Fits
  lanes : ∀ r, (s.lane r).Fits
  identQueue : s.coupler.queue.length ≤ 4
  convoys : ∀ c, (s.convoy c).Fits
  zones : ∀ r, (s.zone r).rules.capacity ≤ 3

/-- The Management Queue is within its capacity, has a head in flight, and no broadcast but STOP_ALL and NOP (R165, R166). -/
structure MgmtQueue.Fits (m : MgmtQueue) : Prop where
  length : m.entries.length ≤ 4
  flying : m.inFlight = true → m.entries ≠ []
  broadcast : ∀ e ∈ m.entries, e.broadcast = true → mayBroadcast e.payload = true

/-- The capacities are those of the output queue, of the Management Queue and of the tables. -/
theorem withinCapacity_iff (s : State) : s.withinCapacity ↔ s.outCount ≤ 8 ∧ s.mgmt.Fits ∧ s.TablesFit :=
  ⟨fun ⟨ho, hl, hf, hb, hc, hr, hq, hk, hz⟩ => ⟨ho, ⟨hl, hf, hb⟩, hc, hr, hq, hk, hz⟩,
    fun ⟨ho, ⟨hl, hf, hb⟩, hc, hr, hq, hk, hz⟩ => ⟨ho, hl, hf, hb, hc, hr, hq, hk, hz⟩⟩

/-! ### Updates that keep the tables within their capacities -/

/-- The update leaves the output queue and the Management Queue alone and keeps the tables within their capacities. -/
structure State.KeepsTables (s t : State) : Prop where
  link : t.link = s.link
  mgmt : t.mgmt = s.mgmt
  fits : s.TablesFit → t.TablesFit

theorem State.KeepsTables.refl (s : State) : s.KeepsTables s := ⟨rfl, rfl, id⟩

theorem State.KeepsTables.trans {s t u : State} (h : s.KeepsTables t) (k : t.KeepsTables u) : s.KeepsTables u :=
  ⟨k.link.trans h.link, k.mgmt.trans h.mgmt, k.fits ∘ h.fits⟩

theorem State.KeepsTables.capacity {s t : State} (h : s.KeepsTables t) (hs : s.withinCapacity) : t.withinCapacity := by
  obtain ⟨ho, hm, ht⟩ := (withinCapacity_iff s).mp hs
  refine (withinCapacity_iff t).mpr ⟨?_, h.mgmt ▸ hm, h.fits ht⟩
  simpa only [State.outCount, State.reserved, h.link, h.mgmt] using ho

/-- What the capacities speak of. -/
def State.capacityParts (s : State) := (s.link, s.mgmt, s.channels, s.lanes, s.coupler.queue, s.convoys, s.zones)

/-- An update of nothing that the capacities speak of. -/
theorem keepsTables_of_same {s t : State} (h : t.capacityParts = s.capacityParts) : s.KeepsTables t := by
  simp only [State.capacityParts, Prod.mk.injEq] at h
  obtain ⟨hlink, hmgmt, hch, hl, hq, hk, hz⟩ := h
  refine ⟨hlink, hmgmt, fun hs => ⟨fun c => ?_, fun r => ?_, hq ▸ hs.identQueue, fun c => ?_, fun r => ?_⟩⟩
  · simpa only [State.channel, hch] using hs.channels c
  · simpa only [State.lane, hl] using hs.lanes r
  · simpa only [State.convoy, hk] using hs.convoys c
  · simpa only [State.zone, hz] using hs.zones r

theorem keepsTables_setChannel {s : State} {c : Channel} {u : ChannelUnit} (h : (s.channel c).Fits → u.Fits) :
    s.KeepsTables (s.setChannel c u) := by
  refine ⟨rfl, rfl, fun hs => ⟨fun d => ?_, hs.lanes, hs.identQueue, hs.convoys, hs.zones⟩⟩
  rw [channel_setChannel]
  split
  · exact h (hs.channels c)
  · exact hs.channels d

/-- A channel's update that keeps its direct frames. -/
theorem keepsTables_keepDirect (s : State) (c : Channel) (u : ChannelUnit) (h : u.direct = (s.channel c).direct := by rfl) :
    s.KeepsTables (s.setChannel c u) :=
  keepsTables_setChannel fun k => by simpa only [ChannelUnit.Fits, h] using k

theorem keepsTables_mapChannels (s : State) {f : ChannelUnit → ChannelUnit} (h : ∀ u : ChannelUnit, u.Fits → (f u).Fits) :
    s.KeepsTables (s.mapChannels f) := by
  refine ⟨rfl, rfl, fun hs => ⟨fun d => ?_, hs.lanes, hs.identQueue, hs.convoys, hs.zones⟩⟩
  rw [channel_mapChannels_same]
  exact h _ (hs.channels d)

theorem keepsTables_setLane {s : State} {r : RangeId} {l : Lane} (h : s.TablesFit → l.Fits) :
    s.KeepsTables (s.setLane r l) := by
  refine ⟨rfl, rfl, fun hs => ⟨hs.channels, fun q => ?_, hs.identQueue, hs.convoys, hs.zones⟩⟩
  rw [lane_setLane]
  split
  · exact h hs
  · exact hs.lanes q

theorem keepsTables_mapLanes {s : State} {f : RangeId → Lane → Lane}
    (h : s.TablesFit → ∀ r (l : Lane), l.Fits → (f r l).Fits) : s.KeepsTables (s.mapLanes f) := by
  refine ⟨rfl, rfl, fun hs => ⟨hs.channels, fun r => ?_, hs.identQueue, hs.convoys, hs.zones⟩⟩
  rw [lane_mapLanes_same]
  exact h hs r _ (hs.lanes r)

theorem keepsTables_setConvoy {s : State} {c : ConvoyId} {x : Convoy} (h : (s.convoy c).Fits → x.Fits) :
    s.KeepsTables (s.setConvoy c x) := by
  refine ⟨rfl, rfl, fun hs => ⟨hs.channels, hs.lanes, hs.identQueue, fun d => ?_, hs.zones⟩⟩
  rw [convoy_setConvoy]
  split
  · exact h (hs.convoys c)
  · exact hs.convoys d

theorem keepsTables_setZone {s : State} {r : RangeId} {z : Range} (h : z.rules.capacity ≤ 3) :
    s.KeepsTables (s.setZone r z) := by
  refine ⟨rfl, rfl, fun hs => ⟨hs.channels, hs.lanes, hs.identQueue, hs.convoys, fun q => ?_⟩⟩
  rw [zone_setZone]
  split
  · exact h
  · exact hs.zones q

theorem keepsTables_setVehicle (s : State) (v : VehicleId) (x : Vehicle) : s.KeepsTables (s.setVehicle v x) :=
  keepsTables_of_same rfl

theorem keepsTables_mapVehicles (s : State) (f : VehicleId → Vehicle → Vehicle) : s.KeepsTables (s.mapVehicles f) :=
  keepsTables_of_same rfl

/-! ### Channels -/

theorem clearSlots_fits (u : ChannelUnit) : u.clearSlots.Fits := by simp [ChannelUnit.Fits, ChannelUnit.clearSlots]

theorem channelRestart_fits (u : ChannelUnit) : u.restart.Fits := by simp [ChannelUnit.Fits, ChannelUnit.restart]

theorem startSlotZero_fits {u : ChannelUnit} (h : u.Fits) : u.startSlotZero.Fits := by
  unfold ChannelUnit.startSlotZero
  split
  · exact h
  · split
    · rename_i e rest he
      obtain ⟨hl, hp⟩ := h
      rw [he] at hl hp
      exact ⟨(Nat.le_succ _).trans hl, fun d hd => hp d (List.mem_cons_of_mem _ hd)⟩
    · exact h

theorem keepsTables_beginCycle (s : State) (c : Channel) (n : Nat) : s.KeepsTables (s.beginCycle c n) :=
  (keepsTables_setChannel (u := { s.channel c with counter := n }.startSlotZero) fun h =>
    startSlotZero_fits (u := { s.channel c with counter := n }) h).trans (keepsTables_mapVehicles _ _)

theorem keepsTables_lockReport (s : State) (c : Channel) : s.KeepsTables (s.lockReport c) := by
  unfold State.lockReport
  split
  · exact keepsTables_keepDirect s c _
  · exact (keepsTables_keepDirect s c _).trans (keepsTables_beginCycle _ c _)
  all_goals exact .refl s

theorem keepsTables_enterLocking (s : State) (c : Channel) : s.KeepsTables (s.enterLocking c) :=
  keepsTables_keepDirect s c _

/-! ### Lane lists -/

theorem laneCapacity_le {s : State} (hs : s.TablesFit) (r : RangeId) : s.laneCapacity r ≤ 3 := by
  unfold State.laneCapacity
  split
  · exact hs.zones r
  · exact Nat.zero_le 3

/-- A grant fills a range up to its lane capacity and no further (R129). -/
theorem grant_fits {l : Lane} {capacity : Nat} (hc : capacity ≤ 3) (h : l.Fits) : (l.grant capacity).Fits := by
  obtain ⟨k, hk, he, -, hfill⟩ := grantFrom_spec capacity l.waiting l.holders
  obtain ⟨hh, hw⟩ := h
  unfold Lane.grant
  rw [he]
  refine ⟨?_, ?_⟩
  · rw [List.length_append, List.length_map, List.length_take]
    omega
  · rw [List.length_drop]
    omega

theorem holders_filter_fits {l : Lane} (p : Holder → Bool) (h : l.Fits) :
    ({ l with holders := l.holders.filter p } : Lane).Fits :=
  ⟨(List.length_filter_le _ _).trans h.1, h.2⟩

theorem dropWaiting_fits {l : Lane} (u : MoveUnit) (h : l.Fits) : (l.dropWaiting u).Fits :=
  ⟨h.1, (List.length_filter_le _ _).trans h.2⟩

theorem enterHolder_fits {l : Lane} (u : MoveUnit) (h : l.Fits) : (l.enterHolder u).Fits := by
  unfold Lane.enterHolder
  split
  · exact ⟨by simpa using h.1, h.2⟩
  · split
    · rename_i hroom
      exact ⟨by simpa using hroom, (dropWaiting_fits u h).2⟩
    · exact h

theorem keepsTables_grant (s : State) (r : RangeId) : s.KeepsTables (s.grant r) :=
  keepsTables_setLane fun hs => grant_fits (laneCapacity_le hs r) (hs.lanes r)

theorem keepsTables_withdrawEverywhere (s : State) (u : MoveUnit) : s.KeepsTables (s.withdrawEverywhere u) := by
  refine keepsTables_mapLanes fun hs r l hl => ?_
  split
  · exact grant_fits (laneCapacity_le hs r) (dropWaiting_fits u hl)
  · exact hl

theorem keepsTables_releaseUnit (s : State) (r : RangeId) (u : MoveUnit) : s.KeepsTables (s.releaseUnit r u) :=
  (keepsTables_setLane fun hs => dropWaiting_fits u (holders_filter_fits _ (hs.lanes r))).trans (keepsTables_grant _ r)

/-- The lists that the four steps of an ack leave are within their capacities (R126). -/
theorem laneRequested_fits {s : State} (hs : s.TablesFit) (u : MoveUnit) (v : VehicleId) (r : RangeId) :
    (s.laneRequested u v r).Fits := by
  have hentered : (s.laneEntered u v r).Fits := by
    unfold State.laneEntered
    split
    · exact enterHolder_fits u (hs.lanes r)
    · exact hs.lanes r
  have hreleased : (s.laneReleased u v r).Fits := holders_filter_fits _ hentered
  have hwithdrawn : (s.laneWithdrawn u v r).Fits := by
    unfold State.laneWithdrawn
    split
    · exact dropWaiting_fits u hreleased
    · exact hreleased
  unfold State.laneRequested
  split
  · rename_i hasks
    simp only [State.laneAsks, Bool.and_eq_true, decide_eq_true_eq] at hasks
    exact ⟨hwithdrawn.1, by simpa using hasks.2⟩
  · exact hwithdrawn

theorem keepsTables_laneAck (s : State) (v : VehicleId) : s.KeepsTables (s.laneAck v).1 := by
  obtain ⟨hframe, -, htrailer⟩ := laneAck_spec s v
  cases hk : (s.vehicle v).kind with
  | trailer => rw [htrailer hk]; exact .refl s
  | tractor =>
    have hlane := laneAck_lane s v hk
    rw [hframe] at hlane ⊢
    refine ⟨rfl, rfl, fun hs => ⟨hs.channels, fun r => ?_, hs.identQueue, hs.convoys, hs.zones⟩⟩
    rw [hlane r]
    split
    · exact laneRequested_fits hs _ v r
    · exact grant_fits (laneCapacity_le hs r) (laneRequested_fits hs _ v r)

/-! ### Convoys -/

/-- Dropping passed entries keeps every member and shortens the trail (R104). -/
theorem dropPassed_length (t : List TrailEntry) (ms : List Member) :
    (dropPassed t ms).1.length ≤ t.length ∧ (dropPassed t ms).2.length = ms.length := by
  induction t generalizing ms with
  | nil => exact ⟨Nat.le_refl _, rfl⟩
  | cons e t ih =>
    unfold dropPassed
    split
    · obtain ⟨h1, h2⟩ := ih (ms.map fun m => { m with cursor := m.cursor - 1 })
      exact ⟨h1.trans (Nat.le_succ _), by simpa using h2⟩
    · exact ⟨Nat.le_refl _, rfl⟩

theorem dropOldest_fits {c : Convoy} (h : c.Fits) : c.dropOldest.Fits := by
  obtain ⟨ht, hm⟩ := dropPassed_length c.trail c.members
  exact ⟨hm.le.trans h.1, ht.trans h.2⟩

theorem raiseCursor_fits {c : Convoy} (v : VehicleId) (h : c.Fits) : (c.raiseCursor v).Fits :=
  ⟨by simpa [Convoy.raiseCursor] using h.1, h.2⟩

theorem measure_length (s : State) (due : VehicleId → VehicleId → Bool) (ms : List Member) :
    (s.measure due ms).length = ms.length := by
  simpa using congrArg List.length (measure_tractors s due ms)

theorem endHold_fits {c : Convoy} (g : Option Segment) (h : c.Fits) : (c.endHold g).Fits := by
  unfold Convoy.endHold
  split <;> exact h

theorem recordJunction_fits {s : State} {c : Convoy} (v : VehicleId) (before : Option Segment) (h : c.Fits) :
    (s.recordJunction c v before).1.Fits := by
  unfold State.recordJunction
  split
  · split
    · split
      · rename_i hroom
        exact dropOldest_fits (raiseCursor_fits v ⟨h.1, by simpa using hroom⟩)
      · exact h
    · exact h
  · exact h

theorem advanceCursor_fits {s : State} {c : Convoy} (v : VehicleId) (before : Option Segment) (h : c.Fits) :
    (s.advanceCursor c v before).Fits := by
  unfold State.advanceCursor
  split
  · split
    · split
      · exact dropOldest_fits (raiseCursor_fits v h)
      · exact h
    · exact h
  · exact h

theorem convoyAfterAck_fits {s : State} {c : Convoy} (v : VehicleId) (before : Option Segment) (h : c.Fits) :
    (s.convoyAfterAck c v before).1.Fits := by
  have hmeasured (due) : ({ c with members := s.measure due c.members } : Convoy).Fits :=
    ⟨(measure_length s due c.members).le.trans h.1, h.2⟩
  unfold State.convoyAfterAck
  dsimp only
  split
  · exact recordJunction_fits v before (endHold_fits _ (hmeasured _))
  · split
    · exact advanceCursor_fits v before (hmeasured _)
    · exact advanceCursor_fits v before (hmeasured _)

theorem keepsTables_convoyAck (s : State) (v : VehicleId) (before : Option Segment) :
    s.KeepsTables (s.convoyAck v before).1 := by
  unfold State.convoyAck
  split
  · exact keepsTables_setConvoy (convoyAfterAck_fits v before)
  · exact .refl s

theorem convoyRestart_fits {c : Convoy} (h : c.Fits) : c.restart.Fits := by
  unfold Convoy.restart
  split <;> exact h

theorem holdConvoy_fits {s : State} {c : Convoy} (mode : HoldMode) (h : c.Fits) : (s.holdConvoy c mode).Fits := by
  unfold State.holdConvoy
  split
  case h_2 => split <;> exact h
  all_goals exact h

theorem promote_fits {c : Convoy} (h : c.Fits) : c.promote.Fits := by
  unfold Convoy.promote
  split
  · rename_i l fs hm
    refine ⟨?_, (List.length_take_le' _ _).trans h.2⟩
    simpa [hm] using h.1
  · exact h

theorem convoyWithout_fits {s : State} {c : Convoy} (v : VehicleId) (h : c.Fits) : (s.convoyWithout c v).Fits := by
  have hrest : (c.members.filter (fun m => m.tractor ≠ v)).length ≤ 8 := (List.length_filter_le _ _).trans h.1
  unfold State.convoyWithout
  dsimp only
  split
  · exact dropOldest_fits (promote_fits ⟨hrest, h.2⟩)
  · exact dropOldest_fits ⟨(measure_length _ _ _).le.trans hrest, h.2⟩

theorem blankConvoy_fits : Convoy.blank.Fits := by simp [Convoy.Fits, Convoy.blank]

/-- The loss of members changes no member list and no trail (R94). -/
theorem keepsTables_loseMembers (s : State) (lost : List VehicleId) : s.KeepsTables (s.loseMembers lost) := by
  obtain ⟨n, ks, h, hk⟩ := loseMembers_spec s lost
  rw [h]
  refine ⟨rfl, rfl, fun hs => ⟨hs.channels, hs.lanes, hs.identQueue, fun c => ?_, hs.zones⟩⟩
  show (ks[c]).Fits
  rcases hk c with ⟨e, -⟩ | ⟨v, -, -, -, e⟩ <;> rw [e]
  · exact hs.convoys c
  · exact hs.convoys c

/-! ### The Coupling Identifier -/

theorem keepsTables_of_polls {s t : State} (h : OnlyPolls s t) : s.KeepsTables t := by
  obtain ⟨hframe, hch, -, hq⟩ := h
  rw [hframe] at hch hq ⊢
  refine ⟨rfl, rfl, fun hs => ⟨fun c => ?_, hs.lanes, hq.length_le.trans hs.identQueue, hs.convoys, hs.zones⟩⟩
  rw [hch c]
  exact hs.channels c

theorem keepsTables_judgeStart (s : State) : s.KeepsTables s.judgeStart.1 := keepsTables_of_polls (judgeStart_spec s).1

theorem keepsTables_leaveIdentQueue (s : State) (x : VehicleId) : s.KeepsTables (s.leaveIdentQueue x) :=
  keepsTables_of_polls (onlyPolls_leaveIdentQueue s x)

theorem keepsTables_roundEnd (s : State) (i : Identification) : s.KeepsTables (s.roundEnd i).1 := by
  unfold State.roundEnd
  split
  · exact ((keepsTables_setVehicle s _ _).trans (keepsTables_leaveIdentQueue _ _)).trans (keepsTables_judgeStart _)
  · split
    · exact keepsTables_of_polls (onlyPolls_beginRound s _ _)
    · exact (keepsTables_leaveIdentQueue s _).trans (keepsTables_judgeStart _)

theorem keepsTables_pollReport (s : State) (c : Channel) (replies : List Byte) (garbled : Bool) :
    s.KeepsTables (s.pollReport c replies garbled).1 := by
  unfold State.pollReport
  split
  · split
    · dsimp only
      split
      · exact keepsTables_roundEnd s _
      · exact keepsTables_of_same rfl
    · exact .refl s
  · exact .refl s

theorem keepsTables_detachAll (s : State) (vs : List VehicleId) : s.KeepsTables (s.detachAll vs) :=
  keepsTables_of_same (by rw [detachAll_frame]; rfl)

theorem keepsTables_cancelEntry (s : State) (x : VehicleId) : s.KeepsTables (s.cancelEntry x) := by
  unfold State.cancelEntry
  dsimp only
  refine State.KeepsTables.trans ?_ (keepsTables_leaveIdentQueue _ x)
  split
  · split
    · exact keepsTables_mapChannels s fun _ h => h
    · exact .refl s
  · split
    · exact keepsTables_mapChannels s fun _ h => h
    · exact .refl s

theorem keepsTables_kingpinRelease (s : State) (y : VehicleId) : s.KeepsTables (s.kingpinRelease y).1 := by
  unfold State.kingpinRelease
  split
  · exact ((keepsTables_detachAll s _).trans (keepsTables_setVehicle _ y _)).trans (keepsTables_judgeStart _)
  · exact .refl s

theorem keepsTables_opening (s : State) (x : VehicleId) : s.KeepsTables (s.opening x).1 :=
  ((keepsTables_detachAll s _).trans (keepsTables_cancelEntry _ x)).trans (keepsTables_judgeStart _)

/-- A closure joins the identification queue while it holds fewer than four entries (R140). -/
theorem keepsTables_closure (s : State) (x : VehicleId) : s.KeepsTables (s.closure x).1 := by
  unfold State.closure
  split
  · exact .refl s
  · split
    · exact .refl s
    · rename_i hroom
      simp only [Bool.or_eq_true, decide_eq_true_eq, not_or, Nat.not_le] at hroom
      refine State.KeepsTables.trans ?_ (keepsTables_judgeStart _)
      exact ⟨rfl, rfl, fun hs => ⟨hs.channels, hs.lanes, by simpa using hroom.2, hs.convoys, hs.zones⟩⟩

theorem keepsTables_couplerAck (s : State) (x : VehicleId) (before : Vehicle) : s.KeepsTables (s.couplerAck x before).1 := by
  have hrelease (released : Bool) : s.KeepsTables (if released then s.kingpinRelease x else (s, [])).1 := by
    split
    · exact keepsTables_kingpinRelease s x
    · exact .refl s
  unfold State.couplerAck
  dsimp only
  generalize ((s.vehicle x).kind = .trailer && before.kingpin && !(s.vehicle x).kingpin : Bool) = released
  refine (hrelease released).trans ?_
  generalize (if released then s.kingpinRelease x else (s, [])).1 = s1
  split
  · exact keepsTables_opening s1 x
  · split
    · exact keepsTables_closure s1 x
    · exact .refl s1

end Sys2Proof.Machine

namespace Sys2Proof.Machine

/-! ### The end of an event -/

/-- The event's state is within its capacities, and its reply, if one is due, has its place (R164). -/
structure Work.Fits (w : Work) : Prop where
  tables : w.state.TablesFit
  mgmt : w.state.mgmt.Fits
  out : w.state.outCount + w.reply.toList.length ≤ 8

theorem fits_settle {w : Work} (h : w.Fits) : w.settle.withinCapacity := by
  obtain ⟨u, q, n, e, -, hl, -⟩ := settle_spec w
  have hkeeps : w.state.TablesFit → w.settle.TablesFit := fun k => by rw [e]; exact ⟨k.1, k.2, k.3, k.4, k.5⟩
  refine (withinCapacity_iff _).mpr ⟨?_, by rw [e]; exact h.mgmt, hkeeps h.tables⟩
  have := hl h.out
  rw [e]
  simpa [State.outCount, State.reserved] using this

theorem fits_latches {w : Work} (h : w.Fits) (ls : List (List Latch)) : ({ w with latches := ls } : Work).Fits :=
  ⟨h.tables, h.mgmt, h.out⟩

/-- An event that gives no reply. -/
theorem fits_state {s : State} (h : s.withinCapacity) (ls : List (List Latch)) :
    ({ state := s, latches := ls } : Work).Fits := by
  obtain ⟨ho, hm, ht⟩ := (withinCapacity_iff s).mp h
  exact ⟨ht, hm, ho⟩

/-- A command that is answered in flight gives its place to its reply (R164). -/
theorem fits_answerInFlight {s : State} (h : s.withinCapacity) (code : Byte) (a : Answer) : (s.answerInFlight code a).Fits := by
  obtain ⟨ho, hm, ht⟩ := (withinCapacity_iff s).mp h
  unfold State.answerInFlight
  split
  · rename_i e rest he
    split
    · rename_i hf
      have hflying : s.mgmt.inFlight = true := by
        simp only [State.inFlightCode, Bool.and_eq_true] at hf
        exact hf.1
      have hl := hm.length
      rw [he] at hl
      refine ⟨⟨ht.1, ht.2, ht.3, ht.4, ht.5⟩, ⟨(Nat.le_succ _).trans hl, by simp, fun d hd => ?_⟩, ?_⟩
      · exact hm.broadcast d (he ▸ List.mem_cons_of_mem _ hd)
      · simpa [State.outCount, State.reserved, hflying] using ho
    · exact fits_state h []
  · exact fits_state h []

theorem fits_answerRestart {s : State} (h : s.withinCapacity) (c : Channel) (status : ReplyStatus) :
    (s.answerRestart c status).Fits := by
  unfold State.answerRestart
  split
  · exact fits_answerInFlight h _ _
  · exact fits_state h []

/-! ### A command at the head of the Management Queue -/

/-- An executable head is not in flight, and the output queue has room for its reply unless it is broadcast (R166). -/
theorem ready_some {s : State} {e : MgmtEntry} (h : s.ready = some e) :
    s.mgmt.entries.head? = some e ∧ s.mgmt.inFlight = false ∧ (s.outCount < 8 ∨ e.broadcast = true) := by
  unfold State.ready at h
  split at h
  · simp at h
  · rename_i d rest he
    split at h
    · rename_i hc
      obtain rfl := Option.some.inj h
      exact ⟨by rw [he]; rfl, hc⟩
    · simp at h

theorem readyFor_some {s : State} {code : Byte} {e : MgmtEntry} {args : List Byte} (h : s.readyFor code = some (e, args)) :
    s.ready = some e ∧ codeOf e.payload = code := by
  unfold State.readyFor at h
  split at h
  · rename_i d hd
    split at h
    · rename_i c t rest hp
      split at h
      · rename_i hc
        simp only [Option.some.injEq, Prod.mk.injEq] at h
        obtain ⟨rfl, -⟩ := h
        exact ⟨hd, by rw [hp]; exact hc⟩
      · simp at h
    · simp at h
  · simp at h

/-- A command answered at once, whose effect may take frames and commands out of the queues (R166, R176). -/
theorem fits_finish_of_shrunk {s : State} (hs : s.withinCapacity) {e : MgmtEntry} (hr : s.ready = some e) {d : Done}
    (ht : d.state.TablesFit) (hf : d.state.mgmt.inFlight = s.mgmt.inFlight)
    (he : d.state.mgmt.entries.Sublist s.mgmt.entries) (hq : d.state.link.queue.length ≤ s.link.queue.length) :
    (d.finish e).Fits := by
  obtain ⟨ho, hm, -⟩ := (withinCapacity_iff s).mp hs
  obtain ⟨-, hidle, hroom⟩ := ready_some hr
  have htail := (List.tail_sublist d.state.mgmt.entries).trans he
  refine ⟨⟨ht.1, ht.2, ht.3, ht.4, ht.5⟩, ⟨htail.length_le.trans hm.length, fun hfly => ?_, fun x hx =>
    hm.broadcast x (htail.subset hx)⟩, ?_⟩
  · have hfly : d.state.mgmt.inFlight = true := hfly
    simp [hf, hidle] at hfly
  · have hout : d.state.popHead.outCount = d.state.link.queue.length := by
      simp [State.outCount, State.reserved, State.popHead, hf, hidle]
    have hcount : s.outCount = s.link.queue.length := by simp [State.outCount, State.reserved, hidle]
    show d.state.popHead.outCount + (if e.broadcast then none else some _ : Option LinkFrame).toList.length ≤ 8
    rw [hout]
    rcases hroom with hroom | hroom
    · split <;> simp only [Option.toList_none, Option.toList_some, List.length_nil, List.length_singleton] <;> omega
    · simp only [hroom, if_true, Option.toList_none, List.length_nil]
      omega

theorem fits_finish {s : State} (hs : s.withinCapacity) {e : MgmtEntry} (hr : s.ready = some e) {d : Done}
    (h : s.KeepsTables d.state) : (d.finish e).Fits :=
  fits_finish_of_shrunk hs hr (h.fits ((withinCapacity_iff s).mp hs).2.2) (by rw [h.mgmt]) (by rw [h.mgmt]) (by rw [h.link])

theorem within_atOnce {s : State} (hs : s.withinCapacity) {code : Byte} {run : List Byte → State → Done}
    (h : ∀ args s, State.KeepsTables s (run args s).state) : (atOnce code run s).withinCapacity := by
  unfold atOnce
  split
  · rename_i e args hr
    exact fits_settle (fits_finish hs (readyFor_some hr).1 (h args s))
  · exact hs

/-! ### Convoy commands, ZONE_RELEASE and decisions -/

theorem keepsTables_setConvoyOf (s : State) (v : VehicleId) (c : Option ConvoyId) : s.KeepsTables (s.setConvoyOf v c) :=
  keepsTables_setVehicle s v _

theorem keepsTables_runConvoyForm (args : List Byte) (s : State) : s.KeepsTables (runConvoyForm args s).state := by
  unfold runConvoyForm
  split
  · split
    · split
      · exact .refl s
      · split
        · exact .refl s
        · exact (keepsTables_setConvoy fun _ => by simp [Convoy.Fits]).trans (keepsTables_setConvoyOf _ _ _)
    · exact .refl s
  · exact .refl s

/-- A member joins a convoy of fewer than eight (R85). -/
theorem keepsTables_addMember {s : State} {c : ConvoyId} (v : VehicleId) (gmin gmax : Nat)
    (hroom : (s.convoy c).members.length < 8) : s.KeepsTables (s.addMember c v gmin gmax) := by
  refine State.KeepsTables.trans (keepsTables_setConvoy ?_) (keepsTables_setConvoyOf _ v (some c))
  refine fun h => dropOldest_fits ⟨?_, h.2⟩
  rw [measure_length]
  simpa using hroom

theorem keepsTables_runConvoyAdd (args : List Byte) (s : State) : s.KeepsTables (runConvoyAdd args s).state := by
  unfold runConvoyAdd
  split
  · dsimp only
    split
    · split
      · exact .refl s
      · split
        · exact .refl s
        · rename_i hroom
          split
          · exact .refl s
          · exact keepsTables_addMember _ _ _ (Nat.lt_of_not_le hroom)
    · exact .refl s
  · exact .refl s

theorem keepsTables_removeMember (s : State) (c : ConvoyId) (v : VehicleId) : s.KeepsTables (s.removeMember c v) := by
  unfold State.removeMember
  dsimp only
  split
  · exact ((keepsTables_setConvoy fun _ => blankConvoy_fits).trans (keepsTables_setConvoyOf _ _ _)).trans
      (keepsTables_withdrawEverywhere _ _)
  · exact (keepsTables_setConvoy (convoyWithout_fits v)).trans (keepsTables_setConvoyOf _ _ _)

theorem keepsTables_runConvoyRemove (args : List Byte) (s : State) : s.KeepsTables (runConvoyRemove args s).state := by
  unfold runConvoyRemove
  split
  · split
    · split
      · exact .refl s
      · dsimp only
        split
        · exact .refl s
        · split
          · exact .refl s
          · exact keepsTables_removeMember s _ _
    · exact .refl s
  · exact .refl s

theorem keepsTables_runConvoyHold (args : List Byte) (s : State) : s.KeepsTables (runConvoyHold args s).state := by
  unfold runConvoyHold
  split
  · split
    · split
      · exact .refl s
      · exact keepsTables_setConvoy (holdConvoy_fits _)
    · exact .refl s
  · exact .refl s

theorem keepsTables_runConvoyResume (args : List Byte) (s : State) : s.KeepsTables (runConvoyResume args s).state := by
  unfold runConvoyResume
  split
  · split
    · split
      · exact .refl s
      · split
        · exact .refl s
        · exact keepsTables_setConvoy id
    · exact .refl s
  · exact .refl s

theorem keepsTables_disbandConvoy (s : State) (c : ConvoyId) : s.KeepsTables (s.disbandConvoy c) := by
  have hfree : s.KeepsTables ((s.withdrawEverywhere (.convoy c)).setConvoy c .blank) :=
    (keepsTables_withdrawEverywhere s _).trans (keepsTables_setConvoy fun _ => blankConvoy_fits)
  unfold State.disbandConvoy
  exact hfree.trans (keepsTables_mapVehicles _ _)

theorem keepsTables_runConvoyDisband (args : List Byte) (s : State) : s.KeepsTables (runConvoyDisband args s).state := by
  unfold runConvoyDisband
  split
  · split
    · split
      · exact .refl s
      · split
        · exact .refl s
        · exact keepsTables_disbandConvoy s _
    · exact .refl s
  · exact .refl s

theorem keepsTables_runZoneRelease (args : List Byte) (s : State) : s.KeepsTables (runZoneRelease args s).state := by
  unfold runZoneRelease
  split
  · split
    · split
      · exact keepsTables_releaseUnit s _ _
      · exact .refl s
    · exact .refl s
  · exact .refl s

theorem keepsTables_runDecision {decide : VehicleId → VehicleId → State → State}
    (h : ∀ x w (s : State), s.KeepsTables (decide x w s)) (args : List Byte) (s : State) :
    s.KeepsTables (runDecision decide args s).state := by
  unfold runDecision
  split
  · split
    · split
      · exact (h _ _ s).trans (keepsTables_judgeStart _)
      · exact .refl s
    · exact .refl s
  · exact .refl s

/-! ### Commands that act on no one table -/

theorem keepsTables_runNop (args : List Byte) (s : State) : s.KeepsTables (runNop args s).state := by
  rw [(runNop_state args s).1]
  exact .refl s

theorem keepsTables_runStatus (args : List Byte) (s : State) : s.KeepsTables (runStatus args s).state := by
  unfold runStatus
  split <;> exact .refl s

theorem keepsTables_runRead (args : List Byte) (s : State) : s.KeepsTables (runRead args s).state := by
  unfold runRead
  split <;> exact .refl s

theorem keepsTables_runFaultRead (args : List Byte) (s : State) : s.KeepsTables (runFaultRead args s).state := by
  unfold runFaultRead
  split <;> exact .refl s

theorem keepsTables_runFaultClear (args : List Byte) (s : State) : s.KeepsTables (runFaultClear args s).state := by
  unfold runFaultClear
  split
  · dsimp only
    split
    · exact .refl s
    · exact keepsTables_of_same rfl
  · exact .refl s

theorem keepsTables_runStopAll (args : List Byte) (s : State) : s.KeepsTables (runStopAll args s).state := by
  unfold runStopAll
  split
  · exact keepsTables_of_same rfl
  · exact .refl s

/-- RESTART empties the output queue and takes every command but the head out of the Management Queue (R176). -/
theorem fits_runRestart {s : State} (hs : s.withinCapacity) {e : MgmtEntry} (hr : s.ready = some e) (args : List Byte) :
    ((runRestart args s).finish e).Fits := by
  unfold runRestart
  split
  · have ht := ((withinCapacity_iff s).mp hs).2.2
    refine fits_finish_of_shrunk hs hr ⟨fun c => ?_, ht.lanes, Nat.zero_le 4, fun c => ?_, ht.zones⟩ rfl
      (List.take_sublist 1 s.mgmt.entries) (Nat.zero_le _)
    · have : s.restarted.channel c = (s.channel c).restart :=
        channel_mapChannels_same ((s.mapBindings Binding.disarm).mapVehicles fun _ x => x.atRest) ChannelUnit.restart c
      exact this ▸ channelRestart_fits _
    · have : s.restarted.convoy c = (s.convoy c).restart := convoy_mapConvoys_same s Convoy.restart c
      exact this ▸ convoyRestart_fits (ht.convoys c)
  · exact fits_finish hs hr (.refl s)

/-! ### A whole WRITE -/

theorem keepsTables_invalidate (s : State) (v : VehicleId) (cfg : VehicleConfig) : s.KeepsTables (s.invalidate v cfg) := by
  have hdissolve : s.KeepsTables (s.dissolveNaming v) := keepsTables_of_same (by rw [dissolveNaming_frame]; rfl)
  rw [invalidate_eq]
  exact ((hdissolve.trans (keepsTables_setVehicle _ v _)).trans (keepsTables_withdrawEverywhere _ _)).trans
    (keepsTables_cancelEntry _ v)

theorem keepsTables_judgeVehicle (index : Nat) (bytes : List Byte) (s : State) :
    s.KeepsTables (judgeVehicle index bytes s).state := by
  unfold judgeVehicle
  split
  · split
    · exact .refl s
    · split
      · exact .refl s
      · unfold State.applyVehicle
        dsimp only
        split
        · exact keepsTables_setVehicle s _ _
        · split
          · exact keepsTables_invalidate s _ _
          · exact keepsTables_setVehicle s _ _
  · exact .refl s

theorem keepsTables_judgeBinding (index : Nat) (bytes : List Byte) (s : State) :
    s.KeepsTables (judgeBinding index bytes s).state :=
  keepsTables_of_same (by rw [judgeBinding_frame]; rfl)

theorem keepsTables_judgeLimits (index : Nat) (bytes : List Byte) (s : State) :
    s.KeepsTables (judgeLimits index bytes s).state :=
  keepsTables_of_same (by rw [judgeLimits_frame]; rfl)

/-- The lane capacity that a zone entry stores is at most 3 (check 1 of R115). -/
theorem zoneRangeOf_capacity {bytes : List Byte} {z : Range} {clamped : Bool} (h : zoneRangeOf bytes = some (z, clamped)) :
    z.rules.capacity ≤ 3 := by
  unfold zoneRangeOf at h
  split at h
  · split at h
    · split at h
      · rename_i hc
        simp only [Option.some.injEq, Prod.mk.injEq] at h
        obtain ⟨rfl, -⟩ := h
        exact hc.2
      · simp at h
    · simp at h
  · simp at h

theorem keepsTables_judgeZone (index : Nat) (bytes : List Byte) (s : State) :
    s.KeepsTables (judgeZone index bytes s).state := by
  unfold judgeZone
  split
  · split
    · exact .refl s
    · rename_i z clamped hz
      have hset (r) : s.KeepsTables (s.setZone r z) := keepsTables_setZone (zoneRangeOf_capacity hz)
      split
      · exact .refl s
      · unfold State.applyZone
        dsimp only
        split
        · exact (hset _).trans (keepsTables_grant _ _)
        · exact hset _
  · exact .refl s

theorem keepsTables_writeEntries {judge : EntryJudge} (h : ∀ i bytes (s : State), s.KeepsTables (judge i bytes s).state)
    (index : Nat) (entries : List (List Byte)) (s : State) : s.KeepsTables (writeEntries judge index entries s).state := by
  induction entries generalizing index s with
  | nil => exact .refl s
  | cons e es ih => exact (h index e s).trans (ih (index + 1) _)

theorem keepsTables_runWrite {judge : EntryJudge} (h : ∀ i bytes (s : State), s.KeepsTables (judge i bytes s).state)
    (table : Byte) (size : Nat) (args : List Byte) (s : State) : s.KeepsTables (runWrite table size judge args s).state := by
  unfold runWrite
  split
  · rename_i first entries _
    exact (keepsTables_writeEntries h first entries s).trans (keepsTables_of_polls (ended_spec _).1)
  · exact .refl s

theorem within_writeStep {s : State} (hs : s.withinCapacity) {judge : EntryJudge}
    (h : ∀ i bytes (s : State), s.KeepsTables (judge i bytes s).state) (table : Byte) (size : Nat) :
    (writeStep table size judge s).withinCapacity := by
  unfold writeStep
  split
  · rename_i e args hr
    split
    · exact fits_settle (fits_finish hs (readyFor_some hr).1 (keepsTables_runWrite h table size args s))
    · exact hs
  · exact hs

/-! ### Acks, misses and the end of a channel's service -/

theorem keepsTables_validAck (s : State) (v : VehicleId) (a : Ack) : s.KeepsTables (s.validAck v a).state :=
  (((keepsTables_setVehicle s v _).trans (keepsTables_convoyAck _ v _)).trans (keepsTables_laneAck _ v)).trans
    (keepsTables_couplerAck _ v _)

theorem fits_miss {s : State} (hs : s.withinCapacity) (v : VehicleId) : (s.miss v).Fits := by
  unfold State.miss
  dsimp only
  split
  · refine fits_state (State.KeepsTables.capacity ?_ hs) _
    exact (keepsTables_setVehicle s v _).trans (keepsTables_loseMembers _ [v])
  · exact fits_state ((keepsTables_setVehicle s v _).capacity hs) []

/-- The end of a drive slot's window gives no reply (R35). -/
theorem fits_slotOutcome {s : State} (hs : s.withinCapacity) (v : VehicleId) (ack : Option Ack) : (s.slotOutcome v ack).Fits := by
  unfold State.slotOutcome
  split
  · split
    · rename_i a
      exact fits_state ((keepsTables_validAck s v a).capacity hs) _
    · exact fits_miss hs v
  · exact fits_state ((keepsTables_setVehicle s v _).capacity hs) _

theorem keepsTables_vehiclesLoseChannel (s : State) (c : Channel) (leaves : Bool) :
    s.KeepsTables (s.vehiclesLoseChannel c leaves) := by
  unfold State.vehiclesLoseChannel
  exact (keepsTables_mapVehicles s fun _ x => x.channelLost c leaves).trans (keepsTables_loseMembers _ _)

theorem keepsTables_clearSlots (s : State) (c : Channel) (u : ChannelUnit) : s.KeepsTables (s.setChannel c u.clearSlots) :=
  keepsTables_setChannel fun _ => clearSlots_fits u

theorem fits_leaveServing {s : State} (hs : s.withinCapacity) (c : Channel) (old : ChannelUnit) :
    (s.leaveServing c old).Fits := by
  have hend (t : State) : t.KeepsTables (t.endVehicleSlot old.flight) :=
    keepsTables_of_same (by rw [endVehicleSlot_frame]; rfl)
  have hleft := ((keepsTables_clearSlots s c (s.channel c)).trans (hend _)).trans (keepsTables_vehiclesLoseChannel _ c true)
  rw [leaveServing_eq s _ c old rfl]
  refine fits_latches ?_ _
  generalize ((s.setChannel c (s.channel c).clearSlots).endVehicleSlot old.flight).vehiclesLoseChannel c true = left at hleft
  have hreported : (if old.pollOpen then left.pollReport c [] false else (left, [])).1.withinCapacity := by
    split
    · exact (hleft.trans (keepsTables_pollReport _ c [] false)).capacity hs
    · exact hleft.capacity hs
  split
  · exact fits_answerInFlight hreported _ _
  · exact fits_state hreported []

theorem fits_lockLostServing {s : State} (hs : s.withinCapacity) (c : Channel) : (s.lockLostServing c).Fits :=
  fits_latches (fits_leaveServing ((keepsTables_keepDirect _ c _).capacity hs) c _) _

theorem fits_failTest {s : State} (hs : s.withinCapacity) (c : Channel) (d : TestDetail) : (s.failTest c d).Fits :=
  fits_latches (fits_answerRestart ((keepsTables_keepDirect _ c _).capacity hs) c _) _

theorem fits_lockLostInTest {s : State} (hs : s.withinCapacity) (c : Channel) (returned : List Byte) :
    (s.lockLostInTest c returned).Fits := by
  unfold State.lockLostInTest
  dsimp only
  split
  · exact fits_failTest hs c _
  · split
    · exact fits_failTest hs c _
    · have hpick : s.KeepsTables (s.pick 8).2 := keepsTables_of_same (by rw [pick_state]; rfl)
      exact fits_failTest (hpick.capacity hs) c _

theorem fits_lockLostReport {s : State} (hs : s.withinCapacity) (c : Channel) (returned : List Byte) :
    (s.lockLostReport c returned).Fits := by
  unfold State.lockLostReport
  split
  · exact fits_lockLostServing hs c
  · exact fits_lockLostInTest hs c returned
  all_goals exact fits_state hs []

theorem fits_passTest {s : State} (hs : s.withinCapacity) (c : Channel) : (s.passTest c).Fits :=
  fits_answerRestart (((keepsTables_keepDirect _ c _).trans (keepsTables_beginCycle _ c 0)).capacity hs) c _

theorem fits_restartChannel {s : State} (hs : s.withinCapacity) (c : Channel) : (s.restartChannel c).Fits := by
  have hlocking : s.KeepsTables ((s.enterLocking c).setChannel c
      { (s.enterLocking c).channel c with counter := 0, testFrame := 0 }) :=
    (keepsTables_enterLocking s c).trans (keepsTables_keepDirect _ c _)
  unfold State.restartChannel
  dsimp only
  split
  · exact fits_leaveServing (hlocking.capacity hs) c _
  · exact fits_state (((hlocking.trans (keepsTables_clearSlots _ c _)).trans
      (keepsTables_vehiclesLoseChannel _ c false)).capacity hs) []

end Sys2Proof.Machine

namespace Sys2Proof.Machine

/-! ### Every command -/

/-- Whatever state a meaning answers is within its capacities. -/
def CapacitySafe (o : Result) : Prop := ∀ t, o = .next t → t.withinCapacity

theorem capacitySafe_next {t : State} (h : t.withinCapacity) : CapacitySafe (.next t) :=
  fun _ e => Host.Outcome.next.inj e ▸ h

theorem capacitySafe_settle {w : Work} (h : w.Fits) : CapacitySafe (.next w.settle) := capacitySafe_next (fits_settle h)

/-- An update of nothing that the capacities speak of. -/
theorem within_of_same {s t : State} (hs : s.withinCapacity) (h : t.capacityParts = s.capacityParts := by rfl) :
    t.withinCapacity :=
  (keepsTables_of_same h).capacity hs

theorem capacitySafe_powerOnReset (pins : Pins) (s : State) : CapacitySafe (execPowerOnReset pins s) :=
  capacitySafe_settle (fits_state (within_of_same (powerOn_withinCapacity pins)) _)

/-- A channel that accepts a direct frame holds fewer than two (R40). -/
theorem directRefusal_room {s : State} {a : DirectArgs} {c : Channel} (h : s.directRefusal a = .ok c) :
    (s.channel c).direct.length < 2 := by
  unfold State.directRefusal at h
  split at h
  · rename_i d _
    split at h
    · simp at h
    · split at h
      · simp at h
      · split at h
        · simp at h
        · rename_i hroom
          obtain rfl := Except.ok.inj h
          exact Nat.lt_of_not_le hroom
  · simp at h

/-- DIRECT_SEND carries 1 to 8 payload bytes (R40). -/
theorem directArgsOf_length {args : List Byte} {a : DirectArgs} (h : directArgsOf args = some a) :
    1 ≤ a.payload.length ∧ a.payload.length ≤ 8 := by
  unfold directArgsOf at h
  split at h
  · split at h
    · rename_i hc
      obtain rfl := Option.some.inj h
      obtain ⟨hn, h1, h8⟩ := hc
      exact ⟨hn ▸ h1, hn ▸ h8⟩
    · simp at h
  · simp at h

section Commands

variable {s : State} (hs : s.withinCapacity)
include hs

theorem within_keeps {t : State} (h : s.KeepsTables t) : CapacitySafe (.next t) := capacitySafe_next (h.capacity hs)

theorem within_finish {e : MgmtEntry} (hr : s.ready = some e) {d : Done} (h : s.KeepsTables d.state) :
    CapacitySafe (.next (d.finish e).settle) :=
  capacitySafe_settle (fits_finish hs hr h)

theorem capacitySafe_frameCheckFailure (bytes : List Byte) : CapacitySafe (execFrameCheckFailure bytes s) := by
  unfold execFrameCheckFailure
  split
  · exact capacitySafe_settle (fits_state hs _)
  · exact capacitySafe_next hs

/-- A frame that finds the output queue full is dropped (R164). -/
theorem within_offerFrame (f : LinkFrame) : (s.offerFrame s.reserved f).withinCapacity := by
  obtain ⟨ho, hm, ht⟩ := (withinCapacity_iff s).mp hs
  refine (withinCapacity_iff _).mpr ⟨?_, ?_, ?_⟩
  · rcases offerFrame_cases s.reserved s f with ⟨e, hroom⟩ | ⟨e, -⟩ <;> rw [e]
    · have hone : (s.appendFrame f).outCount = s.link.queue.length + s.reserved + 1 := by
        show (s.link.queue ++ [f]).length + s.reserved = _
        rw [List.length_append, List.length_singleton, Nat.add_right_comm]
      exact hone ▸ hroom
    · exact ho
  · rw [offerFrame_eq]
    exact hm
  · rw [offerFrame_eq]
    exact ⟨ht.1, ht.2, ht.3, ht.4, ht.5⟩

theorem within_unbound (source : Byte) (group : Nat) (cls : Byte) : (s.unbound source group cls).withinCapacity := by
  unfold State.unbound
  split
  · exact hs
  · exact fits_settle (fits_state (within_offerFrame hs _) _)

theorem within_receiveDrive (destination source : Byte) (payload : List Byte) :
    (s.receiveDrive destination source payload).withinCapacity := by
  unfold State.receiveDrive
  split
  · split
    · split
      · exact within_of_same hs
      · exact within_unbound hs _ _ _
    · exact hs
  · exact hs

theorem within_receiveAux (destination source : Byte) (payload : List Byte) :
    (s.receiveAux destination source payload).withinCapacity := by
  unfold State.receiveAux
  split
  · split
    · split
      · exact within_of_same hs
      · exact within_unbound hs _ _ _
    · exact hs
  · exact hs

/-- A command joins the Management Queue while it holds fewer than four (R165). -/
theorem within_queueCommand {e : MgmtEntry} (hroom : s.mgmt.entries.length < 4)
    (hb : e.broadcast = true → mayBroadcast e.payload = true) : (s.queueCommand e).withinCapacity := by
  obtain ⟨ho, hm, ht⟩ := (withinCapacity_iff s).mp hs
  refine (withinCapacity_iff _).mpr ⟨ho, ⟨?_, fun _ => ?_, fun d hd => ?_⟩, ⟨ht.1, ht.2, ht.3, ht.4, ht.5⟩⟩
  · simpa [State.queueCommand] using hroom
  · simp [State.queueCommand]
  · rcases List.mem_append.mp hd with hd | hd
    · exact hm.broadcast d hd
    · rw [List.mem_singleton.mp hd]
      exact hb

theorem within_receiveMgmt (destination source : Byte) (payload : List Byte) :
    (s.receiveMgmt destination source payload).withinCapacity := by
  unfold State.receiveMgmt
  split
  · dsimp only
    split
    · split
      · rename_i hroom
        simp only [Bool.and_eq_true, decide_eq_true_eq] at hroom
        exact within_queueCommand hs hroom.1 fun _ => hroom.2
      · exact hs
    · split
      · rename_i hroom
        exact within_queueCommand hs hroom (by simp)
      · exact within_offerFrame hs _
  · exact hs

theorem capacitySafe_drive (header : LinkHeader) (payload : List Byte) (check : Half) :
    CapacitySafe (execDrive header payload check s) := by
  unfold execDrive
  split
  · exact capacitySafe_next (within_receiveDrive hs _ _ _)
  · exact capacitySafe_next hs

theorem capacitySafe_aux (header : LinkHeader) (payload : List Byte) (check : Half) :
    CapacitySafe (execAux header payload check s) := by
  unfold execAux
  split
  · exact capacitySafe_next (within_receiveAux hs _ _ _)
  · exact capacitySafe_next hs

theorem capacitySafe_mgmt (header : LinkHeader) (payload : List Byte) (check : Half) :
    CapacitySafe (execMgmt header payload check s) := by
  unfold execMgmt
  split
  · exact capacitySafe_next (within_receiveMgmt hs _ _ _)
  · exact capacitySafe_next hs

theorem capacitySafe_outputFrameSend : CapacitySafe (execOutputFrameSend s) := by
  obtain ⟨ho, hm, ht⟩ := (withinCapacity_iff s).mp hs
  unfold execOutputFrameSend
  split
  · rename_i f rest hq
    refine capacitySafe_next ((withinCapacity_iff _).mpr ⟨?_, hm, ⟨ht.1, ht.2, ht.3, ht.4, ht.5⟩⟩)
    simp only [State.outCount, State.reserved, hq, List.length_cons] at ho ⊢
    omega
  · exact capacitySafe_next hs

theorem capacitySafe_unknownCommand : CapacitySafe (execUnknownCommand s) := by
  unfold execUnknownCommand
  split
  · rename_i e hr
    split
    · exact within_finish hs hr (.refl s)
    · split
      · exact capacitySafe_next hs
      · exact within_finish hs hr (.refl s)
  · exact capacitySafe_next hs

theorem capacitySafe_restart : CapacitySafe (execRestart s) := by
  unfold execRestart atOnce
  split
  · rename_i e args hr
    exact capacitySafe_settle (fits_runRestart hs (readyFor_some hr).1 args)
  · exact capacitySafe_next hs

/-- A head that may go in flight is not broadcast: its reply has its place (R164, R165). -/
theorem within_headGoesInFlight {code : Byte} {e : MgmtEntry} {args : List Byte} (hr : s.readyFor code = some (e, args))
    (hcode : code ≠ codeStopAll ∧ code ≠ codeNop) : s.headGoesInFlight.withinCapacity := by
  obtain ⟨ho, hm, ht⟩ := (withinCapacity_iff s).mp hs
  obtain ⟨hready, he⟩ := readyFor_some hr
  obtain ⟨hhead, hidle, hroom⟩ := ready_some hready
  have hmem : e ∈ s.mgmt.entries := List.mem_of_head? hhead
  have hsingle : e.broadcast = false := by
    rw [← Bool.not_eq_true]
    intro hb
    have hmay := hm.broadcast e hmem hb
    unfold mayBroadcast at hmay
    split at hmay
    · rename_i c rest hp
      have hc : c = code := by rw [← he, hp]; rfl
      simp [hc, hcode.1, hcode.2] at hmay
    · simp at hmay
  refine (withinCapacity_iff _).mpr ⟨?_, ⟨hm.length, fun _ => List.ne_nil_of_mem hmem, hm.broadcast⟩,
    ⟨ht.1, ht.2, ht.3, ht.4, ht.5⟩⟩
  have hroom : s.outCount < 8 := hroom.resolve_right (by simp [hsingle])
  simpa [State.outCount, State.reserved, State.headGoesInFlight, hidle] using hroom

/-- An accepted DIRECT_SEND goes in flight with its frame in the channel's list (R40). -/
theorem within_placeDirect {e : MgmtEntry} {args : List Byte} {a : DirectArgs} {c : Channel}
    (hr : s.readyFor codeDirectSend = some (e, args)) (ha : directArgsOf args = some a) (hc : s.directRefusal a = .ok c) :
    (s.placeDirect c a).headGoesInFlight.withinCapacity := by
  have hplace : s.headGoesInFlight.KeepsTables (s.headGoesInFlight.placeDirect c a) := by
    refine keepsTables_setChannel fun h => ⟨?_, fun d hd => ?_⟩
    · simpa using directRefusal_room hc
    · rcases List.mem_append.mp hd with hd | hd
      · exact h.2 d hd
      · rw [List.mem_singleton.mp hd]
        exact directArgsOf_length ha
  exact hplace.capacity (within_headGoesInFlight hs hr (by decide))

theorem capacitySafe_directSend : CapacitySafe (execDirectSend s) := by
  unfold execDirectSend
  split
  · rename_i e args hr
    have hready := (readyFor_some hr).1
    split
    · rename_i a ha
      split
      · rename_i c hc
        exact capacitySafe_next (within_placeDirect hs hr ha hc)
      · exact within_finish hs hready (.refl s)
    · exact within_finish hs hready (.refl s)
  · exact capacitySafe_next hs

theorem capacitySafe_channelRestart : CapacitySafe (execChannelRestart s) := by
  unfold execChannelRestart
  split
  · rename_i e args hr
    have hready := (readyFor_some hr).1
    split
    · split
      · rename_i c _
        exact capacitySafe_settle (fits_restartChannel (within_headGoesInFlight hs hr (by decide)) c)
      · exact within_finish hs hready (.refl s)
    · exact within_finish hs hready (.refl s)
  · exact capacitySafe_next hs

theorem fits_enterFailed (c : Channel) (ls : List Latch) : (s.enterFailed c ls).Fits :=
  fits_latches (fits_answerRestart hs c _) _

theorem capacitySafe_lockLimitExpiry (c : Channel) : CapacitySafe (execLockLimitExpiry c s) := by
  unfold execLockLimitExpiry
  dsimp only
  split
  · exact capacitySafe_settle (fits_enterFailed ((keepsTables_keepDirect s c _).capacity hs) c _)
  · exact capacitySafe_next hs

theorem capacitySafe_relockLimitExpiry (c : Channel) : CapacitySafe (execRelockLimitExpiry c s) := by
  unfold execRelockLimitExpiry
  dsimp only
  split
  · exact capacitySafe_settle (fits_enterFailed ((keepsTables_keepDirect s c _).capacity hs) c _)
  · exact capacitySafe_next hs

theorem capacitySafe_loopbackWindowEnd (c : Channel) (returned : List Byte) :
    CapacitySafe (execLoopbackWindowEnd c returned s) := by
  unfold execLoopbackWindowEnd
  dsimp only
  split
  · split
    · exact capacitySafe_settle (fits_failTest hs c _)
    · split
      · exact capacitySafe_settle (fits_passTest hs c)
      · exact within_keeps hs (keepsTables_keepDirect s c _)
  · exact capacitySafe_next hs

theorem capacitySafe_cycleStart (c : Channel) : CapacitySafe (execCycleStart c s) := by
  unfold execCycleStart
  dsimp only
  split
  · exact within_keeps hs (keepsTables_beginCycle s c _)
  · exact capacitySafe_next hs

theorem capacitySafe_frameBuild (c : Channel) (slot : SlotNo) : CapacitySafe (execFrameBuild c slot s) := by
  unfold execFrameBuild
  dsimp only
  split
  · split
    · exact within_keeps hs ((keepsTables_setVehicle s _ _).trans (keepsTables_keepDirect _ c _))
    · exact within_keeps hs (keepsTables_keepDirect s c _)
  · exact capacitySafe_next hs

theorem capacitySafe_radioFrameReceive (c : Channel) (bytes : List Byte) :
    CapacitySafe (execRadioFrameReceive c bytes s) := by
  unfold execRadioFrameReceive
  split
  · exact within_keeps hs (keepsTables_keepDirect s c _)
  · exact capacitySafe_next hs

theorem within_endSlot (c : Channel) : (s.endSlot c).withinCapacity := (keepsTables_keepDirect s c _).capacity hs

theorem capacitySafe_responseWindowEnd (c : Channel) : CapacitySafe (execResponseWindowEnd c s) := by
  unfold execResponseWindowEnd
  split
  · exact capacitySafe_settle (fits_slotOutcome (within_endSlot hs c) _ _)
  · exact capacitySafe_next hs

theorem capacitySafe_housekeepingWindowEnd (c : Channel) : CapacitySafe (execHousekeepingWindowEnd c s) := by
  have hend := within_endSlot hs c
  unfold execHousekeepingWindowEnd
  split
  · split
    · exact capacitySafe_settle (fits_state ((keepsTables_pollReport _ c _ _).capacity hend) _)
    · exact capacitySafe_next hend
  · split
    · exact capacitySafe_settle (fits_answerInFlight hend _ _)
    · exact capacitySafe_next hend
  · exact capacitySafe_next hs

theorem capacitySafe_sendLimitExpiry (c : Channel) : CapacitySafe (execSendLimitExpiry c s) := by
  unfold execSendLimitExpiry
  dsimp only
  split
  · refine capacitySafe_settle (fits_answerInFlight (State.KeepsTables.capacity (keepsTables_setChannel fun h => ?_) hs) _ _)
    exact ⟨by simpa using h.1, by simpa using h.2⟩
  · exact capacitySafe_next hs

theorem capacitySafe_silenceExpiry (b : BindingId) : CapacitySafe (execSilenceExpiry b s) := by
  unfold execSilenceExpiry
  dsimp only
  split
  · exact capacitySafe_settle (fits_state (within_of_same hs) _)
  · exact capacitySafe_next hs

theorem capacitySafe_estopAssertionEdge : CapacitySafe (execEstopAssertionEdge s) := by
  unfold execEstopAssertionEdge
  split
  · exact capacitySafe_next hs
  · exact capacitySafe_settle (fits_state (within_of_same hs) _)

theorem capacitySafe_supplyMonitorAssertionEdge : CapacitySafe (execSupplyMonitorAssertionEdge s) := by
  unfold execSupplyMonitorAssertionEdge
  split
  · exact capacitySafe_next hs
  · exact capacitySafe_settle (fits_state (within_of_same hs) _)

theorem capacitySafe_atOnce {code : Byte} {run : List Byte → State → Done}
    (h : ∀ args s, State.KeepsTables s (run args s).state) : CapacitySafe (.next (atOnce code run s)) :=
  capacitySafe_next (within_atOnce hs h)

/-- Every command keeps the queues and lists within their capacities. -/
theorem capacitySafe_exec (i : Instr) : CapacitySafe (exec i s) := by
  cases i with
  | powerOnReset pins => exact capacitySafe_powerOnReset pins s
  | frameCheckFailure bytes => exact capacitySafe_frameCheckFailure hs bytes
  | drive header payload check => exact capacitySafe_drive hs header payload check
  | aux header payload check => exact capacitySafe_aux hs header payload check
  | mgmt header payload check => exact capacitySafe_mgmt hs header payload check
  | outputFrameSend => exact capacitySafe_outputFrameSend hs
  | unknownCommand => exact capacitySafe_unknownCommand hs
  | nop => exact capacitySafe_atOnce hs keepsTables_runNop
  | status => exact capacitySafe_atOnce hs keepsTables_runStatus
  | read => exact capacitySafe_atOnce hs keepsTables_runRead
  | vehicleWrite => exact capacitySafe_next (within_writeStep hs keepsTables_judgeVehicle _ _)
  | bindingWrite => exact capacitySafe_next (within_writeStep hs keepsTables_judgeBinding _ _)
  | zoneWrite => exact capacitySafe_next (within_writeStep hs keepsTables_judgeZone _ _)
  | limitsWrite => exact capacitySafe_next (within_writeStep hs keepsTables_judgeLimits _ _)
  | convoyForm => exact capacitySafe_atOnce hs keepsTables_runConvoyForm
  | convoyAdd => exact capacitySafe_atOnce hs keepsTables_runConvoyAdd
  | convoyRemove => exact capacitySafe_atOnce hs keepsTables_runConvoyRemove
  | convoyHold => exact capacitySafe_atOnce hs keepsTables_runConvoyHold
  | convoyResume => exact capacitySafe_atOnce hs keepsTables_runConvoyResume
  | convoyDisband => exact capacitySafe_atOnce hs keepsTables_runConvoyDisband
  | zoneRelease => exact capacitySafe_atOnce hs keepsTables_runZoneRelease
  | coupleConfirm =>
    exact capacitySafe_atOnce hs (keepsTables_runDecision fun _ w s => keepsTables_setVehicle s w _)
  | coupleReject =>
    exact capacitySafe_atOnce hs (keepsTables_runDecision fun _ w s => keepsTables_setVehicle s w _)
  | directSend => exact capacitySafe_directSend hs
  | channelRestart => exact capacitySafe_channelRestart hs
  | faultRead => exact capacitySafe_atOnce hs keepsTables_runFaultRead
  | faultClear => exact capacitySafe_atOnce hs keepsTables_runFaultClear
  | stopAll => exact capacitySafe_atOnce hs keepsTables_runStopAll
  | restart => exact capacitySafe_restart hs
  | lockAchieved c => exact within_keeps hs (keepsTables_lockReport s c)
  | lockLimitExpiry c => exact capacitySafe_lockLimitExpiry hs c
  | loopbackWindowEnd c returned => exact capacitySafe_loopbackWindowEnd hs c returned
  | lockLost c returned => exact capacitySafe_settle (fits_lockLostReport hs c returned)
  | relock c => exact within_keeps hs (keepsTables_lockReport s c)
  | relockLimitExpiry c => exact capacitySafe_relockLimitExpiry hs c
  | cycleStart c => exact capacitySafe_cycleStart hs c
  | frameBuild c slot => exact capacitySafe_frameBuild hs c slot
  | radioFrameReceive c bytes => exact capacitySafe_radioFrameReceive hs c bytes
  | responseWindowEnd c => exact capacitySafe_responseWindowEnd hs c
  | housekeepingWindowEnd c => exact capacitySafe_housekeepingWindowEnd hs c
  | sendLimitExpiry c => exact capacitySafe_sendLimitExpiry hs c
  | silenceExpiry b => exact capacitySafe_silenceExpiry hs b
  | estopAssertionEdge => exact capacitySafe_estopAssertionEdge hs
  | estopRelease => exact within_keeps hs (keepsTables_of_same rfl)
  | supplyMonitorAssertionEdge => exact capacitySafe_supplyMonitorAssertionEdge hs
  | supplyMonitorRelease => exact within_keeps hs (keepsTables_of_same rfl)
  | timeCounterTick => exact within_keeps hs (keepsTables_of_same rfl)

end Commands

/-- Settles O53: each command keeps the capacities, from what its operations do to the tables and to the two queues. -/
theorem queuesStayWithinCapacity : Obligations.QueuesStayWithinCapacity := by
  intro s t hs h
  unfold step at h
  split at h
  · exact Host.Outcome.next.inj h ▸ hs
  · rename_i c rest _
    exact capacitySafe_exec (s := { s with pending := rest }) (within_of_same hs) c t h

end Sys2Proof.Machine

/-! SUPPORT. The controller's coupling decisions and DIRECT_SEND (R40, R148). -/

namespace Sys2Proof.Machine

/-! ### COUPLE_CONFIRM and COUPLE_REJECT (R148) -/

theorem vehicleOf_none {b : Byte} (h : 64 ≤ b.toNat) : vehicleOf b = none := by simp [vehicleOf, h]

theorem vehicleOf_val {b : Byte} {v : VehicleId} (h : v.val = b.toNat) : vehicleOf b = some v := by
  have hlt : b.toNat < 64 := h ▸ v.isLt
  rw [vehicleOf, dif_pos hlt]
  simp [← h]

/-- The trailer behind x as TENTATIVE (check 2 of R148). -/
theorem tentativeBehind_some {s : State} {x w : VehicleId} (hb : s.behind x = some w)
    (ha : (s.vehicle w).attachedBehind = some (x, .tentative)) : s.tentativeBehind x = some w := by
  simp [State.tentativeBehind, State.isTentative, hb, ha]

theorem tentativeBehind_none {s : State} {x : VehicleId}
    (h : ∀ w, s.behind x = some w → (s.vehicle w).attachedBehind ≠ some (x, .tentative)) : s.tentativeBehind x = none := by
  unfold State.tentativeBehind
  split
  · rename_i w hw
    refine if_neg fun ht => ?_
    obtain ⟨⟨f, k⟩, ha, hf⟩ := Option.map_eq_some_iff.mp (behind_attached hw)
    obtain rfl : f = x := hf
    refine h w hw (ha.trans ?_)
    cases k with
    | tentative => rfl
    | confirmed => simp [State.isTentative, ha] at ht
  · rfl

/-- A decision that is taken: its effect, and the start that is judged after it (R143, R148). -/
theorem runDecision_taken {decide : VehicleId → VehicleId → State → State} {s : State} {b : Byte} {x w : VehicleId}
    (hx : vehicleOf b = some x) (hw : s.tentativeBehind x = some w) :
    runDecision decide [b] s =
      { state := (decide x w s).judgeStart.1, answer := { status := .ok }, latches := (decide x w s).judgeStart.2 } := by
  simp only [runDecision, hx, hw]

/-- A decision at the head, whole, by what it leaves of the trailer's attachment. -/
theorem decision_settles {i : Instr} {decide : VehicleId → VehicleId → State → State}
    {attach : VehicleId → Option (VehicleId × AttachState)} {source code tag b : Byte} {rest : List MgmtEntry} {s : State}
    (hexec : exec i s = .next (atOnce code (runDecision decide) s))
    (hdecide : ∀ x w, decide x w s = s.setVehicle w { s.vehicle w with attachedBehind := attach x })
    (h : s.hasHead source code tag [b] rest) :
    (64 ≤ b.toNat → exec i s = .next (s.answered source rest [code, tag, 2, 7])) ∧
    ∀ x : VehicleId, x.val = b.toNat →
      (∀ w, s.behind x = some w → (s.vehicle w).attachedBehind = some (x, .tentative) →
        let u := s.setVehicle w { s.vehicle w with attachedBehind := attach x }
        (Leads (exec i s) fun t =>
          ∃ j ls, u.startJudged j ls ∧ j.settledWith t source rest [code, tag, 0, 0] [ls]) ∧
        (s.coupler.queue = [] → exec i s = .next (u.answered source rest [code, tag, 0, 0]))) ∧
      ((∀ w, s.behind x = some w → (s.vehicle w).attachedBehind ≠ some (x, .tentative)) →
        exec i s = .next (s.answered source rest [code, tag, 2, 8])) := by
  rw [hexec]
  refine ⟨fun hb => next_refused h _ .badValue ?_, fun x hx => ⟨fun w hw ha => ?_, fun hn => ?_⟩⟩
  · simp [runDecision, vehicleOf_none hb]
  · have hrun := runDecision_taken (decide := decide) (vehicleOf_val hx) (tentativeBehind_some hw ha)
    rw [hdecide] at hrun
    generalize hu : s.setVehicle w _ = u at hrun ⊢
    have hmgmt : u.mgmt = s.mgmt := by rw [← hu]; rfl
    have hqueue : u.coupler.queue = s.coupler.queue := by rw [← hu]; rfl
    refine ⟨⟨_, rfl, u.judgeStart.1, u.judgeStart.2, judgeStart_judged u, ?_⟩, fun hq => ?_⟩
    · rw [atOnce_some _ _ _ _ _ (hasHead_ready h), hrun]
      exact finish_settledWith { state := u.judgeStart.1, answer := { status := .ok }, latches := u.judgeStart.2 } s h
        ((keepsTables_judgeStart u).mgmt.trans hmgmt)
    · rw [judgeStart_empty u (hqueue.trans hq)] at hrun
      exact next_ok (data := []) h _ hrun hmgmt
  · refine next_refused h _ .wrongState ?_
    simp [runDecision, vehicleOf_val hx, tentativeBehind_none hn]

/-- Settles O26: the two decisions differ only in what they leave of the attachment. -/
theorem couplingDecisionSettlesAttachment : Obligations.CouplingDecisionSettlesAttachment := by
  intro p hp source tag x rest s h
  simp only [List.mem_cons, List.not_mem_nil, or_false] at hp
  obtain rfl | rfl := hp
  · exact decision_settles (decide := State.confirmBehind) rfl (fun _ _ => rfl) h
  · exact decision_settles (decide := fun _ w s => s.detach w) rfl (fun _ _ => rfl) h

/-! ### DIRECT_SEND (R40) -/

theorem directArgsOf_short {args : List Byte} (h : args.length < 4) : directArgsOf args = none := by
  unfold directArgsOf
  split
  · simp at h
    omega
  · rfl

/-- The form of DIRECT_SEND (R167, R179). -/
theorem directArgsOf_eq (ch address flags n : Byte) (payload : List Byte) :
    directArgsOf (ch :: address :: flags :: n :: payload) =
      if payload.length = n.toNat ∧ 1 ≤ n.toNat ∧ n.toNat ≤ 8 then
        some ⟨ch, address, decide (flags.toNat % 2 = 1), payload⟩
      else none := by
  have hbit : flags.getLsbD 0 = decide (flags.toNat % 2 = 1) := by
    rw [BitVec.getLsbD, Nat.testBit_zero]
  rw [directArgsOf, hbit]

/-- The checks of DIRECT_SEND in their order (R40). -/
theorem directRefusal_eq (s : State) (c : Channel) {a : DirectArgs} (hc : a.channel = channelCode c) :
    s.directRefusal a =
      if a.address = 0 ∨ a.address = 255 then .error .badValue
      else if (s.channel c).state ≠ .serving then .error .notReady
      else if 2 ≤ (s.channel c).direct.length then .error .full
      else .ok c := by
  simp only [State.directRefusal, hc, channelOf_code]

theorem directRefusal_bad (s : State) {a : DirectArgs} (h : 4 ≤ a.channel.toNat ∨ a.address = 0 ∨ a.address = 255) :
    s.directRefusal a = .error .badValue := by
  cases hc : channelOf a.channel with
  | none => simp only [State.directRefusal, hc]
  | some c =>
    have hlt : ¬4 ≤ a.channel.toNat := fun hle => by simp [(channelOf_none _).mpr hle] at hc
    rw [directRefusal_eq s c ((channelOf_some _ _).mp hc), if_pos (h.resolve_left hlt)]

section DirectSend

variable {s : State} {source tag : Byte} {args : List Byte} {rest : List MgmtEntry}

theorem exec_directSend_malformed (h : s.hasHead source 32 tag args rest) (ha : directArgsOf args = none) :
    exec .directSend s = .next (s.answered source rest [32, tag, 5, 0]) := by
  show execDirectSend s = _
  unfold execDirectSend
  rw [show codeDirectSend = (32 : Byte) from rfl, hasHead_ready h]
  simp only [ha]
  rw [finish_settle _ _ rfl rfl]
  exact congrArg _ (pop_answered s s h rfl _)

theorem exec_directSend_refused (h : s.hasHead source 32 tag args rest) {a : DirectArgs} {r : Reason}
    (ha : directArgsOf args = some a) (hr : s.directRefusal a = .error r) :
    exec .directSend s = .next (s.answered source rest [32, tag, 2, r.code]) := by
  show execDirectSend s = _
  unfold execDirectSend
  rw [show codeDirectSend = (32 : Byte) from rfl, hasHead_ready h]
  simp only [ha, hr]
  rw [finish_settle _ _ rfl rfl]
  exact congrArg _ (pop_answered s s h rfl _)

theorem exec_directSend_placed (h : s.hasHead source 32 tag args rest) {a : DirectArgs} {c : Channel}
    (ha : directArgsOf args = some a) (hr : s.directRefusal a = .ok c) :
    exec .directSend s = .next (s.placeDirect c a).headGoesInFlight := by
  show execDirectSend s = _
  unfold execDirectSend
  rw [show codeDirectSend = (32 : Byte) from rfl, hasHead_ready h]
  simp only [ha, hr]

end DirectSend

/-- Settles O27: the form, then the checks of R40 in their order, then the entry. -/
theorem directSendQueuesOwnedFrame : Obligations.DirectSendQueuesOwnedFrame := by
  refine ⟨fun source tag args rest s h hl => exec_directSend_malformed h (directArgsOf_short hl),
    fun source tag ch address flags n payload rest s h => ⟨fun hbad => ?_, fun hn h1 h8 => ?_⟩⟩
  · refine exec_directSend_malformed h ?_
    rw [directArgsOf_eq, if_neg]
    omega
  · have hargs := directArgsOf_eq ch address flags n payload
    rw [if_pos ⟨hn, h1, h8⟩] at hargs
    refine ⟨fun hbad => exec_directSend_refused h hargs (directRefusal_bad s hbad), fun c hc ha hb => ?_⟩
    have hchecks := directRefusal_eq s c (a := ⟨ch, address, decide (flags.toNat % 2 = 1), payload⟩) hc
    rw [if_neg (not_or.mpr ⟨ha, hb⟩)] at hchecks
    by_cases hserving : (s.channel c).state ≠ .serving
    · rw [if_pos hserving] at hchecks ⊢
      exact exec_directSend_refused h hargs hchecks
    · rw [if_neg hserving] at hchecks ⊢
      by_cases hfull : 2 ≤ (s.channel c).direct.length
      · rw [if_pos hfull] at hchecks ⊢
        exact exec_directSend_refused h hargs hchecks
      · rw [if_neg hfull] at hchecks ⊢
        rw [exec_directSend_placed h hargs hchecks]
        rfl

end Sys2Proof.Machine

/-! SUPPORT. The slots of a refresh cycle: frame builds, received frames, and the end of slot 0's window (R32 to R42). -/

namespace Sys2Proof.Machine

/-! ### Frame builds (R32, R33) -/

theorem exec_frameBuild_idle {c : Channel} (slot : SlotNo) {s : State} (h : (s.channel c).state ≠ .serving) :
    exec (.frameBuild c slot) s = .next s := by
  show execFrameBuild c slot s = _
  simp [execFrameBuild, h]

section FrameBuild

variable {c : Channel} {slot : SlotNo} {s : State}

/-- A later slot of a serving channel is sent to its owner (R32, R33). -/
theorem exec_frameBuild_owned (hs : (s.channel c).state = .serving) (hf : (s.channel c).flight = none)
    (hlt : (s.channel c).slot < slot) {v : VehicleId} (ho : s.slotOwner c slot = some v) :
    exec (.frameBuild c slot) s = .next (s.buildFrame c slot v) := by
  show execFrameBuild c slot s = _
  unfold execFrameBuild
  dsimp only
  rw [if_pos (by simp [hs, hf, hlt]), ho]

/-- A later slot without an owner is idle (R32). -/
theorem exec_frameBuild_unowned (hs : (s.channel c).state = .serving) (hf : (s.channel c).flight = none)
    (hlt : (s.channel c).slot < slot) (ho : s.slotOwner c slot = none) :
    exec (.frameBuild c slot) s = .next (s.setChannel c { s.channel c with slot := slot }) := by
  show execFrameBuild c slot s = _
  unfold execFrameBuild
  dsimp only
  rw [if_pos (by simp [hs, hf, hlt]), ho]

end FrameBuild

/-- Settles O33, by the owner of the slot. -/
theorem frameBuildSendsDriveFrame : Obligations.FrameBuildSendsDriveFrame := by
  refine ⟨fun c slot s h => exec_frameBuild_idle slot h, fun c slot s hs hf hlt => ⟨fun ho => ?_, fun v ho => ?_⟩,
    fun x => rfl, twoBytes_eq⟩
  · exact exec_frameBuild_unowned hs hf hlt ho
  · rw [exec_frameBuild_owned hs hf hlt ho]
    rfl

/-! ### Received frames (R34, R39, R41) -/

theorem kindCode_eq (k : Kind) : k.code = if k = .tractor then 0 else 1 := by cases k <;> rfl

/-- The bits of the coupler byte that a kind reports, and the battery where bit 3 says that one is reported (R181). -/
theorem ackTelemetry_eq (kind : Kind) (current ahead : Option Segment) (coupler battery : Byte) :
    ackTelemetry kind current ahead coupler battery =
      { current := current, ahead := ahead
        battery := if coupler.toNat / 8 % 2 = 1 then some battery else none
        fifthWheel := kind = .tractor ∧ coupler.toNat % 2 = 1
        kingpin := kind = .trailer ∧ coupler.toNat / 2 % 2 = 1
        rearHitch := kind = .trailer ∧ coupler.toNat / 4 % 2 = 1 } := by
  have hbit (k : Nat) : coupler.getLsbD k = decide (coupler.toNat / 2 ^ k % 2 = 1) := by
    rw [BitVec.getLsbD, Nat.testBit_eq_decide_div_mod_eq]
  simp only [ackTelemetry, hbit]
  simp

/-- A drive slot's window without an ack keeps the first valid one (R34). -/
theorem receive_drive (v : VehicleId) (address : Byte) (kind : Kind) (bytes : List Byte) :
    (∀ current ahead coupler battery,
      RadioFrame.parse bytes = some (.ack address (if kind = .tractor then 0 else 1) current ahead coupler battery) →
      (SlotFlight.drive v address kind none).receive bytes =
        .drive v address kind (some (ackTelemetry kind current ahead coupler battery))) ∧
    ((∀ current ahead coupler battery,
      RadioFrame.parse bytes ≠ some (.ack address (if kind = .tractor then 0 else 1) current ahead coupler battery)) →
      (SlotFlight.drive v address kind none).receive bytes = .drive v address kind none) := by
  rw [← kindCode_eq]
  refine ⟨fun current ahead coupler battery hp => ?_, fun hp => ?_⟩
  · simp [SlotFlight.receive, hp]
  · unfold SlotFlight.receive
    dsimp only
    split
    · rename_i hparse
      refine if_neg ?_
      rintro ⟨rfl, rfl⟩
      exact hp _ _ _ _ hparse
    · rfl

/-- A direct frame's window without a response keeps the first of its address (R41). -/
theorem receive_direct (e : DirectEntry) (bytes : List Byte) :
    (∀ payload, RadioFrame.parse bytes = some (.directResponse e.address payload) →
      (SlotFlight.direct e none).receive bytes = .direct e (some payload)) ∧
    ((∀ payload, RadioFrame.parse bytes ≠ some (.directResponse e.address payload)) →
      (SlotFlight.direct e none).receive bytes = .direct e none) := by
  refine ⟨fun payload hp => ?_, fun hp => ?_⟩
  · simp [SlotFlight.receive, hp]
  · unfold SlotFlight.receive
    dsimp only
    split
    · rename_i hparse
      refine if_neg ?_
      rintro rfl
      exact hp _ hparse
    · rfl

/-- An address that a radio frame may carry is neither 0 nor 255 (R39). -/
theorem address_iff (b : Byte) : (b ≠ 0 ∧ b ≠ 255) ↔ (1 ≤ b.toNat ∧ b.toNat ≤ 254) := by
  rw [Ne, Ne, ← BitVec.toNat_inj, ← BitVec.toNat_inj]
  have := b.isLt
  simp
  omega

/-- A poll's window keeps at most two valid replies, and any other frame garbles it (R39). -/
theorem receive_poll (p : PollSubject) (replies : List Byte) (garbled counted : Bool) (bytes : List Byte) :
    (SlotFlight.poll p replies garbled counted).receive bytes =
      match RadioFrame.parse bytes with
      | some (.identReply ch address own) =>
        if ch = channelCode p.channel ∧ address = p.address ∧ 1 ≤ own.toNat ∧ own.toNat ≤ 254 then
          .poll p (if replies.length < 2 then replies ++ [own] else replies) garbled counted
        else .poll p replies true counted
      | _ => .poll p replies true counted := by
  simp only [SlotFlight.receive, address_iff] <;> rfl

/-- A frame received in a window changes the slot in flight alone. -/
theorem exec_radioFrameReceive {c : Channel} {s : State} {f : SlotFlight} (bytes : List Byte)
    (h : (s.channel c).flight = some f) :
    exec (.radioFrameReceive c bytes) s =
      .next (s.setChannel c { s.channel c with flight := some (f.receive bytes) }) := by
  show execRadioFrameReceive c bytes s = _
  simp only [execRadioFrameReceive, h]

/-- A frame that leaves the slot in flight as it is changes nothing. -/
theorem exec_radioFrameReceive_discarded {c : Channel} {s : State} {f : SlotFlight} {bytes : List Byte}
    (h : (s.channel c).flight = some f) (hf : f.receive bytes = f) :
    exec (.radioFrameReceive c bytes) s = .next s := by
  rw [exec_radioFrameReceive bytes h, hf, ← h, setChannel_self]

/-- Settles O35, by the slot in flight. -/
theorem receivedFrameIsJudged : Obligations.ReceivedFrameIsJudged := by
  intro c bytes s
  refine ⟨fun h => ?_, fun v address kind h => ⟨fun current ahead coupler battery hp => ?_, fun hp => ?_⟩,
    fun v address kind a h => exec_radioFrameReceive_discarded h rfl, fun p replies garbled counted h => ?_,
    fun e h => ⟨fun payload hp => ?_, fun hp => ?_⟩, fun e payload h => exec_radioFrameReceive_discarded h rfl⟩
  · show execRadioFrameReceive c bytes s = _
    simp only [execRadioFrameReceive, h]
  · rw [exec_radioFrameReceive bytes h, (receive_drive v address kind bytes).1 _ _ _ _ hp, ackTelemetry_eq]
  · exact exec_radioFrameReceive_discarded h ((receive_drive v address kind bytes).2 hp)
  · rw [exec_radioFrameReceive bytes h, receive_poll] <;> rfl
  · rw [exec_radioFrameReceive bytes h, (receive_direct e bytes).1 payload hp]
  · exact exec_radioFrameReceive_discarded h ((receive_direct e bytes).2 hp)

/-! ### The end of slot 0's window, and the send limit (R39 to R42) -/

/-- A command in flight that is answered leaves with its reply, and nothing else changes (R164, R166). -/
theorem answerInFlight_answered {s : State} {source code tag : Byte} {args : List Byte} {rest : List MgmtEntry}
    (hf : s.mgmt.inFlight = true) (he : s.mgmt.entries = ⟨source, code :: tag :: args, false⟩ :: rest) (a : Answer) :
    (s.answerInFlight code a).settle =
      s.answered source rest ([code, tag, a.status.code, a.reason.code] ++ a.data) := by
  rw [answerInFlight_settle s code a _ rest he (by simp [inFlightCode_head code he, hf])]
  rfl

theorem exec_housekeepingWindowEnd_owned {c : Channel} {e : DirectEntry} {response : Option (List Byte)} {s : State}
    (h : (s.channel c).flight = some (.direct e response)) (ho : e.owned = true) :
    exec (.housekeepingWindowEnd c) s =
      .next ((s.endSlot c).answerInFlight codeDirectSend (directAnswer e response)).settle := by
  show execHousekeepingWindowEnd c s = _
  simp only [execHousekeepingWindowEnd, h, ho, if_true]

/-- The payload that a direct frame's command is answered with (R41). -/
theorem directAnswer_payload (e : DirectEntry) (response : Option (List Byte)) (tag : Byte) :
    [codeDirectSend, tag, (directAnswer e response).status.code, (directAnswer e response).reason.code] ++
        (directAnswer e response).data =
      if e.expectReply then
        match response with
        | some p => [32, tag, 0, 0, BitVec.ofNat 8 p.length] ++ p
        | none => [32, tag, 6, 0]
      else [32, tag, 0, 0, 0] := by
  unfold directAnswer
  cases e.expectReply <;> cases response <;> rfl

/-- A limit whose time the counter has reached has run out, and one whose time lies ahead has not (R42). -/
theorem expired_some (s : State) (t : Time) : s.expired (some t) = decide ((s.fault.time - t).toNat < 32768) := rfl

theorem exec_sendLimitExpiry {c : Channel} {s : State} (hx : s.expired (s.channel c).sendLimit = true)
    (ho : ∃ e ∈ (s.channel c).direct, e.owned = true) :
    exec (.sendLimitExpiry c) s =
      .next ((s.setChannel c
        { s.channel c with
          direct := (s.channel c).direct.map (fun e => { e with owned := false }), sendLimit := none }).answerInFlight
            codeDirectSend { status := .timeout }).settle := by
  show execSendLimitExpiry c s = _
  unfold execSendLimitExpiry
  dsimp only
  rw [hx, List.any_eq_true.mpr ho]
  rfl

/-- Settles O41, by what slot 0 holds, and by whether the send limit has run out. -/
theorem housekeepingWindowAnswersOrReports : Obligations.HousekeepingWindowAnswersOrReports := by
  refine ⟨fun c s => ⟨fun e response source tag args rest hf ho hfly he => ?_, fun e response hf ho => ?_,
    fun p replies garbled hf => ?_, fun p replies garbled i d hf hi hc hd hne => ?_⟩,
    fun c limit s hl => ⟨fun hx ho hfly source tag args rest he => ?_, fun hx => ?_⟩⟩
  · have hanswer := answerInFlight_answered (s := s.endSlot c) (code := codeDirectSend) hfly he (directAnswer e response)
    rw [exec_housekeepingWindowEnd_owned hf ho, hanswer, directAnswer_payload]
    rfl
  · show execHousekeepingWindowEnd c s = _
    simp only [execHousekeepingWindowEnd, hf, ho, Bool.false_eq_true, if_false]
    rfl
  · show execHousekeepingWindowEnd c s = _
    simp only [execHousekeepingWindowEnd, hf, Bool.false_eq_true, if_false]
    rfl
  · rw [exec_housekeepingWindowEnd_poll hf]
    obtain ⟨hstate, hlatches⟩ := ((pollReport_reported (s.endSlot c) c replies garbled).2 i hi hc).1 ⟨d, hd, hne⟩
    rw [hstate, hlatches]
    rfl
  · rw [exec_sendLimitExpiry (by rw [hl, expired_some, decide_eq_true hx]) ho]
    exact congrArg _
      (answerInFlight_answered (s := s.setChannel c _) (code := codeDirectSend) hfly he { status := .timeout })
  · show execSendLimitExpiry c s = _
    unfold execSendLimitExpiry
    dsimp only
    rw [hl, expired_some, decide_eq_false (Nat.not_lt.mpr hx)]
    rfl

end Sys2Proof.Machine

/-! SUPPORT. The radio frames as bytes (R181). -/

namespace Sys2Proof.Machine

/-! ### The two-byte fields -/

/-- Two bytes are read back from the value that they spell (R178). -/
theorem twoBytes_halfOf (h l : Byte) : twoBytes (halfOf h l) = [h, l] := by
  have hh := h.isLt
  have hl := l.isLt
  have hhigh : BitVec.ofNat 8 ((h.toNat * 256 + l.toNat) / 256) = h := by
    apply BitVec.eq_of_toNat_eq
    rw [BitVec.toNat_ofNat]
    omega
  have hlow : BitVec.ofNat 8 (h.toNat * 256 + l.toNat) = l := by
    apply BitVec.eq_of_toNat_eq
    rw [BitVec.toNat_ofNat]
    omega
  rw [twoBytes_eq, halfOf_toNat, hhigh, hlow]

theorem segmentBytes_eq (g : Option Segment) :
    segmentBytes g =
      match g with
      | some g => [BitVec.ofNat 8 (g.val / 256), BitVec.ofNat 8 g.val]
      | none => [255, 255] := by
  cases g with
  | none => rfl
  | some g =>
    have hg := g.isLt
    show twoBytes (BitVec.ofNat 16 g.val) = _
    rw [twoBytes_eq, BitVec.toNat_ofNat, Nat.mod_eq_of_lt (by omega)]

/-- A segment value stands in its own bytes alone (R34). -/
theorem segmentOf_iff (h l : Byte) (g : Option Segment) : segmentOf h l = some g ↔ segmentBytes g = [h, l] := by
  constructor
  · unfold segmentOf
    dsimp only
    split
    · rintro ⟨⟩
      show twoBytes (BitVec.ofNat 16 (halfOf h l).toNat) = _
      rw [BitVec.ofNat_toNat, BitVec.setWidth_eq, twoBytes_halfOf]
    · split
      · rename_i habsent
        rintro ⟨⟩
        rw [← twoBytes_halfOf, BitVec.eq_of_toNat_eq (y := 65535#16) habsent]
        rfl
      · rintro ⟨⟩
  · intro hg
    obtain ⟨h', l', hbytes, hof⟩ := segmentOf_bytes g
    obtain ⟨rfl, rfl⟩ : h' = h ∧ l' = l := by simpa using hbytes.symm.trans hg
    exact hof

/-! ### Frames read back -/

/-- The lengths that a direct frame's payload and a response's payload may have (R181). -/
def RadioFrame.payloadFits : RadioFrame → Prop
  | .direct _ p => 1 ≤ p.length ∧ p.length ≤ 8
  | .directResponse _ p => p.length ≤ 8
  | _ => True

theorem RadioFrame.payloadFits_iff (f : RadioFrame) :
    f.payloadFits ↔
      (∀ a p, f = .direct a p → 1 ≤ p.length ∧ p.length ≤ 8) ∧ (∀ a p, f = .directResponse a p → p.length ≤ 8) := by
  cases f <;> simp [RadioFrame.payloadFits]

/-- A frame's bytes before its check are read as that frame (R181). -/
theorem RadioFrame.ofBody_body {f : RadioFrame} (hf : f.payloadFits) : RadioFrame.ofBody f.body = some f := by
  cases f with
  | drive address pulse turn aux =>
    show some (RadioFrame.drive address (halfOf _ _) turn (halfOf _ _)) = _
    rw [halfOf_twoBytes, halfOf_twoBytes]
  | ack address marker current ahead coupler battery =>
    obtain ⟨ch, cl, hcurrent, hc⟩ := segmentOf_bytes current
    obtain ⟨ah, al, hahead, ha⟩ := segmentOf_bytes ahead
    rw [RadioFrame.body, hcurrent, hahead]
    show (match segmentOf ch cl, segmentOf ah al with
      | some c, some h => some (RadioFrame.ack address marker c h coupler battery)
      | _, _ => none) = _
    rw [hc, ha]
  | identPoll channel address => rfl
  | identReply channel address own => rfl
  | direct address p =>
    obtain ⟨hlow, hhigh⟩ : 1 ≤ p.length ∧ p.length ≤ 8 := hf
    show (if p.length = (byteOf p.length).toNat ∧ 1 ≤ (byteOf p.length).toNat ∧ (byteOf p.length).toNat ≤ 8 then _ else _) = _
    rw [byteOf_toNat _ (by omega), if_pos ⟨rfl, hlow, hhigh⟩]
    rfl
  | directResponse address p =>
    have hhigh : p.length ≤ 8 := hf
    show (if p.length = (byteOf p.length).toNat ∧ (byteOf p.length).toNat ≤ 8 then _ else _) = _
    rw [byteOf_toNat _ (by omega), if_pos ⟨rfl, hhigh⟩]
    rfl

theorem byteOf_of_length {n : Byte} {p : List Byte} (h : p.length = n.toNat) : byteOf p.length = n := by
  rw [h, byteOf, BitVec.ofNat_toNat, BitVec.setWidth_eq]

/-- Bytes read as a frame are that frame's own (R181). -/
theorem RadioFrame.body_of_ofBody {bytes : List Byte} {f : RadioFrame} (h : RadioFrame.ofBody bytes = some f) :
    bytes = f.body ∧ f.payloadFits := by
  cases bytes with
  | nil => cases h
  | cons t rest =>
    unfold RadioFrame.ofBody at h
    dsimp only at h
    split_ifs at h with hdrive hack hpoll hreply hdirect hresponse
    · subst t
      split at h
      · obtain rfl := Option.some.inj h
        exact ⟨by simp [RadioFrame.body, twoBytes_halfOf], trivial⟩
      · cases h
    · subst t
      split at h
      · split at h
        · rename_i hcurrent hahead
          obtain rfl := Option.some.inj h
          exact ⟨by simp [RadioFrame.body, (segmentOf_iff _ _ _).mp hcurrent, (segmentOf_iff _ _ _).mp hahead], trivial⟩
        · cases h
      · cases h
    · subst t
      split at h
      · obtain rfl := Option.some.inj h
        exact ⟨rfl, trivial⟩
      · cases h
    · subst t
      split at h
      · obtain rfl := Option.some.inj h
        exact ⟨rfl, trivial⟩
      · cases h
    · subst t
      split at h
      · obtain ⟨⟨hlength, hlow, hhigh⟩, hframe⟩ := Option.ite_none_right_eq_some.mp h
        obtain rfl := Option.some.inj hframe
        exact ⟨by simp [RadioFrame.body, byteOf_of_length hlength],
          by simpa [RadioFrame.payloadFits, hlength] using ⟨hlow, hhigh⟩⟩
      · cases h
    · subst t
      split at h
      · obtain ⟨⟨hlength, hhigh⟩, hframe⟩ := Option.ite_none_right_eq_some.mp h
        obtain rfl := Option.some.inj hframe
        exact ⟨by simp [RadioFrame.body, byteOf_of_length hlength],
          by simpa [RadioFrame.payloadFits, hlength] using hhigh⟩
      · cases h

/-- The last byte of a frame is the check over the bytes before it (R181). -/
theorem RadioFrame.parse_some {bytes : List Byte} {f : RadioFrame} :
    RadioFrame.parse bytes = some f ↔
      ∃ body, bytes = body ++ [radioCheck body] ∧ RadioFrame.ofBody body = some f := by
  constructor
  · intro h
    obtain rfl | ⟨body, check, rfl⟩ := bytes.eq_nil_or_concat
    · cases h
    · simp only [RadioFrame.parse, List.concat_eq_append, List.getLast?_concat, List.dropLast_concat,
        Option.ite_none_right_eq_some] at h
      obtain ⟨rfl, hbody⟩ := h
      exact ⟨body, List.concat_eq_append, hbody⟩
  · rintro ⟨body, rfl, hbody⟩
    simp only [RadioFrame.parse, List.getLast?_concat, List.dropLast_concat, if_true, hbody]

theorem radioCheckBit_eq (check : Byte) (bit : Bool) :
    radioCheckBit check bit = if check.getLsbD 7 ≠ bit then (check <<< 1) ^^^ 7 else check <<< 1 := by
  rw [radioCheckBit, BitVec.msb_eq_getLsbD_last]

/-- Settles O52: a body is read as a frame exactly where it is the frame's own. -/
theorem radioFrameRoundTrip : Obligations.RadioFrameRoundTrip := by
  refine ⟨fun f hdirect hresponse => ?_, fun bytes f h => ?_, by decide, by decide, rfl, fun bytes b => ?_, fun f => ?_⟩
  · exact RadioFrame.parse_some.mpr ⟨f.body, rfl, RadioFrame.ofBody_body (f.payloadFits_iff.mpr ⟨hdirect, hresponse⟩)⟩
  · obtain ⟨body, rfl, hbody⟩ := RadioFrame.parse_some.mp h
    obtain ⟨rfl, hfits⟩ := RadioFrame.body_of_ofBody hbody
    exact ⟨rfl, f.payloadFits_iff.mp hfits⟩
  · rw [radioCheck, List.foldl_append]
    simp only [← radioCheckBit_eq]
    rfl
  · cases f with
    | drive address pulse turn aux => simp [RadioFrame.encode, RadioFrame.body, twoBytes_eq]
    | ack address marker current ahead coupler battery =>
      simp only [RadioFrame.encode, RadioFrame.body, segmentBytes_eq] <;> rfl
    | identPoll channel address => rfl
    | identReply channel address own => rfl
    | direct address payload => rfl
    | directResponse address payload => rfl

end Sys2Proof.Machine

/-! SUPPORT. Lock, self-test and failure of a channel (R23 to R28). -/

namespace Sys2Proof.Machine

/-! ### CHANNEL_RESTART in flight (R28, R166) -/

theorem codeOf_eq_restart (payload : List Byte) : codeOf payload = codeChannelRestart ↔ payload[0]? = some 33 := by
  cases payload with
  | nil => decide
  | cons b rest => simp [codeOf, codeChannelRestart]

theorem restarting_iff (s : State) (c : Channel) :
    s.restarting c = true ↔
      s.mgmt.inFlight = true ∧
        ∃ e ∈ s.mgmt.entries.head?, e.payload[0]? = some 33 ∧ e.payload[2]? = some (channelCode c) := by
  cases hentries : s.mgmt.entries with
  | nil => simp [State.restarting, hentries]
  | cons e rest => simp [State.restarting, State.inFlightCode, hentries, codeOf_eq_restart, and_assoc]

section Restart

variable {s : State} {c : Channel} {source tag : Byte} {rest : List MgmtEntry}

/-- The restart in flight is answered with its reply (R28). -/
theorem answerRestart_head (hf : s.mgmt.inFlight = true)
    (he : s.mgmt.entries = ⟨source, [33, tag, channelCode c], false⟩ :: rest) (status : ReplyStatus) :
    s.answerRestart c status = s.answerInFlight codeChannelRestart { status := status } :=
  if_pos ((restarting_iff s c).mpr ⟨hf, by simp [he]⟩)

theorem answerRestart_other (h : s.restarting c = false) (status : ReplyStatus) :
    s.answerRestart c status = { state := s } := by
  rw [State.answerRestart, h]
  rfl

/-- A channel FAILED with no restart in flight for it: the latches alone (R23, R25, R26). -/
theorem enterFailed_unanswered (h : s.restarting c = false) (ls : List Latch) :
    (s.enterFailed c ls).settle = ls.foldl State.latched s := by
  rw [State.enterFailed, answerRestart_other h, settle_latches]

/-- A channel FAILED with its restart in flight: the latches and the reply FAILED (7) (R28). -/
theorem enterFailed_answered (hf : s.mgmt.inFlight = true)
    (he : s.mgmt.entries = ⟨source, [33, tag, channelCode c], false⟩ :: rest) (ls : List Latch) :
    s.settledWith (s.enterFailed c ls).settle source rest [33, tag, 7, 0] [ls] := by
  have hcode : s.inFlightCode codeChannelRestart = true := by simp [inFlightCode_head _ he, hf, codeChannelRestart]
  have hanswer : s.answerRestart c .failed =
      { state := { s with mgmt := ⟨rest, false⟩ }
        reply := some (s.replyTo source [33, tag, channelCode c] { status := .failed }) } := by
    rw [answerRestart_head hf he, State.answerInFlight]
    simp only [he, hcode, if_true]
  refine settle_settledWith (s.enterFailed c ls) s source rest _ ?_ ?_
  · rw [State.enterFailed, hanswer]
  · rw [State.enterFailed, hanswer]
    rfl

/-- A channel SERVING with its restart in flight: the reply OK alone (R28). -/
theorem answerRestart_served (hf : s.mgmt.inFlight = true)
    (he : s.mgmt.entries = ⟨source, [33, tag, channelCode c], false⟩ :: rest) :
    (s.answerRestart c .ok).settle = s.answered source rest [33, tag, 0, 0] := by
  rw [answerRestart_head hf he]
  exact answerInFlight_answered (code := codeChannelRestart) hf he { status := .ok }

end Restart

/-! ### The report of lock and the limits (R23, R26) -/

/-- A cycle start of a channel that holds neither a poll nor a direct frame (R29, R37). -/
theorem beginCycle_idle {s : State} {c : Channel} (hd : (s.channel c).direct = []) (hp : (s.channel c).pendingPoll = none)
    (counter : Nat) :
    s.beginCycle c counter =
      (s.setChannel c { s.channel c with counter := counter, slot := 0, flight := none }).mapVehicles
        (fun _ x => x.cycleStart c) := by
  rw [State.beginCycle, startSlotZero_none (u := { s.channel c with counter := counter }) hp hd]

theorem lockReport_locking {s : State} {c : Channel} (h : (s.channel c).state = .locking) :
    s.lockReport c = s.enterTesting c := by
  simp only [State.lockReport, h]

theorem lockReport_relocking {s : State} {c : Channel} (h : (s.channel c).state = .relocking) :
    s.lockReport c = s.relock c := by
  simp only [State.lockReport, h]

theorem lockReport_other {s : State} {c : Channel}
    (h : (s.channel c).state = .testing ∨ (s.channel c).state = .serving ∨ (s.channel c).state = .failed) :
    s.lockReport c = s := by
  obtain h | h | h := h <;> simp only [State.lockReport, h]

theorem relock_idle {s : State} {c : Channel} (hd : (s.channel c).direct = []) (hp : (s.channel c).pendingPoll = none) :
    s.relock c =
      (s.setChannel c
        { s.channel c with
          state := .serving, limit := none, counter := ((s.channel c).counter + 1) % 4, slot := 0,
          flight := none }).mapVehicles (fun _ x => x.cycleStart c) := by
  rw [State.relock, beginCycle_idle (by rwa [channel_setChannel_same]) (by rwa [channel_setChannel_same]),
    channel_setChannel_same, setChannel_setChannel]

section Limits

variable {s : State} {c : Channel} {limit : Time}

theorem expired_limit (hl : (s.channel c).limit = some limit) :
    s.expired (s.channel c).limit = decide ((s.fault.time - limit).toNat < 32768) := by
  rw [hl, expired_some]

theorem exec_lockLimitExpiry_reached (hl : (s.channel c).limit = some limit)
    (ht : (s.fault.time - limit).toNat < 32768) (hs : (s.channel c).state = .locking) :
    exec (.lockLimitExpiry c) s =
      .next ((s.setChannel c { s.channel c with state := .failed, limit := none }).enterFailed c
        [⟨.channelUnlock, .channel c, none⟩]).settle := by
  show execLockLimitExpiry c s = _
  unfold execLockLimitExpiry
  dsimp only
  rw [if_pos (by rw [hs, expired_limit hl, decide_eq_true ht]; rfl)]

theorem exec_relockLimitExpiry_reached (hl : (s.channel c).limit = some limit)
    (ht : (s.fault.time - limit).toNat < 32768) (hs : (s.channel c).state = .relocking) :
    exec (.relockLimitExpiry c) s =
      .next ((s.setChannel c { s.channel c with state := .failed, limit := none }).enterFailed c []).settle := by
  show execRelockLimitExpiry c s = _
  unfold execRelockLimitExpiry
  dsimp only
  rw [if_pos (by rw [hs, expired_limit hl, decide_eq_true ht]; rfl)]

/-- A limit whose time lies ahead does not expire (assumption 5). -/
theorem exec_limitExpiry_ahead (hl : (s.channel c).limit = some limit) (ht : 32768 ≤ (s.fault.time - limit).toNat) :
    exec (.lockLimitExpiry c) s = .next s ∧ exec (.relockLimitExpiry c) s = .next s := by
  have hahead : s.expired (s.channel c).limit = false := by
    rw [expired_limit hl]
    exact decide_eq_false (Nat.not_lt.mpr ht)
  constructor
  · show execLockLimitExpiry c s = _
    simp [execLockLimitExpiry, hahead]
  · show execRelockLimitExpiry c s = _
    simp [execRelockLimitExpiry, hahead]

end Limits

/-- Settles O29: the report by the channel's state, and the limits by whether their time is reached. -/
theorem lockReportAndLimitExpiry : Obligations.LockReportAndLimitExpiry := by
  refine ⟨fun c s i hi => ?_, fun c limit s hl => ⟨fun ht => ⟨fun hs hr => ?_, fun source tag rest hs hf he => ?_,
    fun hs hr => ?_⟩, exec_limitExpiry_ahead hl⟩, fun c s => restarting_iff s c⟩
  · have hexec : exec i s = .next (s.lockReport c) := by
      simp only [List.mem_cons, List.not_mem_nil, or_false] at hi
      obtain rfl | rfl := hi <;> rfl
    rw [hexec]
    refine ⟨fun h => ?_, fun h hd hp => ?_, fun h => ?_⟩
    · rw [lockReport_locking h]
      rfl
    · rw [lockReport_relocking h, relock_idle hd hp]
    · rw [lockReport_other h]
  · rw [exec_lockLimitExpiry_reached hl ht hs, enterFailed_unanswered (by exact hr)]
    rfl
  · exact ⟨_, exec_lockLimitExpiry_reached hl ht hs, enterFailed_answered (s := s.setChannel c _) hf he _⟩
  · rw [exec_relockLimitExpiry_reached hl ht hs, enterFailed_unanswered (by exact hr)]
    rfl

/-! ### The self-test (R24, R25) -/

theorem loopbackFrame_get (k : Nat) {i : Nat} (hi : i < 8) :
    (loopbackFrame k)[i]? = some (BitVec.ofNat 8 (8 * (k - 1) + i)) := by
  simp [loopbackFrame, byteOf, hi]

theorem firstMismatch_none {sent returned : List Byte} (h : ∀ i < sent.length, returned[i]? = sent[i]?) (n : Nat) :
    firstMismatch n sent returned = none := by
  induction sent generalizing n returned with
  | nil => rfl
  | cons e es ih =>
    cases returned with
    | nil => simpa using h 0 (by simp)
    | cons r rs =>
      have hhead : r = e := by simpa using h 0 (by simp)
      rw [firstMismatch, if_pos hhead.symm]
      exact ih (fun i hi => by simpa using h (i + 1) (by simpa using hi)) (n + 1)

/-- The first byte that differs or is missing (R25). -/
theorem firstMismatch_some {sent returned : List Byte} {i : Nat} {e : Byte} (hi : sent[i]? = some e)
    (hbefore : ∀ j < i, returned[j]? = sent[j]?) (h : returned[i]? ≠ some e) (n : Nat) :
    firstMismatch n sent returned = some (n + i, e, returned[i]?) := by
  induction sent generalizing n i returned with
  | nil => simp at hi
  | cons e' es ih =>
    cases i with
    | zero =>
      obtain rfl : e' = e := by simpa using hi
      cases returned with
      | nil => rfl
      | cons r rs =>
        have hne : ¬e' = r := by simpa [eq_comm] using h
        rw [firstMismatch, if_neg hne]
        rfl
    | succ i =>
      cases returned with
      | nil => simpa using hbefore 0 (by omega)
      | cons r rs =>
        have hhead : r = e' := by simpa using hbefore 0 (by omega)
        rw [firstMismatch, if_pos hhead.symm,
          ih (by simpa using hi) (fun j hj => by simpa using hbefore (j + 1) (by omega)) (by simpa using h) (n + 1)]
        simp [Nat.add_comm, Nat.add_left_comm]

/-- The bytes of loopback frame k returned whole. -/
theorem firstMismatch_whole {k : Nat} {returned : List Byte}
    (h : ∀ i < 8, returned[i]? = some (BitVec.ofNat 8 (8 * (k - 1) + i))) :
    firstMismatch 0 (loopbackFrame k) returned = none :=
  firstMismatch_none (sent := loopbackFrame k) (fun i hi => (h i hi).trans (loopbackFrame_get k hi).symm) 0

/-- A test that fails, without CHANNEL_RESTART in flight for the channel and with it (R25, R28). -/
theorem failTest_ends (s : State) (c : Channel) (d : TestDetail) :
    let failed := s.setChannel c
      { s.channel c with state := .failed, result := .fail, detail := some d, testFrame := 0 }
    let e : Result := .next (s.failTest c d).settle
    (s.restarting c = false → e = .next (failed.latched ⟨.selftestFail, .channel c, none⟩)) ∧
      ∀ source tag rest, s.mgmt.inFlight = true → s.mgmt.entries = ⟨source, [33, tag, channelCode c], false⟩ :: rest →
        Leads e fun t => failed.settledWith t source rest [33, tag, 7, 0] [[⟨.selftestFail, .channel c, none⟩]] := by
  refine ⟨fun hr => ?_, fun source tag rest hf he => ⟨_, rfl, enterFailed_answered (s := s.setChannel c _) hf he _⟩⟩
  rw [State.failTest, enterFailed_unanswered (by exact hr)]
  rfl

/-- The test passes on a channel that holds neither a poll nor a direct frame (R25, R29). -/
theorem passTest_idle {s : State} {c : Channel} (hd : (s.channel c).direct = []) (hp : (s.channel c).pendingPoll = none) :
    s.passTest c =
      ((s.setChannel c
        { s.channel c with
          state := .serving, result := .pass, testFrame := 0, moduleCommand := .run, counter := 0, slot := 0,
          flight := none }).mapVehicles (fun _ x => x.cycleStart c)).answerRestart c .ok := by
  rw [State.passTest, beginCycle_idle (by rwa [channel_setChannel_same]) (by rwa [channel_setChannel_same]),
    channel_setChannel_same, setChannel_setChannel]

section LoopbackWindow

variable {s : State} {c : Channel} {returned : List Byte}

theorem exec_loopbackWindowEnd_whole (hs : (s.channel c).state = .testing)
    (h : firstMismatch 0 (loopbackFrame (s.channel c).testFrame) returned = none) :
    exec (.loopbackWindowEnd c returned) s =
      if 8 ≤ (s.channel c).testFrame then .next (s.passTest c).settle
      else
        .next (s.setChannel c
          { s.channel c with
            testFrame := (s.channel c).testFrame + 1, sent := loopbackFrame ((s.channel c).testFrame + 1) }) := by
  show execLoopbackWindowEnd c returned s = _
  unfold execLoopbackWindowEnd
  dsimp only
  rw [if_pos hs, h]

theorem exec_loopbackWindowEnd_mismatch (hs : (s.channel c).state = .testing) {i : Nat} {e : Byte} {received : Option Byte}
    (h : firstMismatch 0 (loopbackFrame (s.channel c).testFrame) returned = some (i, e, received)) :
    exec (.loopbackWindowEnd c returned) s =
      .next (s.failTest c ⟨(s.channel c).testFrame, i, e, received⟩).settle := by
  show execLoopbackWindowEnd c returned s = _
  unfold execLoopbackWindowEnd
  dsimp only
  rw [if_pos hs, h]

/-- Lock lost in the test, with fewer than eight bytes back or all eight correct (R25). -/
theorem lockLostInTest_eq {i : Nat}
    (h : (returned.length < 8 ∧ i = returned.length) ∨
      ((∀ j < 8, returned[j]? = some (BitVec.ofNat 8 (8 * ((s.channel c).testFrame - 1) + j))) ∧ i = 7)) :
    s.lockLostInTest c returned =
      s.failTest c
        ⟨(s.channel c).testFrame, i, BitVec.ofNat 8 (8 * ((s.channel c).testFrame - 1) + i), none⟩ := by
  have hsent {i : Nat} (hi : i < 8) : (loopbackFrame (s.channel c).testFrame).getD i 0 =
      BitVec.ofNat 8 (8 * ((s.channel c).testFrame - 1) + i) := by
    rw [List.getD_eq_getElem?_getD, loopbackFrame_get _ hi, Option.getD_some]
  unfold State.lockLostInTest
  dsimp only
  obtain ⟨hlt, rfl⟩ | ⟨hwhole, rfl⟩ := h
  · rw [if_pos hlt, hsent hlt]
  · have hlength : ¬returned.length < 8 := by
      intro hlt
      have hlast := hwhole 7 (by decide)
      rw [List.getElem?_eq_none (by omega)] at hlast
      cases hlast
    rw [if_neg hlength, firstMismatch_whole hwhole, Option.isNone_none, if_pos rfl, hsent (by decide)]

theorem exec_lockLost_testing (hs : (s.channel c).state = .testing) :
    exec (.lockLost c returned) s = .next (s.lockLostInTest c returned).settle := by
  show execLockLost c returned s = _
  simp only [execLockLost, State.lockLostReport, hs]

theorem exec_lockLost_other
    (hs : (s.channel c).state = .locking ∨ (s.channel c).state = .relocking ∨ (s.channel c).state = .failed) :
    exec (.lockLost c returned) s = .next s := by
  show execLockLost c returned s = _
  obtain hs | hs | hs := hs <;> simp only [execLockLost, State.lockLostReport, hs, settle_state]

end LoopbackWindow

/-- Settles O30: the window by the first byte that differs or is missing, and lock lost by the bytes that are back. -/
theorem selfTestEnds : Obligations.SelfTestEnds := by
  refine ⟨fun c returned s hs h1 h8 => ⟨fun hwhole hk => ?_, fun hwhole hk hd hp => ?_, fun i hi hbefore hne => ?_⟩,
    fun c returned s => ⟨fun hs i hi => ?_, exec_lockLost_other⟩⟩
  · rw [exec_loopbackWindowEnd_whole hs (firstMismatch_whole hwhole), if_neg (by omega)]
    rfl
  · rw [exec_loopbackWindowEnd_whole hs (firstMismatch_whole hwhole), if_pos (by omega), passTest_idle hd hp]
    refine ⟨fun hr => ?_, fun source tag rest hf he => ?_⟩
    · rw [answerRestart_other (by exact hr), settle_state]
    · have hmgmt (u : ChannelUnit) (f : VehicleId → Vehicle → Vehicle) :
          ((s.setChannel c u).mapVehicles f).mgmt = s.mgmt := rfl
      rw [answerRestart_served (by rw [hmgmt, hf]) (by rw [hmgmt, he])]
  · have hfirst := firstMismatch_some (loopbackFrame_get (s.channel c).testFrame hi)
      (fun j hj => (hbefore j hj).trans (loopbackFrame_get _ (by omega)).symm) hne 0
    rw [Nat.zero_add] at hfirst
    rw [exec_loopbackWindowEnd_mismatch hs hfirst]
    exact failTest_ends s c _
  · rw [exec_lockLost_testing hs, lockLostInTest_eq hi]
    exact failTest_ends s c _

end Sys2Proof.Machine

/-! SUPPORT. The Coupling Identifier at an ack (R139 to R143, R147). -/

namespace Sys2Proof.Machine

/-! ### What stands behind a vehicle (R138, R141) -/

/-- What is attached behind an attached vehicle has nothing behind it: a string holds two trailers at most (R138). -/
theorem behind_of_second {s : State} {v w y : VehicleId} (hs : s.stringsSound) (h : s.behind v = some w)
    (k : s.behind w = some y) : s.behind y = none := by
  cases hz : s.behind y with
  | none => rfl
  | some z =>
    have hwv := attached_of_behind h
    have hfront := front_of_second hs (attached_of_behind hz) (attached_of_behind k)
    simp [State.attached, hfront] at hwv

theorem rearBy_none {s : State} {v : VehicleId} (h : s.behind v = none) (n : Nat) : s.rearBy n v = [] := by
  cases n with
  | zero => rfl
  | succ n => simp only [State.rearBy, h]

theorem rearBy_some {s : State} {v w : VehicleId} (h : s.behind v = some w) (n : Nat) :
    s.rearBy (n + 1) v = w :: s.rearBy n w := by
  simp only [State.rearBy, h]

/-- What stands behind a vehicle is the vehicle attached behind it and what stands behind that (R138). -/
theorem rear_behind {s : State} {v w : VehicleId} (hs : s.stringsSound) (h : s.behind v = some w) :
    s.rear v = w :: s.rear w := by
  rw [State.rear, State.rear, rearBy_some h]
  cases hy : s.behind w with
  | none => rw [rearBy_none hy, rearBy_none hy]
  | some y =>
    have hlast := behind_of_second hs h hy
    rw [rearBy_some hy, rearBy_some hy, rearBy_none hlast, rearBy_none hlast]

theorem isTentative_iff (s : State) (w : VehicleId) :
    s.isTentative w = true ↔ ∃ f, (s.vehicle w).attachedBehind = some (f, .tentative) := by
  unfold State.isTentative
  split
  · rename_i f h
    simp [h]
  · rename_i h
    simpa using h

theorem blocked_iff (s : State) (v : VehicleId) :
    s.blocked v = true ↔ ∃ w f, (s.vehicle w).attachedBehind = some (f, .tentative) ∧ s.foremost w = s.foremost v := by
  simp [State.blocked, indices, isTentative_iff]

/-! ### The two parts of an ack (R139) -/

/-- The release that an ack of x brings, if it brings one (R142). -/
def State.kingpinAck (s : State) (x : VehicleId) (before : Vehicle) : State × List Latch :=
  if (s.vehicle x).kind = .trailer && before.kingpin && !(s.vehicle x).kingpin then s.kingpinRelease x else (s, [])

/-- What the front-side coupler of x does when its flag was one value and is now another (R140, R141). -/
def State.frontAck (m : State) (x : VehicleId) (was now : Bool) : State × List Latch :=
  if was && !now then m.opening x else if !was && now then m.closure x else (m, [])

/-- The release comes first, and the front-side coupler acts on what it has left (R139). -/
theorem couplerAck_eq (s : State) (x : VehicleId) (before : Vehicle) :
    s.couplerAck x before =
      (((s.kingpinAck x before).1.frontAck x before.frontCoupler (s.vehicle x).frontCoupler).1,
        (s.kingpinAck x before).2 ++
          ((s.kingpinAck x before).1.frontAck x before.frontCoupler (s.vehicle x).frontCoupler).2) := rfl

section Kingpin

variable {s : State} {x : VehicleId} {before : Vehicle}

/-- A release of an attached trailer (R142). -/
theorem kingpinAck_due
    (h : (s.vehicle x).kind = .trailer ∧ before.kingpin = true ∧ (s.vehicle x).kingpin = false ∧
      (s.vehicle x).attachedBehind ≠ none) :
    s.kingpinAck x before = ((s.dissolveBehind x).detach x).judgeStart := by
  obtain ⟨hkind, hwas, hnow, hattached⟩ := h
  rw [State.kingpinAck, if_pos (by simp [hkind, hwas, hnow]), State.kingpinRelease,
    if_pos (Option.isSome_iff_ne_none.mpr hattached)]

theorem kingpinAck_other
    (h : ¬((s.vehicle x).kind = .trailer ∧ before.kingpin = true ∧ (s.vehicle x).kingpin = false ∧
      (s.vehicle x).attachedBehind ≠ none)) :
    s.kingpinAck x before = (s, []) := by
  unfold State.kingpinAck
  split
  · rename_i hrelease
    simp only [Bool.and_eq_true, decide_eq_true_eq, Bool.not_eq_true'] at hrelease
    obtain ⟨⟨hkind, hwas⟩, hnow⟩ := hrelease
    refine if_neg fun hattached => h ⟨hkind, hwas, hnow, Option.isSome_iff_ne_none.mp hattached⟩
  · rfl

theorem onlyCoupling_kingpinAck (s : State) (x : VehicleId) (before : Vehicle) :
    OnlyCoupling s (s.kingpinAck x before).1 := by
  unfold State.kingpinAck
  split
  · exact (kingpinRelease_spec s x).1
  · exact onlyCoupling_refl s

end Kingpin

/-! ### The front-side coupler (R140, R141) -/

theorem frontCoupler_eq (x : Vehicle) : x.frontCoupler = if x.kind = .tractor then x.fifthWheel else x.rearHitch := by
  cases h : x.kind <;> simp [Vehicle.frontCoupler, h]

theorem frontAck_unchanged (m : State) (x : VehicleId) {was now : Bool} (h : was = now) : m.frontAck x was now = (m, []) := by
  subst h
  cases was <;> rfl

/-- An opening: everything behind is detached, the entry is cancelled, and a start is judged (R141). -/
theorem opening_opened (m : State) (x : VehicleId) :
    ∃ d u, m.detached d (m.rear x) ∧ d.entryCancelled u x ∧ u.startJudged (m.opening x).1 (m.opening x).2 :=
  ⟨_, _, detachAll_detached m (m.rear x), cancelEntry_cancelled _ x, judgeStart_judged _⟩

theorem secondTrailer_iff (m : State) (x : VehicleId) :
    m.secondTrailer x = true ↔
      (m.vehicle x).kind = .trailer ∧ ∃ f ∈ (m.vehicle x).attachedBehind, (m.vehicle f.1).kind = .trailer := by
  unfold State.secondTrailer
  cases (m.vehicle x).attachedBehind <;> simp

section Closure

variable {m : State} {x : VehicleId}

theorem closure_ignored (h : m.behind x ≠ none) : m.closure x = (m, []) :=
  if_pos (Option.isSome_iff_ne_none.mpr h)

theorem closure_unresolved (hb : m.behind x = none) (h : m.secondTrailer x = true ∨ 4 ≤ m.coupler.queue.length) :
    m.closure x = (m, [⟨.coupleUnresolved, .vehicle x, (m.vehicle x).current⟩]) := by
  rw [State.closure, if_neg (by simp [hb]), if_pos (by simpa using h)]
  rfl

theorem closure_queued (hb : m.behind x = none) (hs : ¬m.secondTrailer x = true) (hq : m.coupler.queue.length < 4) :
    m.closure x = ({ m with coupler := { m.coupler with queue := m.coupler.queue ++ [x] } } : State).judgeStart := by
  rw [State.closure, if_neg (by simp [hb]), if_neg (by simp [hs, hq])]

end Closure

/-- Settles O40: the release first, then the front-side coupler by how its flag has changed. -/
theorem couplerEventsFollowAcks : Obligations.CouplerEventsFollowAcks := by
  refine ⟨fun s x before => ?_, frontCoupler_eq, fun s v => ⟨fun w => attached_of_behind, not_attached_of_behind,
    fun hs => ⟨fun h => rearBy_none h 64, fun w => rear_behind hs⟩, blocked_iff s v⟩⟩
  have hvehicle := (onlyCoupling_kingpinAck s x before).2.1 x
  have hkind : ((s.kingpinAck x before).1.vehicle x).kind = (s.vehicle x).kind := by rw [hvehicle]
  have hcurrent : ((s.kingpinAck x before).1.vehicle x).current = (s.vehicle x).current := by rw [hvehicle]
  have hsecond := secondTrailer_iff (s.kingpinAck x before).1 x
  rw [hkind] at hsecond
  refine ⟨(s.kingpinAck x before).1, _, _, congrArg Prod.snd (couplerAck_eq s x before), fun hdue => ?_, fun hnot => ?_,
    fun hsame => ?_, fun hwas hnow => ?_, fun hwas hnow => ⟨fun hb => ?_, fun hb h => ?_, fun hb hs hq => ?_⟩⟩
  · rw [kingpinAck_due hdue]
    exact ⟨_, detach_detached x (detachAll_detached s (s.rear x)), judgeStart_judged _⟩
  · rw [kingpinAck_other hnot]
    exact ⟨rfl, rfl⟩
  all_goals rw [couplerAck_eq]
  · rw [frontAck_unchanged _ x hsame]
    exact ⟨rfl, rfl⟩
  all_goals rw [hwas, hnow]
  · exact opening_opened _ x
  · show (State.closure _ x).1 = _ ∧ (State.closure _ x).2 = _
    rw [closure_ignored hb]
    exact ⟨rfl, rfl⟩
  · show (State.closure _ x).1 = _ ∧ (State.closure _ x).2 = _
    rw [closure_unresolved hb (h.imp_left hsecond.mpr), hcurrent]
    exact ⟨rfl, rfl⟩
  · show State.startJudged _ (State.closure _ x).1 (State.closure _ x).2
    rw [closure_queued hb (mt hsecond.mp hs) hq]
    exact judgeStart_judged _

end Sys2Proof.Machine

/-! SUPPORT. The Binding Table: the binding with a key or a target (R46), and the checks of a binding entry (R47). -/

namespace Sys2Proof.Machine

/-! ### The binding with a key or a target (R46) -/

theorem tied_iff (b : Binding) (p : BindingTie → Bool) :
    b.tied p = true ↔ b.state ≠ .empty ∧ ∃ t ∈ b.tie, p t = true := by
  unfold Binding.tied
  cases b.tie <;> simp

/-- The first binding whose tie meets a test. -/
def State.firstTied (s : State) (p : BindingTie → Bool) : Option BindingId :=
  (indices 32).find? fun b => (s.binding b).tied p

theorem bindingWithKey_eq (s : State) (node : Byte) (group : Nat) :
    s.bindingWithKey node group = s.firstTied fun t => t.node = node && t.group = group := rfl

theorem bindingOn_eq (s : State) (target : MoveUnit) :
    s.bindingOn target = (s.firstTied fun t => t.target = target).map s.binding := rfl

theorem firstTied_some {s : State} {p : BindingTie → Bool} {b : BindingId} (h : s.firstTied p = some b) :
    (s.binding b).state ≠ .empty ∧ ∃ t ∈ (s.binding b).tie, p t = true :=
  (tied_iff _ p).mp (List.find?_some (p := fun b => (s.binding b).tied p) h)

theorem firstTied_none {s : State} {p : BindingTie → Bool} (h : s.firstTied p = none) (b : BindingId) :
    ¬((s.binding b).state ≠ .empty ∧ ∃ t ∈ (s.binding b).tie, p t = true) := by
  rw [← tied_iff]
  exact List.find?_eq_none.mp h b (List.mem_finRange b)

/-- A test that no two of the ties meet finds the one binding that meets it. -/
theorem firstTied_of_distinct {s : State} {p : BindingTie → Bool} {b : BindingId} {t : BindingTie} (hs : s.bindingsDistinct)
    (hp : ∀ t u : BindingTie, p t = true → p u = true → (t.node = u.node ∧ t.group = u.group) ∨ t.target = u.target)
    (hb : (s.binding b).state ≠ .empty) (ht : (s.binding b).tie = some t) (h : p t = true) : s.firstTied p = some b := by
  refine find?_of_unique (List.mem_finRange b) ((tied_iff _ p).mpr ⟨hb, t, ht, h⟩) fun a _ ha => ?_
  obtain ⟨hstate, u, hu, hpu⟩ := (tied_iff _ p).mp ha
  by_contra hab
  obtain ⟨hkey, htarget⟩ := hs a b hab u t hstate hb hu ht
  exact (hp u t hpu h).elim hkey htarget

theorem bindingWithKey_spec (s : State) (node : Byte) (group : Nat) :
    let matching (b : BindingId) : Prop := (s.binding b).state ≠ .empty ∧
      ∃ t ∈ (s.binding b).tie, t.node = node ∧ t.group = group
    (∀ b, s.bindingWithKey node group = some b → matching b) ∧
      (s.bindingWithKey node group = none → ∀ b, ¬matching b) ∧
      (s.bindingsDistinct → ∀ b, matching b → s.bindingWithKey node group = some b) := by
  rw [bindingWithKey_eq]
  refine ⟨fun b h => by simpa using firstTied_some h, fun h b => by simpa using firstTied_none h b, ?_⟩
  rintro hs b ⟨hb, t, ht, hkey⟩
  refine firstTied_of_distinct hs (fun t u h k => Or.inl ?_) hb ht (by simpa using hkey)
  simp only [Bool.and_eq_true, decide_eq_true_eq] at h k
  exact ⟨h.1.trans k.1.symm, h.2.trans k.2.symm⟩

theorem bindingOn_spec (s : State) (target : MoveUnit) :
    let ties (b : BindingId) : Prop := (s.binding b).state ≠ .empty ∧ ∃ t ∈ (s.binding b).tie, t.target = target
    (∀ x, s.bindingOn target = some x → ∃ b, ties b ∧ x = s.binding b) ∧
      (s.bindingOn target = none → ∀ b, ¬ties b) ∧
      (s.bindingsDistinct → ∀ b, ties b → s.bindingOn target = some (s.binding b)) := by
  rw [bindingOn_eq]
  refine ⟨fun x h => ?_, fun h b => by simpa using firstTied_none (Option.map_eq_none_iff.mp h) b, ?_⟩
  · obtain ⟨b, hb, rfl⟩ := Option.map_eq_some_iff.mp h
    exact ⟨b, by simpa using firstTied_some hb, rfl⟩
  · rintro hs b ⟨hb, t, ht, htarget⟩
    rw [firstTied_of_distinct hs (fun t u h k => Or.inr ?_) hb ht (by simpa using htarget), Option.map_some]
    exact (of_decide_eq_true h).trans (of_decide_eq_true k).symm

/-! ### The checks of a binding entry (R47) -/

/-- Another non-empty binding has the key or the target of a tie (R46, R47). -/
def State.tieTaken (s : State) (b : BindingId) (t : BindingTie) : Prop :=
  ∃ o, o ≠ b ∧ (s.binding o).state ≠ .empty ∧
    ∃ u ∈ (s.binding o).tie, (u.node = t.node ∧ u.group = t.group) ∨ u.target = t.target

/-- The target of a tie is a vehicle that is not valid (R47). -/
def State.targetMissing (s : State) (t : BindingTie) : Prop := ∃ v, t.target = .vehicle v ∧ (s.vehicle v).valid = false

theorem others_iff (s : State) (b : BindingId) (p : BindingTie → Bool) :
    ((indices 32).any fun o => o ≠ b && (s.binding o).tied p) = true ↔
      ∃ o, o ≠ b ∧ (s.binding o).state ≠ .empty ∧ ∃ u ∈ (s.binding o).tie, p u = true := by
  simp only [List.any_eq_true, Bool.and_eq_true, decide_eq_true_eq, tied_iff, indices, List.mem_finRange, true_and]

theorem tieTaken_iff (s : State) (b : BindingId) (t : BindingTie) :
    s.tieTaken b t ↔
      ((indices 32).any fun o => o ≠ b && (s.binding o).tied fun u => u.node = t.node && u.group = t.group) = true ∨
        ((indices 32).any fun o => o ≠ b && (s.binding o).tied fun u => u.target = t.target) = true := by
  simp only [others_iff, Bool.and_eq_true, decide_eq_true_eq, State.tieTaken, and_or_left, exists_or]

/-- The checks of R47 in their order: NOT_FOUND, then DUPLICATE. -/
theorem bindingRefusal_spec (s : State) (b : BindingId) (t : BindingTie) :
    (s.targetMissing t → s.bindingRefusal b t = some .notFound) ∧
      (¬s.targetMissing t → s.tieTaken b t → s.bindingRefusal b t = some .duplicate) ∧
      (¬s.targetMissing t → ¬s.tieTaken b t → s.bindingRefusal b t = none) := by
  have hmissing : s.targetMissing t ↔
      (match t.target with
        | .vehicle v => !(s.vehicle v).valid
        | .convoy _ => false) = true := by
    unfold State.targetMissing
    cases t.target <;> simp
  refine ⟨fun h => if_pos (hmissing.mp h), fun h htaken => (if_neg (mt hmissing.mpr h)).trans ?_,
    fun h hfree => (if_neg (mt hmissing.mpr h)).trans ?_⟩
  · rcases (tieTaken_iff s b t).mp htaken with hkey | htarget
    · exact if_pos hkey
    · exact ite_eq_left_iff.mpr fun _ => if_pos htarget
  · rw [tieTaken_iff, not_or] at hfree
    exact (if_neg hfree.1).trans (if_neg hfree.2)

end Sys2Proof.Machine

/-! SUPPORT. Which commands leave the Binding Table alone, and what the others keep of it (R46). -/

namespace Sys2Proof.Machine

/-! ### Operations that leave every binding alone -/

@[simp] theorem settle_bindings (w : Work) : w.settle.bindings = w.state.bindings := by
  obtain ⟨u, q, n, h, -⟩ := settle_spec w
  rw [h]

@[simp] theorem offerFrame_bindings (n : Nat) (s : State) (f : LinkFrame) : (s.offerFrame n f).bindings = s.bindings := by
  rw [offerFrame_eq]

@[simp] theorem finish_bindings (e : MgmtEntry) (d : Done) : (d.finish e).state.bindings = d.state.bindings := rfl

@[simp] theorem answerInFlight_bindings (s : State) (code : Byte) (a : Answer) :
    (s.answerInFlight code a).state.bindings = s.bindings := by
  unfold State.answerInFlight
  split
  · split <;> rfl
  · rfl

@[simp] theorem answerRestart_bindings (s : State) (c : Channel) (status : ReplyStatus) :
    (s.answerRestart c status).state.bindings = s.bindings := by
  unfold State.answerRestart
  split
  · exact answerInFlight_bindings s _ _
  · rfl

@[simp] theorem judgeStart_bindings (s : State) : s.judgeStart.1.bindings = s.bindings := by
  rw [(judgeStart_spec s).1.1]

@[simp] theorem pollReport_bindings (s : State) (c : Channel) (replies : List Byte) (garbled : Bool) :
    (s.pollReport c replies garbled).1.bindings = s.bindings := by
  rw [(pollReport_spec s c replies garbled).1.1]

@[simp] theorem couplerAck_bindings (s : State) (x : VehicleId) (before : Vehicle) :
    (s.couplerAck x before).1.bindings = s.bindings := by
  rw [(couplerAck_spec s x before).1.1]

@[simp] theorem convoyAck_bindings (s : State) (v : VehicleId) (before : Option Segment) :
    (s.convoyAck v before).1.bindings = s.bindings := by
  rw [(convoyAck_spec s v before).1]

@[simp] theorem laneAck_bindings (s : State) (v : VehicleId) : (s.laneAck v).1.bindings = s.bindings := by
  rw [(laneAck_spec s v).1]

@[simp] theorem loseMembers_bindings (s : State) (lost : List VehicleId) : (s.loseMembers lost).bindings = s.bindings := by
  obtain ⟨n, ks, h, -⟩ := loseMembers_spec s lost
  rw [h]

@[simp] theorem endVehicleSlot_bindings (s : State) (f : Option SlotFlight) : (s.endVehicleSlot f).bindings = s.bindings := by
  rw [endVehicleSlot_frame]

@[simp] theorem vehiclesLoseChannel_bindings (s : State) (c : Channel) (leaves : Bool) :
    (s.vehiclesLoseChannel c leaves).bindings = s.bindings := by
  rw [vehiclesLoseChannel_frame]

@[simp] theorem leaveServing_bindings (s : State) (c : Channel) (old : ChannelUnit) :
    (s.leaveServing c old).state.bindings = s.bindings := by
  rw [leaveServing_eq s _ c old rfl]
  dsimp only
  split <;> split <;> simp

@[simp] theorem lockReport_bindings (s : State) (c : Channel) : (s.lockReport c).bindings = s.bindings := by
  unfold State.lockReport
  split <;> rfl

@[simp] theorem failTest_bindings (s : State) (c : Channel) (d : TestDetail) : (s.failTest c d).state.bindings = s.bindings :=
  answerRestart_bindings _ c _

@[simp] theorem passTest_bindings (s : State) (c : Channel) : (s.passTest c).state.bindings = s.bindings :=
  answerRestart_bindings _ c _

theorem lockLostReport_bindings (s : State) (c : Channel) (returned : List Byte) :
    (s.lockLostReport c returned).state.bindings = s.bindings := by
  unfold State.lockLostReport
  split
  · exact leaveServing_bindings _ c _
  · unfold State.lockLostInTest
    dsimp only
    split
    · exact failTest_bindings s c _
    · split
      · exact failTest_bindings s c _
      · rw [failTest_bindings, pick_state]
  all_goals rfl

theorem restartChannel_bindings (s : State) (c : Channel) : (s.restartChannel c).state.bindings = s.bindings := by
  unfold State.restartChannel
  dsimp only
  split
  · rw [leaveServing_bindings]
    rfl
  · dsimp only
    rw [vehiclesLoseChannel_bindings]
    rfl

theorem slotOutcome_bindings (s : State) (v : VehicleId) (ack : Option Ack) :
    (s.slotOutcome v ack).state.bindings = s.bindings := by
  unfold State.slotOutcome
  split
  · split
    · simp [State.validAck]
    · unfold State.miss
      dsimp only
      split
      · dsimp only
        rw [loseMembers_bindings]
        rfl
      · rfl
  · rfl

/-! ### Management commands that leave every binding alone -/

theorem atOnce_bindings {code : Byte} {run : List Byte → State → Done} {s : State}
    (h : ∀ args, (run args s).state.bindings = s.bindings) : (atOnce code run s).bindings = s.bindings := by
  unfold atOnce
  split
  · rw [settle_bindings, finish_bindings, h]
  · rfl

theorem runNop_bindings (s : State) (args : List Byte) : (runNop args s).state.bindings = s.bindings := by
  rw [(runNop_state args s).1]

theorem runStatus_bindings (s : State) (args : List Byte) : (runStatus args s).state.bindings = s.bindings := by
  unfold runStatus
  split <;> rfl

theorem runRead_bindings (s : State) (args : List Byte) : (runRead args s).state.bindings = s.bindings := by
  unfold runRead
  split <;> rfl

theorem runFaultRead_bindings (s : State) (args : List Byte) : (runFaultRead args s).state.bindings = s.bindings := by
  unfold runFaultRead
  split <;> rfl

theorem runFaultClear_bindings (s : State) (args : List Byte) : (runFaultClear args s).state.bindings = s.bindings := by
  unfold runFaultClear
  dsimp only
  repeat' split
  all_goals rfl

theorem runConvoyForm_bindings (s : State) (args : List Byte) : (runConvoyForm args s).state.bindings = s.bindings := by
  unfold runConvoyForm
  repeat' split
  all_goals rfl

theorem runConvoyAdd_bindings (s : State) (args : List Byte) : (runConvoyAdd args s).state.bindings = s.bindings := by
  unfold runConvoyAdd
  dsimp only
  repeat' split
  all_goals rfl

theorem removeMember_bindings (s : State) (c : ConvoyId) (v : VehicleId) : (s.removeMember c v).bindings = s.bindings := by
  unfold State.removeMember
  dsimp only
  split <;> rfl

theorem runConvoyRemove_bindings (s : State) (args : List Byte) : (runConvoyRemove args s).state.bindings = s.bindings := by
  unfold runConvoyRemove
  dsimp only
  repeat' split
  any_goals rfl
  exact removeMember_bindings s _ _

theorem runConvoyHold_bindings (s : State) (args : List Byte) : (runConvoyHold args s).state.bindings = s.bindings := by
  unfold runConvoyHold
  repeat' split
  all_goals rfl

theorem runConvoyResume_bindings (s : State) (args : List Byte) : (runConvoyResume args s).state.bindings = s.bindings := by
  unfold runConvoyResume
  repeat' split
  all_goals rfl

theorem runConvoyDisband_bindings (s : State) (args : List Byte) : (runConvoyDisband args s).state.bindings = s.bindings := by
  unfold runConvoyDisband
  repeat' split
  all_goals rfl

theorem runZoneRelease_bindings (s : State) (args : List Byte) : (runZoneRelease args s).state.bindings = s.bindings := by
  unfold runZoneRelease
  repeat' split
  all_goals rfl

/-- A decision on an attachment, which changes one vehicle and judges a start (R148). -/
theorem runDecision_bindings {decide : VehicleId → VehicleId → State → State} {s : State}
    (h : ∀ x w, (decide x w s).bindings = s.bindings) (args : List Byte) :
    (runDecision decide args s).state.bindings = s.bindings := by
  unfold runDecision
  dsimp only
  repeat' split
  any_goals rfl
  exact (judgeStart_bindings _).trans (h _ _)

/-- What every entry of a WRITE keeps, a WRITE keeps. -/
theorem writeEntries_invariant {inv : State → Prop} {judge : EntryJudge}
    (h : ∀ i bytes s, inv s → inv (judge i bytes s).state) (index : Nat) (entries : List (List Byte)) (s : State) (hs : inv s) :
    inv (writeEntries judge index entries s).state := by
  induction entries generalizing index s with
  | nil => exact hs
  | cons e es ih => exact ih (index + 1) _ (h index e s hs)

@[simp] theorem ended_bindings (w : Written) : w.ended.1.bindings = w.state.bindings := by
  rw [(ended_spec w).1.1]

/-- What speaks of the bindings alone and is kept by every entry, a WRITE keeps. -/
theorem writeStep_invariant {inv : State → Prop} (hb : ∀ s t : State, t.bindings = s.bindings → inv s → inv t)
    {judge : EntryJudge} (h : ∀ i bytes s, inv s → inv (judge i bytes s).state) (table : Byte) (size : Nat) {s : State}
    (hs : inv s) : inv (writeStep table size judge s) := by
  have hrun (args : List Byte) : inv (runWrite table size judge args s).state := by
    unfold runWrite
    split
    · rename_i first entries _
      exact hb _ _ (ended_bindings (writeEntries judge first entries s)) (writeEntries_invariant h first entries s hs)
    · exact hs
  unfold writeStep
  split
  · rename_i args _
    split
    · exact hb _ _ ((settle_bindings _).trans (finish_bindings _ _)) (hrun args)
    · exact hs
  · exact hs

theorem writeStep_bindings {judge : EntryJudge} (h : ∀ i bytes s, (judge i bytes s).state.bindings = s.bindings)
    (table : Byte) (size : Nat) (s : State) : (writeStep table size judge s).bindings = s.bindings :=
  writeStep_invariant (inv := fun t => t.bindings = s.bindings) (fun _ _ e hs => e.trans hs)
    (fun i bytes t hs => (h i bytes t).trans hs) table size rfl

theorem judgeOthers_bindings (index : Nat) (bytes : List Byte) (s : State) :
    (judgeVehicle index bytes s).state.bindings = s.bindings ∧ (judgeZone index bytes s).state.bindings = s.bindings ∧
      (judgeLimits index bytes s).state.bindings = s.bindings :=
  ⟨by rw [judgeVehicle_frame], by rw [judgeZone_frame], by rw [judgeLimits_frame]⟩

/-! ### Commands that leave every binding alone -/

theorem leads_next {t : State} {p : State → Prop} (h : p t) : Leads (.next t) p := ⟨t, rfl, h⟩

/-- The command leads to a state with the same bindings. -/
def State.LeavesBindings (s : State) (o : Result) : Prop := Leads o fun t => t.bindings = s.bindings

theorem leavesBindings_next {s t : State} (h : t.bindings = s.bindings) : s.LeavesBindings (.next t) :=
  leads_next h

theorem leavesBindings_refl (s : State) : s.LeavesBindings (.next s) := leavesBindings_next rfl

/-- A command that is answered with nothing changed. -/
theorem leavesBindings_answered {s : State} (e : MgmtEntry) {d : Done} (h : d.state.bindings = s.bindings) :
    s.LeavesBindings (.next (d.finish e).settle) :=
  leavesBindings_next ((settle_bindings _).trans h)

section Commands

variable (s : State)

theorem frameCheckFailure_bindings (bytes : List Byte) : s.LeavesBindings (execFrameCheckFailure bytes s) := by
  unfold execFrameCheckFailure
  split
  · exact leavesBindings_next (settle_bindings _)
  · exact leavesBindings_refl s

theorem receiveMgmt_bindings (destination source : Byte) (payload : List Byte) :
    (s.receiveMgmt destination source payload).bindings = s.bindings := by
  unfold State.receiveMgmt
  dsimp only
  repeat' split
  any_goals rfl
  exact offerFrame_bindings _ s _

theorem mgmt_bindings (header : LinkHeader) (payload : List Byte) (check : Half) :
    s.LeavesBindings (execMgmt header payload check s) := by
  unfold execMgmt
  split
  · exact leavesBindings_next (receiveMgmt_bindings s _ _ _)
  · exact leavesBindings_refl s

theorem outputFrameSend_bindings : s.LeavesBindings (execOutputFrameSend s) := by
  unfold execOutputFrameSend
  split
  · exact leavesBindings_next rfl
  · exact leavesBindings_refl s

theorem unknownCommand_bindings : s.LeavesBindings (execUnknownCommand s) := by
  unfold execUnknownCommand
  split
  · split
    · exact leavesBindings_answered _ rfl
    · split
      · exact leavesBindings_refl s
      · exact leavesBindings_answered _ rfl
  · exact leavesBindings_refl s

theorem directSend_bindings : s.LeavesBindings (execDirectSend s) := by
  unfold execDirectSend
  split
  · split
    · split
      · exact leavesBindings_next rfl
      · exact leavesBindings_answered _ rfl
    · exact leavesBindings_answered _ rfl
  · exact leavesBindings_refl s

theorem channelRestart_bindings : s.LeavesBindings (execChannelRestart s) := by
  unfold execChannelRestart
  split
  · split
    · split
      · exact leavesBindings_next ((settle_bindings _).trans (restartChannel_bindings _ _))
      · exact leavesBindings_answered _ rfl
    · exact leavesBindings_answered _ rfl
  · exact leavesBindings_refl s

theorem enterFailed_bindings (c : Channel) (u : ChannelUnit) (ls : List Latch) :
    ((s.setChannel c u).enterFailed c ls).settle.bindings = s.bindings :=
  (settle_bindings _).trans (answerRestart_bindings (s.setChannel c u) c .failed)

theorem lockLimitExpiry_bindings (c : Channel) : s.LeavesBindings (execLockLimitExpiry c s) := by
  unfold execLockLimitExpiry
  dsimp only
  split
  · exact leavesBindings_next (enterFailed_bindings s c _ _)
  · exact leavesBindings_refl s

theorem relockLimitExpiry_bindings (c : Channel) : s.LeavesBindings (execRelockLimitExpiry c s) := by
  unfold execRelockLimitExpiry
  dsimp only
  split
  · exact leavesBindings_next (enterFailed_bindings s c _ _)
  · exact leavesBindings_refl s

theorem loopbackWindowEnd_bindings (c : Channel) (returned : List Byte) :
    s.LeavesBindings (execLoopbackWindowEnd c returned s) := by
  unfold execLoopbackWindowEnd
  dsimp only
  split
  · split
    · exact leavesBindings_next ((settle_bindings _).trans (failTest_bindings s c _))
    · split
      · exact leavesBindings_next ((settle_bindings _).trans (passTest_bindings s c))
      · exact leavesBindings_next rfl
  · exact leavesBindings_refl s

theorem cycleStart_bindings (c : Channel) : s.LeavesBindings (execCycleStart c s) := by
  unfold execCycleStart
  dsimp only
  split
  · exact leavesBindings_next rfl
  · exact leavesBindings_refl s

theorem frameBuild_bindings (c : Channel) (slot : SlotNo) : s.LeavesBindings (execFrameBuild c slot s) := by
  unfold execFrameBuild
  dsimp only
  split
  · split <;> exact leavesBindings_next rfl
  · exact leavesBindings_refl s

theorem radioFrameReceive_bindings (c : Channel) (bytes : List Byte) :
    s.LeavesBindings (execRadioFrameReceive c bytes s) := by
  unfold execRadioFrameReceive
  split
  · exact leavesBindings_next rfl
  · exact leavesBindings_refl s

theorem responseWindowEnd_bindings (c : Channel) : s.LeavesBindings (execResponseWindowEnd c s) := by
  unfold execResponseWindowEnd
  split
  · exact leavesBindings_next ((settle_bindings _).trans (slotOutcome_bindings (s.endSlot c) _ _))
  · exact leavesBindings_refl s

theorem housekeepingWindowEnd_bindings (c : Channel) : s.LeavesBindings (execHousekeepingWindowEnd c s) := by
  unfold execHousekeepingWindowEnd
  split
  · split
    · exact leavesBindings_next ((settle_bindings _).trans (pollReport_bindings (s.endSlot c) c _ _))
    · exact leavesBindings_next rfl
  · split
    · exact leavesBindings_next ((settle_bindings _).trans (answerInFlight_bindings (s.endSlot c) _ _))
    · exact leavesBindings_next rfl
  · exact leavesBindings_refl s

theorem sendLimitExpiry_bindings (c : Channel) : s.LeavesBindings (execSendLimitExpiry c s) := by
  unfold execSendLimitExpiry
  dsimp only
  split
  · exact leavesBindings_next ((settle_bindings _).trans (answerInFlight_bindings (s.setChannel c _) _ _))
  · exact leavesBindings_refl s

theorem supplyMonitorAssertionEdge_bindings : s.LeavesBindings (execSupplyMonitorAssertionEdge s) := by
  unfold execSupplyMonitorAssertionEdge
  split
  · exact leavesBindings_refl s
  · exact leavesBindings_next (settle_bindings _)

end Commands

/-- The commands that write the Binding Table: resets, handset frames, its WRITE, expiries, and what disarms. -/
def writesBindings : Instr → Bool
  | .powerOnReset _ | .drive _ _ _ | .aux _ _ _ | .bindingWrite | .stopAll | .restart | .silenceExpiry _
  | .estopAssertionEdge => true
  | _ => false

/-- Every other command leaves every binding alone. -/
theorem exec_bindings {i : Instr} (hi : writesBindings i = false) (s : State) : s.LeavesBindings (exec i s) := by
  cases i with
  | powerOnReset | drive | aux | bindingWrite | stopAll | restart | silenceExpiry | estopAssertionEdge => cases hi
  | frameCheckFailure bytes => exact frameCheckFailure_bindings s bytes
  | mgmt header payload check => exact mgmt_bindings s header payload check
  | outputFrameSend => exact outputFrameSend_bindings s
  | unknownCommand => exact unknownCommand_bindings s
  | nop => exact leavesBindings_next (atOnce_bindings (runNop_bindings s))
  | status => exact leavesBindings_next (atOnce_bindings (runStatus_bindings s))
  | read => exact leavesBindings_next (atOnce_bindings (runRead_bindings s))
  | vehicleWrite => exact leavesBindings_next (writeStep_bindings (fun i b s => (judgeOthers_bindings i b s).1) _ _ s)
  | zoneWrite => exact leavesBindings_next (writeStep_bindings (fun i b s => (judgeOthers_bindings i b s).2.1) _ _ s)
  | limitsWrite => exact leavesBindings_next (writeStep_bindings (fun i b s => (judgeOthers_bindings i b s).2.2) _ _ s)
  | convoyForm => exact leavesBindings_next (atOnce_bindings (runConvoyForm_bindings s))
  | convoyAdd => exact leavesBindings_next (atOnce_bindings (runConvoyAdd_bindings s))
  | convoyRemove => exact leavesBindings_next (atOnce_bindings (runConvoyRemove_bindings s))
  | convoyHold => exact leavesBindings_next (atOnce_bindings (runConvoyHold_bindings s))
  | convoyResume => exact leavesBindings_next (atOnce_bindings (runConvoyResume_bindings s))
  | convoyDisband => exact leavesBindings_next (atOnce_bindings (runConvoyDisband_bindings s))
  | zoneRelease => exact leavesBindings_next (atOnce_bindings (runZoneRelease_bindings s))
  | coupleConfirm => exact leavesBindings_next (atOnce_bindings (runDecision_bindings fun _ _ => rfl))
  | coupleReject => exact leavesBindings_next (atOnce_bindings (runDecision_bindings fun _ _ => rfl))
  | directSend => exact directSend_bindings s
  | channelRestart => exact channelRestart_bindings s
  | faultRead => exact leavesBindings_next (atOnce_bindings (runFaultRead_bindings s))
  | faultClear => exact leavesBindings_next (atOnce_bindings (runFaultClear_bindings s))
  | lockAchieved c => exact leavesBindings_next (lockReport_bindings s c)
  | lockLimitExpiry c => exact lockLimitExpiry_bindings s c
  | loopbackWindowEnd c returned => exact loopbackWindowEnd_bindings s c returned
  | lockLost c returned => exact leavesBindings_next ((settle_bindings _).trans (lockLostReport_bindings s c returned))
  | relock c => exact leavesBindings_next (lockReport_bindings s c)
  | relockLimitExpiry c => exact relockLimitExpiry_bindings s c
  | cycleStart c => exact cycleStart_bindings s c
  | frameBuild c slot => exact frameBuild_bindings s c slot
  | radioFrameReceive c bytes => exact radioFrameReceive_bindings s c bytes
  | responseWindowEnd c => exact responseWindowEnd_bindings s c
  | housekeepingWindowEnd c => exact housekeepingWindowEnd_bindings s c
  | sendLimitExpiry c => exact sendLimitExpiry_bindings s c
  | supplyMonitorAssertionEdge => exact supplyMonitorAssertionEdge_bindings s
  | estopRelease | supplyMonitorRelease | timeCounterTick => exact leavesBindings_next rfl

/-! ### What the others keep of the bindings (R46) -/

/-- Every non-empty binding of the second state is one of the first, with its tie. -/
def State.TiesFrom (s t : State) : Prop :=
  ∀ b, (t.binding b).state ≠ .empty → (s.binding b).state ≠ .empty ∧ (t.binding b).tie = (s.binding b).tie

theorem State.TiesFrom.distinct {s t : State} (h : s.TiesFrom t) (hs : s.bindingsDistinct) : t.bindingsDistinct := by
  intro a b hab x y ha hb hx hy
  obtain ⟨ha', hxa⟩ := h a ha
  obtain ⟨hb', hyb⟩ := h b hb
  exact hs a b hab x y ha' hb' (hxa ▸ hx) (hyb ▸ hy)

theorem State.TiesFrom.refl (s : State) : s.TiesFrom s := fun _ hb => ⟨hb, rfl⟩

theorem State.TiesFrom.then_bindings {s t u : State} (h : s.TiesFrom t) (k : u.bindings = t.bindings) : s.TiesFrom u :=
  fun b hb => by
    have hu : u.binding b = t.binding b := by simp only [State.binding, k]
    exact hu ▸ h b (hu ▸ hb)

theorem tiesFrom_of_bindings {s t : State} (h : t.bindings = s.bindings) : s.TiesFrom t := (State.TiesFrom.refl s).then_bindings h

theorem tiesFrom_setBinding {s : State} {b : BindingId} {x : Binding}
    (h : x.state ≠ .empty → (s.binding b).state ≠ .empty ∧ x.tie = (s.binding b).tie) : s.TiesFrom (s.setBinding b x) := by
  intro a ha
  rw [binding_setBinding] at ha ⊢
  split
  · rename_i e
    subst e
    exact h (by simpa using ha)
  · rename_i e
    exact ⟨by simpa [e] using ha, rfl⟩

/-- Disarming empties no binding and fills none (R55, R56). -/
theorem tiesFrom_disarm (s : State) : s.TiesFrom (s.mapBindings Binding.disarm) := by
  intro b hb
  rw [binding_disarmed] at hb ⊢
  refine ⟨fun he => hb ?_, rfl⟩
  simp [he]

/-- A frame accepted by a binding keeps its tie, and arms it only when it was DISARMED (R49, R52). -/
theorem tiesFrom_acceptDrive (s : State) (b : BindingId) (throttle : Byte) (turn : Turn) :
    s.TiesFrom (s.setBinding b (s.acceptDrive (s.binding b) throttle turn)) := by
  refine tiesFrom_setBinding fun h => ⟨fun he => h ?_, rfl⟩
  simp [State.acceptDrive, State.restartTimer, he]

theorem tiesFrom_silence (s : State) (b : BindingId) : s.TiesFrom (s.setBinding b (s.binding b).silence) := by
  refine tiesFrom_setBinding fun h => ⟨fun he => h ?_, rfl⟩
  simp [Binding.silence, he]

theorem unbound_bindings (s : State) (source : Byte) (group : Nat) (cls : Byte) :
    (s.unbound source group cls).bindings = s.bindings := by
  unfold State.unbound
  split
  · rfl
  · exact (settle_bindings _).trans (offerFrame_bindings _ s _)

theorem tiesFrom_receiveDrive (s : State) (destination source : Byte) (payload : List Byte) :
    s.TiesFrom (s.receiveDrive destination source payload) := by
  unfold State.receiveDrive
  split
  · split
    · split
      · exact tiesFrom_acceptDrive s _ _ _
      · exact tiesFrom_of_bindings (unbound_bindings s _ _ _)
    · exact .refl s
  · exact .refl s

theorem tiesFrom_receiveAux (s : State) (destination source : Byte) (payload : List Byte) :
    s.TiesFrom (s.receiveAux destination source payload) := by
  unfold State.receiveAux
  split
  · split
    · split
      · exact tiesFrom_setBinding fun h => ⟨h, rfl⟩
      · exact tiesFrom_of_bindings (unbound_bindings s _ _ _)
    · exact .refl s
  · exact .refl s

theorem tiesFrom_atOnce {code : Byte} {run : List Byte → State → Done} {s : State}
    (h : ∀ args, s.TiesFrom (run args s).state) : s.TiesFrom (atOnce code run s) := by
  unfold atOnce
  split
  · rename_i args _
    exact (h args).then_bindings (settle_bindings _)
  · exact .refl s

theorem tiesFrom_runStopAll (s : State) (args : List Byte) : s.TiesFrom (runStopAll args s).state := by
  unfold runStopAll
  split
  · exact tiesFrom_disarm s
  · exact .refl s

theorem tiesFrom_runRestart (s : State) (args : List Byte) : s.TiesFrom (runRestart args s).state := by
  unfold runRestart
  split
  · exact (tiesFrom_disarm s).then_bindings rfl
  · exact .refl s

theorem ties_drive (s : State) (header : LinkHeader) (payload : List Byte) (check : Half) :
    Leads (execDrive header payload check s) s.TiesFrom := by
  unfold execDrive
  split
  · exact leads_next (tiesFrom_receiveDrive s _ _ _)
  · exact leads_next (.refl s)

theorem ties_aux (s : State) (header : LinkHeader) (payload : List Byte) (check : Half) :
    Leads (execAux header payload check s) s.TiesFrom := by
  unfold execAux
  split
  · exact leads_next (tiesFrom_receiveAux s _ _ _)
  · exact leads_next (.refl s)

theorem ties_silenceExpiry (s : State) (b : BindingId) : Leads (execSilenceExpiry b s) s.TiesFrom := by
  unfold execSilenceExpiry
  dsimp only
  split
  · exact leads_next ((tiesFrom_silence s b).then_bindings (settle_bindings _))
  · exact leads_next (.refl s)

theorem ties_estopAssertionEdge (s : State) : Leads (execEstopAssertionEdge s) s.TiesFrom := by
  unfold execEstopAssertionEdge
  split
  · exact leads_next (.refl s)
  · exact leads_next ((tiesFrom_disarm s).then_bindings (settle_bindings _))

/-- A power-on reset leaves no binding that is not EMPTY (R60). -/
theorem ties_powerOnReset (s : State) (pins : Pins) : Leads (exec (.powerOnReset pins) s) s.TiesFrom := by
  rw [exec_powerOnReset]
  refine leads_next fun b hb => absurd ?_ hb
  simp [State.binding, powerOnWork, State.powerOn, Binding.blank]

/-- Every command but BINDING's WRITE only keeps ties, or empties their bindings. -/
theorem exec_ties {i : Instr} (hi : i ≠ .bindingWrite) (s : State) : Leads (exec i s) s.TiesFrom := by
  cases hw : writesBindings i with
  | false =>
    obtain ⟨t, ht, hb⟩ := exec_bindings hw s
    exact ⟨t, ht, tiesFrom_of_bindings hb⟩
  | true =>
    cases i with
    | powerOnReset pins => exact ties_powerOnReset s pins
    | drive header payload check => exact ties_drive s header payload check
    | aux header payload check => exact ties_aux s header payload check
    | bindingWrite => exact absurd rfl hi
    | stopAll => exact leads_next (tiesFrom_atOnce (tiesFrom_runStopAll s))
    | restart => exact leads_next (tiesFrom_atOnce (tiesFrom_runRestart s))
    | silenceExpiry b => exact ties_silenceExpiry s b
    | estopAssertionEdge => exact ties_estopAssertionEdge s
    | _ => cases hw

/-! ### BINDING's WRITE (R47, R48) -/

/-- A stored tie is no other binding's (R46, R47). -/
theorem distinct_store {s : State} {b : BindingId} {x : Binding} {t : BindingTie} (hs : s.bindingsDistinct)
    (ht : ¬s.tieTaken b t) (hx : x.tie = some t) : (s.setBinding b x).bindingsDistinct := by
  have hother {o : BindingId} {u : BindingTie} (ho : o ≠ b) (hne : (s.binding o).state ≠ .empty)
      (hu : (s.binding o).tie = some u) : ¬(u.node = t.node ∧ u.group = t.group) ∧ u.target ≠ t.target :=
    not_or.mp fun h => ht ⟨o, ho, hne, u, hu, h⟩
  intro a c hac v w ha hc hv hw
  rw [binding_setBinding] at ha hc hv hw
  by_cases hab : a = b
  · have hcb : c ≠ b := fun e => hac (hab.trans e.symm)
    rw [if_neg hcb] at hc hw
    rw [if_pos hab, hx] at hv
    obtain rfl := Option.some.inj hv
    obtain ⟨hkey, htarget⟩ := hother hcb hc hw
    exact ⟨fun h => hkey ⟨h.1.symm, h.2.symm⟩, htarget.symm⟩
  · rw [if_neg hab] at ha hv
    by_cases hcb : c = b
    · rw [if_pos hcb, hx] at hw
      obtain rfl := Option.some.inj hw
      exact hother hab ha hv
    · rw [if_neg hcb] at hc hw
      exact hs a c hac v w ha hc hv hw

theorem bindingRefusal_none {s : State} {b : BindingId} {t : BindingTie} (h : s.bindingRefusal b t = none) :
    ¬s.targetMissing t ∧ ¬s.tieTaken b t := by
  obtain ⟨hmissing, htaken, -⟩ := bindingRefusal_spec s b t
  have hfound : ¬s.targetMissing t := fun k => by simp [hmissing k] at h
  exact ⟨hfound, fun k => by simp [htaken hfound k] at h⟩

theorem rewrite_tie (b : Binding) (t : BindingTie) : (b.rewrite t).tie = some t := by
  unfold Binding.rewrite
  split <;> rfl

/-- A binding entry empties its binding, stores a tie that is free, or changes nothing (R47, R48). -/
theorem distinct_judgeBinding (index : Nat) (bytes : List Byte) (s : State) (hs : s.bindingsDistinct) :
    (judgeBinding index bytes s).state.bindingsDistinct := by
  unfold judgeBinding
  split
  · split
    · split
      · exact hs
      · split
        · exact hs
        · rename_i hfree
          exact distinct_store hs (bindingRefusal_none hfree).2 (rewrite_tie _ _)
    · exact (tiesFrom_setBinding fun h => absurd rfl h).distinct hs
  · exact hs

theorem exec_distinct {i : Instr} {s t : State} (hs : s.bindingsDistinct) (h : exec i s = .next t) : t.bindingsDistinct := by
  by_cases hi : i = .bindingWrite
  · subst hi
    exact Host.Outcome.next.inj h ▸
      writeStep_invariant (fun _ _ e hs => (tiesFrom_of_bindings e).distinct hs) distinct_judgeBinding _ _ hs
  · obtain ⟨u, hu, hties⟩ := exec_ties hi s
    exact Host.Outcome.next.inj (hu.symm.trans h) ▸ hties.distinct hs

/-- Settles O55: BINDING's WRITE stores no tie that another binding has, and every other command only keeps ties. -/
theorem bindingsStayDistinct : Obligations.BindingsStayDistinct := by
  intro s t hs h
  unfold step at h
  split at h
  · exact Host.Outcome.next.inj h ▸ hs
  · rename_i c rest _
    exact exec_distinct (s := { s with pending := rest }) hs h

end Sys2Proof.Machine

/-! SUPPORT. Handset frames (R49 to R53, R163), silence timers (R54) and the input pins (R55, R156). -/

namespace Sys2Proof.Machine

/-! ### A handset frame that a binding matches (R49, R52, R53) -/

/-- A frame is taken where it is claimed and comes from a handset (R163). -/
theorem taken_iff (s : State) (destination source : Byte) :
    (s.claims destination && isHandset source) = true ↔
      (destination = 0 ∨ destination = s.link.address) ∧ 16 ≤ source.toNat ∧ source.toNat ≤ 63 := by
  simp [State.claims, isHandset]

theorem acceptDrive_eq (s : State) (b : Binding) (throttle : Byte) (turn : Turn) :
    s.acceptDrive b throttle turn =
      { b with
        throttle := max (-127) throttle.toInt
        turn := turn
        timer := some (s.fault.time + BitVec.ofNat 16 s.limits.silence)
        state :=
          if b.state = .disarmed ∧ (max (-127) throttle.toInt).natAbs ≤ s.limits.neutralBand ∧ s.pins.estop = false then .armed
          else b.state } := by
  simp [State.acceptDrive, State.restartTimer, State.arms, State.after]

theorem acceptAux_eq (s : State) (b : Binding) (high low : Byte) :
    s.acceptAux b (halfOf high low) =
      { b with
        aux := BitVec.ofNat 16 (high.toNat * 256 + low.toNat)
        timer := some (s.fault.time + BitVec.ofNat 16 s.limits.silence) } := by
  rw [← halfOf_eq]
  rfl

section Taken

variable {s : State} {destination source : Byte}
  (h : (destination = 0 ∨ destination = s.link.address) ∧ 16 ≤ source.toNat ∧ source.toNat ≤ 63)
include h

theorem receiveDrive_matched {g throttle : Byte} {b : BindingId} (hb : s.bindingWithKey source (g.toNat % 4) = some b) :
    s.receiveDrive destination source [g, throttle] =
      s.setBinding b (s.acceptDrive (s.binding b) throttle (turnOfGroupByte g)) := by
  simp only [State.receiveDrive, (taken_iff s destination source).mpr h, groupOfGroupByte_eq, hb, if_true]

theorem receiveAux_matched {g high low : Byte} {b : BindingId} (hb : s.bindingWithKey source (g.toNat % 4) = some b) :
    s.receiveAux destination source [g, high, low] = s.setBinding b (s.acceptAux (s.binding b) (halfOf high low)) := by
  simp only [State.receiveAux, (taken_iff s destination source).mpr h, groupOfGroupByte_eq, hb, if_true]

theorem receiveDrive_unbound {g throttle : Byte} (hb : s.bindingWithKey source (g.toNat % 4) = none) :
    s.receiveDrive destination source [g, throttle] = s.unbound source (g.toNat % 4) 1 := by
  simp only [State.receiveDrive, (taken_iff s destination source).mpr h, groupOfGroupByte_eq, hb, if_true]
  rfl

theorem receiveAux_unbound {g high low : Byte} (hb : s.bindingWithKey source (g.toNat % 4) = none) :
    s.receiveAux destination source [g, high, low] = s.unbound source (g.toNat % 4) 2 := by
  simp only [State.receiveAux, (taken_iff s destination source).mpr h, groupOfGroupByte_eq, hb, if_true]
  rfl

end Taken

/-- Settles O5: the frame is the matching binding's, which the key alone singles out. -/
theorem handsetFrameUpdatesMatchingBinding : Obligations.HandsetFrameUpdatesMatchingBinding := by
  refine ⟨?_, ?_, fun node group s => bindingWithKey_spec s node group⟩
  · intro header received check destination source g throttle b s hp hc h16 h63 hb
    rw [(exec_received s hp).1 rfl, receiveDrive_matched ⟨hc, h16, h63⟩ hb, acceptDrive_eq, turnOfGroupByte_eq]
  · intro header received check destination source g high low b s hp hc h16 h63 hb
    rw [(exec_received s hp).2.1 rfl, receiveAux_matched ⟨hc, h16, h63⟩ hb, acceptAux_eq]

/-! ### A handset frame that no binding matches, and frames that are not taken (R50, R163) -/

theorem unbound_through {s : State} (h : s.link.mode = .through) (source : Byte) (group : Nat) (cls : Byte) :
    s.unbound source group cls = s := by
  simp only [State.unbound, h]

/-- The UNBOUND reply joins the output queue before the alert of UNBOUND_DRIVE (R50, assumption 12). -/
theorem unbound_last {s : State} (h : s.link.mode = .last) (source : Byte) (group : Nat) (cls : Byte) :
    s.unbound source group cls =
      State.latched
        { s with
          link :=
            { s.link with
              queue := s.link.queue ++
                if s.outCount < 8 then [⟨source, s.link.address, 6, [BitVec.ofNat 8 group, cls]⟩] else [] } }
        ⟨.unboundDrive, .node source, none⟩ := by
  simp only [State.unbound, h, settle_latched, offerFrame_eq]
  rfl

/-- What is not claimed, or comes from no handset, is not taken (R163). -/
theorem not_taken_or {s : State} {destination source : Byte} {p : Prop}
    (h : (destination ≠ 0 ∧ destination ≠ s.link.address) ∨ source.toNat < 16 ∨ 63 < source.toNat ∨ p) :
    (s.claims destination && isHandset source) = false ∨ p := by
  by_contra hnot
  rw [not_or, Bool.not_eq_false, taken_iff] at hnot
  obtain ⟨⟨hc, h16, h63⟩, hp⟩ := hnot
  rcases h with ⟨h0, ha⟩ | h | h | h
  · exact hc.elim h0 ha
  · omega
  · omega
  · exact hp h

theorem receiveDrive_other {s : State} {destination source : Byte} {payload : List Byte}
    (h : (s.claims destination && isHandset source) = false ∨ payload.length ≠ 2) :
    s.receiveDrive destination source payload = s := by
  unfold State.receiveDrive
  split
  · have htaken := h.resolve_right (by simp)
    rw [htaken]
    rfl
  · rfl

theorem receiveAux_other {s : State} {destination source : Byte} {payload : List Byte}
    (h : (s.claims destination && isHandset source) = false ∨ payload.length ≠ 3) :
    s.receiveAux destination source payload = s := by
  unfold State.receiveAux
  split
  · have htaken := h.resolve_right (by simp)
    rw [htaken]
    rfl
  · rfl

/-- A handset frame without a binding, received as one of the two classes. -/
theorem unbound_ends {i : Instr} {s : State} {source g cls : Byte} (h : exec i s = .next (s.unbound source (g.toNat % 4) cls)) :
    (s.link.mode = .through → exec i s = .next s) ∧
      (s.link.mode = .last → exec i s = .next
        (State.latched
          { s with
            link :=
              { s.link with
                queue := s.link.queue ++
                  if s.outCount < 8 then [⟨source, s.link.address, 6, [BitVec.ofNat 8 (g.toNat % 4), cls]⟩] else [] } }
          ⟨.unboundDrive, .node source, none⟩)) :=
  ⟨fun hm => h.trans (congrArg _ (unbound_through hm _ _ _)), fun hm => h.trans (congrArg _ (unbound_last hm _ _ _))⟩

section NotTaken

variable {header : LinkHeader} {received : List Byte} {check : Half} {f : LinkFrame} {s : State}
  (hp : LinkFrame.parse (linkBytes header received check) = some f)
include hp

theorem exec_drive_ignored
    (h : (f.destination ≠ 0 ∧ f.destination ≠ s.link.address) ∨ f.source.toNat < 16 ∨ 63 < f.source.toNat ∨ f.cls ≠ 1 ∨
      f.payload.length ≠ 2) : exec (.drive header received check) s = .next s := by
  by_cases hc : f.cls = 1
  · rw [(exec_received s hp).1 hc, receiveDrive_other]
    exact (not_taken_or h).imp_right fun k => k.resolve_left (absurd hc)
  · exact (exec_notReceived header received check s).1 (ofClass_other hp hc)

theorem exec_aux_ignored
    (h : (f.destination ≠ 0 ∧ f.destination ≠ s.link.address) ∨ f.source.toNat < 16 ∨ 63 < f.source.toNat ∨ f.cls ≠ 2 ∨
      f.payload.length ≠ 3) : exec (.aux header received check) s = .next s := by
  by_cases hc : f.cls = 2
  · rw [(exec_received s hp).2.1 hc, receiveAux_other]
    exact (not_taken_or h).imp_right fun k => k.resolve_left (absurd hc)
  · exact (exec_notReceived header received check s).2.1 (ofClass_other hp hc)

end NotTaken

/-- Bytes that pass their frame check are no FRAME_CHECK_FAILURE (assumption 4). -/
theorem exec_frameCheckFailure_passed {bytes : List Byte} {f : LinkFrame} (h : LinkFrame.parse bytes = some f) (s : State) :
    exec (.frameCheckFailure bytes) s = .next s := by
  show execFrameCheckFailure bytes s = _
  simp only [execFrameCheckFailure, h]

/-- Settles O6: no binding, by the claiming mode; and what is not taken, by its class and its frame check. -/
theorem handsetFrameWithoutBindingChangesNone : Obligations.HandsetFrameWithoutBindingChangesNone := by
  refine ⟨?_, fun header received check f s hp => ⟨exec_drive_ignored hp, exec_aux_ignored hp⟩,
    fun bytes f s h => exec_frameCheckFailure_passed h s, ?_, fun s => rfl⟩
  · intro header received check destination source g x y s hc h16 h63 hb p hmem hp
    obtain rfl | rfl : p = (.drive header received check, 1, [g, x]) ∨ p = (.aux header received check, 2, [g, x, y]) := by
      simpa using hmem
    · exact unbound_ends (by rw [(exec_received s hp).1 rfl, receiveDrive_unbound ⟨hc, h16, h63⟩ hb])
    · exact unbound_ends (by rw [(exec_received s hp).2.1 rfl, receiveAux_unbound ⟨hc, h16, h63⟩ hb])
  · intro header received check s hp i hi
    obtain ⟨hdrive, haux, hmgmt⟩ := exec_notReceived header received check s
    obtain rfl | rfl | rfl : i = .drive header received check ∨ i = .aux header received check ∨
        i = .mgmt header received check := by simpa using hi
    · exact hdrive (ofClass_failed hp 1)
    · exact haux (ofClass_failed hp 2)
    · exact hmgmt (ofClass_failed hp 3)

/-! ### Silence timers and the time counter (R54, R152) -/

section Silence

variable {s : State} {b : BindingId} {expiry : Time} (ht : (s.binding b).timer = some expiry)
include ht

theorem exec_silenceExpiry_ahead (h : 32768 ≤ (s.fault.time - expiry).toNat) : exec (.silenceExpiry b) s = .next s := by
  have hexpired : s.expired (s.binding b).timer = false := by
    rw [ht, expired_some]
    exact decide_eq_false (Nat.not_lt.mpr h)
  exact if_neg (by simp [hexpired])

theorem exec_silenceExpiry_reached (h : (s.fault.time - expiry).toNat < 32768) (hs : (s.binding b).state ≠ .empty) :
    exec (.silenceExpiry b) s =
      .next (Work.settle
        { state := s.setBinding b (s.binding b).silence
          latches := [if (s.binding b).state = .armed then [⟨.bindingSilent, .binding b, none⟩] else []] }) := by
  have hexpired : s.expired (s.binding b).timer = true := by
    rw [ht, expired_some]
    exact decide_eq_true h
  exact if_pos (by simp [hexpired, hs])

theorem exec_silenceExpiry_armed (h : (s.fault.time - expiry).toNat < 32768) (hs : (s.binding b).state = .armed) :
    exec (.silenceExpiry b) s = .next
      ((s.setBinding b { s.binding b with state := .disarmed, throttle := 0, turn := .ahead, timer := none }).latched
        ⟨.bindingSilent, .binding b, none⟩) := by
  rw [exec_silenceExpiry_reached ht h (by simp [hs]), if_pos hs, settle_latched, Binding.silence, if_pos hs]

theorem exec_silenceExpiry_disarmed (h : (s.fault.time - expiry).toNat < 32768) (hs : (s.binding b).state = .disarmed) :
    exec (.silenceExpiry b) s = .next
      (s.setBinding b { s.binding b with throttle := 0, turn := .ahead, timer := none }) := by
  have hna : (s.binding b).state ≠ .armed := by simp [hs]
  rw [exec_silenceExpiry_reached ht h (by simp [hs]), if_neg hna, settle_quiet _ rfl rfl, Binding.silence, if_neg hna]

end Silence

/-- A time less than half the counter's range ahead is not reached (assumption 5). -/
theorem timer_ahead (now : Time) {ms : Nat} (h1 : 1 ≤ ms) (h2 : ms ≤ 32768) :
    32768 ≤ (now - (now + BitVec.ofNat 16 ms)).toNat := by
  have hnow := now.isLt
  rw [BitVec.toNat_sub, BitVec.toNat_add, BitVec.toNat_ofNat]
  omega

/-- A frame that a binding has just accepted has restarted its timer: it does not expire then (R54). -/
theorem exec_silenceExpiry_restarted {s : State} {b : BindingId} {x : Binding} (h1 : 100 ≤ s.limits.silence)
    (h2 : s.limits.silence ≤ 2000) (hx : x.timer = some (s.fault.time + BitVec.ofNat 16 s.limits.silence)) :
    exec (.silenceExpiry b) (s.setBinding b x) = .next (s.setBinding b x) := by
  refine exec_silenceExpiry_ahead ?_ (timer_ahead s.fault.time (ms := s.limits.silence) (by omega) (by omega))
  rw [binding_setBinding_same, hx]

theorem time_tick (t : Time) : (t + 1).toNat = if t.toNat = 65535 then 0 else t.toNat + 1 := by
  have := t.isLt
  rw [BitVec.toNat_add]
  split <;> simp <;> omega

/-- Settles O43: the expiry by the binding's state and the time, a restarted timer, and the tick. -/
theorem silenceTimerAndTimeCounter : Obligations.SilenceTimerAndTimeCounter := by
  refine ⟨fun b expiry s ht => ⟨fun h => ⟨exec_silenceExpiry_armed ht h, exec_silenceExpiry_disarmed ht h⟩,
    exec_silenceExpiry_ahead ht⟩, ?_, fun s => ⟨_, rfl, rfl, time_tick s.fault.time⟩⟩
  intro header received check destination source g x y b s hc h16 h63 hb h1 h2 p hmem hp
  obtain rfl | rfl : p = (.drive header received check, 1, [g, x]) ∨ p = (.aux header received check, 2, [g, x, y]) := by
    simpa using hmem
  · rw [(exec_received s hp).1 rfl, receiveDrive_matched ⟨hc, h16, h63⟩ hb]
    exact leads_next (exec_silenceExpiry_restarted h1 h2 rfl)
  · rw [(exec_received s hp).2.1 rfl, receiveAux_matched ⟨hc, h16, h63⟩ hb]
    exact leads_next (exec_silenceExpiry_restarted h1 h2 rfl)

/-! ### The input pins (R55, R156) -/

theorem exec_estopAssertionEdge {s : State} (h : s.pins.estop = false) :
    exec .estopAssertionEdge s = .next
      (State.latched { s.mapBindings Binding.disarm with pins := { s.pins with estop := true } } ⟨.estop, .none, none⟩) := by
  show execEstopAssertionEdge s = _
  rw [execEstopAssertionEdge, if_neg (by simp [h]), settle_latched]

theorem exec_supplyMonitorAssertionEdge {s : State} (h : s.pins.supply = false) :
    exec .supplyMonitorAssertionEdge s = .next
      (State.latched { s with pins := { s.pins with supply := true } } ⟨.supplyLow, .none, none⟩) := by
  show execSupplyMonitorAssertionEdge s = _
  rw [execSupplyMonitorAssertionEdge, if_neg (by simp [h]), settle_latched]

/-- Settles O44: each edge latches once, and the disarming is binding by binding. -/
theorem inputEdgesLatchOnce : Obligations.InputEdgesLatchOnce := fun s =>
  ⟨exec_estopAssertionEdge, exec_supplyMonitorAssertionEdge, rfl, rfl, binding_disarmed s⟩

end Sys2Proof.Machine

/-! SUPPORT. A binding entry: the bytes of its tie (check 1 of R47), and what is stored (R48). -/

namespace Sys2Proof.Machine

/-! ### The bytes of a tie (check 1 of R47) -/

/-- A byte of at least 2 is neither of the codes 0 and 1. -/
theorem byte_ne_of_two_le {b : Byte} (h : 2 ≤ b.toNat) : b ≠ 0 ∧ b ≠ 1 := by
  simp only [← BitVec.toNat_inj, show (0 : Byte).toNat = 0 from rfl, show (1 : Byte).toNat = 1 from rfl, ne_eq]
  omega

theorem byte_one_of_lt_two {b : Byte} (h : b.toNat < 2) (h0 : b ≠ 0) : b = 1 := by
  simp only [← BitVec.toNat_inj, show (0 : Byte).toNat = 0 from rfl, show (1 : Byte).toNat = 1 from rfl, ne_eq] at *
  omega

theorem driverClassOf_none {b : Byte} (h : 2 ≤ b.toNat) : driverClassOf b = none := by
  rw [driverClassOf, if_neg (byte_ne_of_two_le h).1, if_neg (byte_ne_of_two_le h).2]

theorem driverClassOf_some {b : Byte} (h : b.toNat < 2) :
    driverClassOf b = some (if b = 0 then .driver else .marshal) := by
  unfold driverClassOf
  split
  · rfl
  · rename_i h0
    exact if_pos (byte_one_of_lt_two h h0)

theorem moveUnitOf_convoy {index : Byte} {c : ConvoyId} (hc : c.val = index.toNat) :
    moveUnitOf 0 index = some (.convoy c) := by
  have hindex : convoyOf index = some c := by
    unfold convoyOf
    split
    · exact congrArg some (Fin.ext hc.symm)
    · rename_i h
      exact absurd (hc ▸ c.isLt) h
  rw [moveUnitOf, if_pos rfl, hindex, Option.map_some]

theorem moveUnitOf_vehicle {index : Byte} {v : VehicleId} (hv : v.val = index.toNat) :
    moveUnitOf 1 index = some (.vehicle v) := by
  rw [moveUnitOf, if_neg (by decide), if_pos rfl, vehicleOf_val hv, Option.map_some]

theorem moveUnitOf_none {kind index : Byte}
    (h : 2 ≤ kind.toNat ∨ (kind = 0 ∧ 12 ≤ index.toNat) ∨ (kind = 1 ∧ 64 ≤ index.toNat)) : moveUnitOf kind index = none := by
  rcases h with h | ⟨rfl, h⟩ | ⟨rfl, h⟩
  · rw [moveUnitOf, if_neg (byte_ne_of_two_le h).1, if_neg (byte_ne_of_two_le h).2]
  · rw [moveUnitOf, if_pos rfl, convoyOf, dif_neg (Nat.not_lt.mpr h), Option.map_none]
  · rw [moveUnitOf, if_neg (by decide), if_pos rfl, vehicleOf_none h, Option.map_none]

section TieBytes

variable {inUse node group cls kind index : Byte} {more : List Byte}

theorem bindingTieOf_eq {t : MoveUnit} (hc : cls.toNat < 2) (ht : moveUnitOf kind index = some t) :
    bindingTieOf (inUse :: node :: group :: cls :: kind :: index :: more) =
      if 16 ≤ node.toNat ∧ node.toNat ≤ 63 ∧ group.toNat ≤ 3 then
        some ⟨node, group.toNat, if cls = 0 then .driver else .marshal, t⟩
      else none := by
  simp only [bindingTieOf, driverClassOf_some hc, ht]

theorem bindingTieOf_none_of_class (h : 2 ≤ cls.toNat) :
    bindingTieOf (inUse :: node :: group :: cls :: kind :: index :: more) = none := by
  simp only [bindingTieOf, driverClassOf_none h]

theorem bindingTieOf_none_of_target (hc : cls.toNat < 2) (h : moveUnitOf kind index = none) :
    bindingTieOf (inUse :: node :: group :: cls :: kind :: index :: more) = none := by
  simp only [bindingTieOf, driverClassOf_some hc, h]

theorem bindingTieOf_bad
    (h : node.toNat < 16 ∨ 63 < node.toNat ∨ 3 < group.toNat ∨ 2 ≤ cls.toNat ∨ 2 ≤ kind.toNat ∨
      (kind = 0 ∧ 12 ≤ index.toNat) ∨ (kind = 1 ∧ 64 ≤ index.toNat)) :
    bindingTieOf (inUse :: node :: group :: cls :: kind :: index :: more) = none := by
  by_cases hc : 2 ≤ cls.toNat
  · exact bindingTieOf_none_of_class hc
  · cases ht : moveUnitOf kind index with
    | none => exact bindingTieOf_none_of_target (Nat.lt_of_not_le hc) ht
    | some t =>
      rw [bindingTieOf_eq (Nat.lt_of_not_le hc) ht]
      refine if_neg fun ⟨h16, h63, hg⟩ => ?_
      rcases h with h | h | h | h | h
      · omega
      · omega
      · omega
      · exact hc h
      · rw [moveUnitOf_none h] at ht
        cases ht

theorem bindingTieOf_good {t : MoveUnit}
    (h : ¬(node.toNat < 16 ∨ 63 < node.toNat ∨ 3 < group.toNat ∨ 2 ≤ cls.toNat ∨ 2 ≤ kind.toNat ∨
      (kind = 0 ∧ 12 ≤ index.toNat) ∨ (kind = 1 ∧ 64 ≤ index.toNat)))
    (ht : moveUnitOf kind index = some t) :
    bindingTieOf (inUse :: node :: group :: cls :: kind :: index :: more) =
      some ⟨node, group.toNat, if cls = 0 then .driver else .marshal, t⟩ := by
  simp only [not_or, Nat.not_lt, Nat.not_le] at h
  obtain ⟨h16, h63, hg, hc, -⟩ := h
  rw [bindingTieOf_eq hc ht, if_pos ⟨h16, h63, hg⟩]

end TieBytes

/-! ### One binding entry, judged and applied (R48) -/

theorem rewrite_binding_eq (b : Binding) (t : BindingTie) :
    b.rewrite t =
      if b.state ≠ .empty ∧ ∃ o ∈ b.tie, o.node = t.node ∧ o.group = t.group ∧ o.target = t.target then
        { b with tie := some t }
      else ⟨.disarmed, some t, 0, .ahead, 0, none⟩ := by
  simp only [Binding.rewrite, tied_iff, Bool.and_eq_true, decide_eq_true_eq, and_assoc]
  rfl

theorem bindingInUse_iff (inUse : Byte) (bytes : List Byte) : bindingInUse (inUse :: bytes) = true ↔ inUse ≠ 0 := by
  simp [bindingInUse, flagOf]

theorem bindingIndex_toNat (b : BindingId) : (BitVec.ofNat 8 b.val : Byte).toNat = b.val := by
  have := b.isLt
  simp only [BitVec.toNat_ofNat]
  omega

section Entry

variable {s : State} {b : BindingId} {inUse : Byte} {bytes : List Byte}

theorem judgeBinding_emptied (h : inUse = 0) :
    judgeBinding (BitVec.ofNat 8 b.val : Byte).toNat (inUse :: bytes) s = { state := s.setBinding b .blank, status := .ok } := by
  rw [bindingIndex_toNat, judgeBinding, dif_pos b.isLt, if_neg fun k => (bindingInUse_iff _ _).mp k h]

theorem judgeBinding_bad (h : inUse ≠ 0) (ht : bindingTieOf (inUse :: bytes) = none) :
    judgeBinding (BitVec.ofNat 8 b.val : Byte).toNat (inUse :: bytes) s = { state := s, status := .refused .badValue } := by
  rw [bindingIndex_toNat, judgeBinding, dif_pos b.isLt, if_pos ((bindingInUse_iff _ _).mpr h), ht]

theorem judgeBinding_refused {t : BindingTie} {r : Reason} (h : inUse ≠ 0) (ht : bindingTieOf (inUse :: bytes) = some t)
    (hr : s.bindingRefusal b t = some r) :
    judgeBinding (BitVec.ofNat 8 b.val : Byte).toNat (inUse :: bytes) s = { state := s, status := .refused r } := by
  rw [bindingIndex_toNat, judgeBinding, dif_pos b.isLt, if_pos ((bindingInUse_iff _ _).mpr h), ht]
  dsimp only
  rw [hr]

theorem judgeBinding_stored {t : BindingTie} (h : inUse ≠ 0) (ht : bindingTieOf (inUse :: bytes) = some t)
    (hr : s.bindingRefusal b t = none) :
    judgeBinding (BitVec.ofNat 8 b.val : Byte).toNat (inUse :: bytes) s =
      { state := s.setBinding b ((s.binding b).rewrite t), status := .ok } := by
  rw [bindingIndex_toNat, judgeBinding, dif_pos b.isLt, if_pos ((bindingInUse_iff _ _).mpr h), ht]
  dsimp only
  rw [hr]

variable {source tag : Byte} {rest : List MgmtEntry}
  (hhead : s.hasHead source 3 tag (0 :: BitVec.ofNat 8 b.val :: 1 :: inUse :: bytes) rest) (hlen : bytes.length = 11)
include hhead hlen

theorem exec_bindingWrite_refused {r : Reason}
    (hjudge : judgeBinding (BitVec.ofNat 8 b.val : Byte).toNat (inUse :: bytes) s = { state := s, status := .refused r }) :
    exec .bindingWrite s = .next (s.answered source rest [3, tag, 2, r.code, 3, r.code]) :=
  writeStep_quiet 12 judgeBinding hhead (congrArg Nat.succ hlen) hjudge rfl

theorem exec_bindingWrite_stored {x : Binding}
    (hjudge : judgeBinding (BitVec.ofNat 8 b.val : Byte).toNat (inUse :: bytes) s =
      { state := s.setBinding b x, status := .ok }) :
    exec .bindingWrite s = .next ((s.setBinding b x).answered source rest [3, tag, 0, 0, 0, 0]) :=
  writeStep_quiet 12 judgeBinding hhead (congrArg Nat.succ hlen) hjudge rfl

end Entry

/-- Settles O17: the entry by its in-use byte, its tie and the checks; the ranges of the tie; and the checks in their order. -/
theorem bindingEntryFillsOrEmptiesBinding : Obligations.BindingEntryFillsOrEmptiesBinding := by
  refine ⟨fun source tag rest b inUse bytes s hhead hlen => ⟨fun h => ?emptied, fun h ht => ?bad, fun t h ht =>
    ⟨fun r hr => ?refused, fun hr => ?stored⟩⟩, fun inUse node group cls kind index more => ⟨bindingTieOf_bad, ?good⟩,
    fun b t s => ?checks⟩
  case emptied => exact exec_bindingWrite_stored hhead hlen (judgeBinding_emptied h)
  case bad => exact exec_bindingWrite_refused hhead hlen (judgeBinding_bad h ht)
  case refused => exact exec_bindingWrite_refused hhead hlen (judgeBinding_refused h ht hr)
  case stored =>
    rw [← rewrite_binding_eq]
    exact exec_bindingWrite_stored hhead hlen (judgeBinding_stored h ht hr)
  case good =>
    rintro hgood u (⟨c, rfl, rfl, hc⟩ | ⟨v, rfl, rfl, hv⟩)
    · exact bindingTieOf_good hgood (moveUnitOf_convoy hc)
    · exact bindingTieOf_good hgood (moveUnitOf_vehicle hv)
  case checks =>
    obtain ⟨hmissing, htaken, hfree⟩ := bindingRefusal_spec s b t
    exact ⟨fun h => by rw [hmissing h]; rfl, fun h k => by rw [htaken h k]; rfl, hfree⟩

end Sys2Proof.Machine

/-! SUPPORT. Speed shaping: the demand, the gap factor and the target speed (R57, R64, R65), and one frame's computation
(R58, R59, R68 to R74). -/

namespace Sys2Proof.Machine

/-! ### Units and demand (R57, R82) -/

theorem unitOf_solo {s : State} {v : VehicleId} (h : (s.vehicle v).convoy = none) : s.unitOf v = .vehicle v := by
  simp only [State.unitOf, h]

theorem unitOf_member {s : State} {v : VehicleId} {c : ConvoyId} (h : (s.vehicle v).convoy = some c) :
    s.unitOf v = .convoy c := by
  simp only [State.unitOf, h]

theorem demand_unarmed {s : State} {v : VehicleId} (h : ∀ b, s.bindingOn (s.unitOf v) = some b → b.state ≠ .armed) :
    s.demand v = 0 := by
  unfold State.demand State.unitBinding
  dsimp only
  split
  · rename_i b hb
    exact if_neg (by simp [h b hb])
  · rfl

section Armed

variable {s : State} {v : VehicleId} {b : Binding} (hb : s.bindingOn (s.unitOf v) = some b) (ha : b.state = .armed)
include hb ha

theorem demand_solo (h : (s.vehicle v).convoy = none) : s.demand v = b.throttle := by
  simp [State.demand, State.unitBinding, hb, ha, h]

theorem demand_member {c : ConvoyId} (h : (s.vehicle v).convoy = some c) :
    s.demand v = if (s.convoy c).state = .rolling ∨ (s.convoy c).state = .holdPending then b.throttle else 0 := by
  simp [State.demand, State.unitBinding, hb, ha, h]

end Armed

/-! ### The place of a tractor in its convoy (R80) -/

theorem isLead_iff {c : Convoy} {v : VehicleId} {lead : Member} {followers : List Member}
    (h : c.members = lead :: followers) : c.isLead v = true ↔ lead.tractor = v := by
  simp [Convoy.isLead, h]

theorem isLead_follower {c : Convoy} {v : VehicleId} {lead : Member} {followers : List Member}
    (h : c.members = lead :: followers) (hl : lead.tractor ≠ v) : c.isLead v = false :=
  Bool.eq_false_iff.mpr (mt (isLead_iff h).mp hl)

theorem member?_of_first {c : Convoy} {v : VehicleId} {lead m : Member} {pre post : List Member}
    (h : c.members = lead :: (pre ++ m :: post)) (hl : lead.tractor ≠ v) (hm : m.tractor = v)
    (hpre : ∀ n ∈ pre, n.tractor ≠ v) : c.member? v = some m := by
  have hnone : pre.find? (fun n => n.tractor = v) = none := by simpa using hpre
  rw [Convoy.member?, h, List.find?_cons_of_neg (by simpa using hl), List.find?_append, hnone,
    List.find?_cons_of_pos (by simpa using hm), Option.none_or]

/-! ### The gap, its factor and the chain load (R64, R65, R91) -/

theorem gapBetween_known (p q : Segment) :
    gapBetween (some p) (some q) =
      if p.val / 64 = q.val / 64 ∧ q.val % 64 ≤ p.val % 64 then .known (p.val % 64 - q.val % 64) else .unknown := rfl

theorem gapBetween_absent (x : Option Segment) : gapBetween x none = .unknown := by
  cases x <;> rfl

theorem gapFactor_eq (demand : Int) (gap : Gap) (gmin gmax : Nat) :
    gapFactor demand gap gmin gmax =
      if 0 < demand then
        match gap with
        | .known g =>
          if g < gmin then max 0 (16 - 6 * ((gmin : Int) - g))
          else if g ≤ gmax then 16
          else min 20 (16 + 2 * ((g : Int) - gmax))
        | _ => 16
      else 16 := by
  unfold gapFactor
  by_cases hd : 0 < demand
  · rw [if_neg (Int.not_le.mpr hd), if_pos hd]
    cases gap with
    | known g =>
      dsimp only
      refine if_congr Iff.rfl rfl ?_
      by_cases hg : g ≤ gmax
      · rw [if_pos hg, if_neg (Nat.not_lt.mpr hg)]
      · rw [if_neg hg, if_pos (Nat.lt_of_not_le hg)]
    | absent => rfl
    | unknown => rfl
  · rw [if_neg hd, if_pos (Int.not_lt.mp hd)]

theorem gapFactorOf_solo {s : State} {v : VehicleId} (h : (s.vehicle v).convoy = none) : s.gapFactorOf v = 16 := by
  simp only [State.gapFactorOf, State.followerEntry, h]

theorem gapFactorOf_lead {s : State} {v : VehicleId} {c : ConvoyId} {lead : Member} {followers : List Member}
    (h : (s.vehicle v).convoy = some c) (hm : (s.convoy c).members = lead :: followers) (hl : lead.tractor = v) :
    s.gapFactorOf v = 16 := by
  simp only [State.gapFactorOf, State.followerEntry, h, (isLead_iff hm).mpr hl, if_true]

theorem gapFactorOf_follower {s : State} {v : VehicleId} {c : ConvoyId} {lead m : Member} {pre post : List Member}
    (h : (s.vehicle v).convoy = some c) (hm : (s.convoy c).members = lead :: (pre ++ m :: post)) (hl : lead.tractor ≠ v)
    (hv : m.tractor = v) (hpre : ∀ n ∈ pre, n.tractor ≠ v) :
    s.gapFactorOf v = gapFactor (s.demand v) m.gap m.gmin m.gmax := by
  simp only [State.gapFactorOf, State.followerEntry, h, isLead_follower hm hl, member?_of_first hm hl hv hpre,
    Bool.false_eq_true, if_false]

theorem targetSpeed_eq (s : State) (v : VehicleId) :
    s.targetSpeed v =
      (max (-127) (min 127 ((s.demand v * s.gapFactorOf v).tdiv 16)) * (32 - 2 * (s.chainLoad v : Int))).tdiv 32 := rfl

/-- The vehicles of a chain, by what stands behind them (R65, R138). -/
theorem chain_cases (s : State) (v : VehicleId) :
    (s.behind v = none → s.rearBy 2 v = []) ∧
      ∀ a, s.behind v = some a →
        (s.behind a = none → s.rearBy 2 v = [a]) ∧ ∀ b, s.behind a = some b → s.rearBy 2 v = [a, b] := by
  refine ⟨fun h => rearBy_none h 2, fun a ha => ⟨fun h => ?_, fun b hb => ?_⟩⟩
  · rw [rearBy_some ha, rearBy_none h]
  · rw [rearBy_some ha, rearBy_some hb]
    rfl

/-- Settles O46: each stage by its cases, and the binding, the unit and the chain that they speak of. -/
theorem demandGapAndLoad : Obligations.DemandGapAndLoad := by
  refine ⟨fun s v => ⟨demand_unarmed, fun b hb ha => ⟨fun h => ⟨unitOf_solo h, demand_solo hb ha h⟩,
      fun c h => ⟨unitOf_member h, demand_member hb ha h⟩⟩⟩,
    ⟨gapBetween_known, fun x => rfl, gapBetween_absent⟩,
    ⟨gapFactor_eq, fun s v => gapFactorOf_solo, fun s v c h => ⟨fun lead followers => gapFactorOf_lead h,
      fun lead pre m post => gapFactorOf_follower h⟩, targetSpeed_eq, fun s v => ?load⟩,
    fun s v => ⟨unitOf_solo, fun c => unitOf_member⟩, bindingOn_spec, fun s v => ?chain⟩
  case load =>
    obtain ⟨hnone, hsome⟩ := chain_cases s v
    refine ⟨fun h => ?_, fun a ha => ⟨fun h => ?_, fun b hb => ?_⟩⟩
    · simp [State.chainLoad, hnone h]
    · simp [State.chainLoad, (hsome a ha).1 h]
    · simp [State.chainLoad, (hsome a ha).2 b hb]
  case chain =>
    obtain ⟨hnone, hsome⟩ := chain_cases s v
    exact ⟨fun h => congrArg _ (hnone h), fun a ha => ⟨fun h => congrArg _ ((hsome a ha).1 h),
      fun b hb => congrArg _ ((hsome a ha).2 b hb)⟩⟩

end Sys2Proof.Machine

/-! SUPPORT. One frame's computation: the caps (R70, R71), the pulse (R73), the forward-stop reason (R68, R101, R134), the turn
code (R58, R74) and the aux flags (R59). -/

namespace Sys2Proof.Machine

/-! ### The frame of a tractor and of a trailer (R61, R62) -/

theorem shape_tractor {s : State} {v : VehicleId} (h : (s.vehicle v).kind = .tractor) :
    s.shape v =
      { speed := s.outputSpeed v
        pulse := pulseValue (s.outputSpeed v) (s.vehicle v).span (s.vehicle v).trim
        turn := s.turnCode v
        aux := s.tractorAux v
        stopReason := s.forwardStop v } := by
  simp only [State.shape, State.auxFlags, h]

theorem shape_trailer {s : State} {v : VehicleId} (h : (s.vehicle v).kind = .trailer) :
    s.shape v = { speed := 0, pulse := 1500, turn := .ahead, aux := s.auxFlags v, stopReason := none } := by
  simp only [State.shape, h]

/-! ### The caps (R70 to R72) -/

theorem hardZero_iff (s : State) (v : VehicleId) :
    s.hardZero v = true ↔ s.pins.estop = true ∨ (s.vehicle v).link ≠ .online := by
  simp [State.hardZero]

theorem outputSpeed_stopped {s : State} {v : VehicleId} (h : s.pins.estop = true ∨ (s.vehicle v).link ≠ .online) :
    s.outputSpeed v = 0 :=
  if_pos ((hardZero_iff s v).mpr h)

theorem outputSpeed_driven {s : State} {v : VehicleId} (he : s.pins.estop = false) (hl : (s.vehicle v).link = .online) :
    s.outputSpeed v = max (-(s.capReverse v : Int)) (min (s.capForward v) (s.ramped v)) :=
  if_neg (by simp [hardZero_iff, he, hl])

theorem outputSpeed_range (s : State) (v : VehicleId) :
    -(s.capReverse v : Int) ≤ s.outputSpeed v ∧ s.outputSpeed v ≤ s.capForward v := by
  unfold State.outputSpeed
  split
  · omega
  · exact clampInt_range _ _ _ (by omega)

theorem capForward_stopped {s : State} {v : VehicleId} (h : s.forwardStop v ≠ none) : s.capForward v = 0 := by
  rw [State.capForward, Option.isSome_iff_ne_none.mpr h]
  rfl

/-- A vehicle of the chain reports no battery, or one below the floor (R70). -/
theorem crawlTerm_low {s : State} {v : VehicleId}
    (h : ∃ w ∈ s.chain v, ∀ b ∈ (s.vehicle w).battery, b.toNat < s.limits.batteryFloor) :
    s.crawlTerm v = some s.limits.crawlCap := by
  obtain ⟨w, hw, hb⟩ := h
  refine if_pos (List.any_eq_true.mpr ⟨w, hw, ?_⟩)
  split
  · rename_i b hbattery
    exact decide_eq_true (hb b hbattery)
  · rfl

theorem crawlTerm_charged {s : State} {v : VehicleId}
    (h : ∀ w ∈ s.chain v, ∃ b ∈ (s.vehicle w).battery, s.limits.batteryFloor ≤ b.toNat) : s.crawlTerm v = none := by
  refine if_neg fun hany => ?_
  obtain ⟨w, hw, hlow⟩ := List.any_eq_true.mp hany
  obtain ⟨b, hb, hfloor⟩ := h w hw
  rw [Option.mem_def.mp hb] at hlow
  exact absurd (of_decide_eq_true hlow) (Nat.not_lt.mpr hfloor)

/-- The two caps with a crawl term and without (R71). -/
theorem caps_eq (s : State) (v : VehicleId) :
    let zone := s.zoneCap (s.vehicle v).current (s.vehicle v).ahead
    (∀ cap, s.crawlTerm v = some cap →
      s.capForward v = (if s.forwardStop v = none then min zone cap else 0) ∧
        s.capReverse v = min (min zone s.limits.reverseCap) cap) ∧
      (s.crawlTerm v = none →
        s.capForward v = (if s.forwardStop v = none then zone else 0) ∧ s.capReverse v = min zone s.limits.reverseCap) := by
  refine ⟨fun cap h => ⟨?_, ?_⟩, fun h => ⟨?_, ?_⟩⟩
  · cases hf : s.forwardStop v <;> simp [State.capForward, forwardCap, h, hf]
  · simp [State.capReverse, backwardCap, h]
  · cases hf : s.forwardStop v <;> simp [State.capForward, forwardCap, h, hf]
  · simp [State.capReverse, backwardCap, h]

/-! ### The pulse (R73) -/

theorem pulseValue_range (speed : Int) (span : Nat) (trim : Int) :
    1000 ≤ pulseValue speed span trim ∧ pulseValue speed span trim ≤ 2000 :=
  clampInt_range 1000 2000 _ (by decide)

/-- The offset misses speed × span ÷ 127 by the rounding of a magnitude, times the sign of the speed. -/
theorem pulseOffset_error (speed : Int) (span : Nat) :
    127 * pulseOffset speed span - speed * span =
      speed.sign * (127 * (((2 * (speed.natAbs * span) + 127) / 254 : Nat) : Int) - ((speed.natAbs * span : Nat) : Int)) := by
  have hspeed : speed * span = speed.sign * ((speed.natAbs * span : Nat) : Int) := by
    rw [Nat.cast_mul, ← mul_assoc, Int.sign_mul_natAbs]
  rw [pulseOffset, hspeed, Nat.mul_assoc]
  ring

/-- Twice the rounding error of a magnitude is an even number of at most 127. -/
theorem rounding_error (n : Nat) : 2 * |127 * (((2 * n + 127) / 254 : Nat) : Int) - (n : Int)| < 127 := by
  rcases abs_cases (127 * (((2 * n + 127) / 254 : Nat) : Int) - (n : Int)) with ⟨h, -⟩ | ⟨h, -⟩ <;> rw [h] <;> omega

theorem pulseOffset_rounds (speed : Int) (span : Nat) : 2 * |127 * pulseOffset speed span - speed * span| < 127 := by
  have hsign : |speed.sign| ≤ 1 := by
    rcases Int.sign_trichotomy speed with h | h | h <;> simp [h]
  rw [pulseOffset_error, abs_mul]
  have herror := rounding_error (speed.natAbs * span)
  have hless := mul_le_of_le_one_left (abs_nonneg (127 * (((2 * (speed.natAbs * span) + 127) / 254 : Nat) : Int) -
    ((speed.natAbs * span : Nat) : Int))) hsign
  omega

/-! ### The forward-stop reason (R68, R101, R134) -/

/-- The unit looks into another single-lane range, which it does not hold (R134). -/
def State.waitsForLane (s : State) (v : VehicleId) : Prop :=
  ∃ r, s.lookupOf (s.vehicle v).ahead = some r ∧ s.lookupOf (s.vehicle v).current ≠ some r ∧
    1 ≤ (s.zone r).rules.capacity ∧ ∀ h ∈ (s.lane r).holders, h.unit ≠ s.unitOf v

theorem lookupOf_valid {s : State} {seg : Option Segment} {r : RangeId} (h : s.lookupOf seg = some r) :
    (s.zone r).valid = true := by
  obtain ⟨g, -, hg⟩ := Option.bind_eq_some_iff.mp h
  have hcovers : (s.zone r).covers g = true := List.find?_some (p := fun r => (s.zone r).covers g) hg
  simp only [Range.covers, Bool.and_eq_true] at hcovers
  exact hcovers.1.1

theorem laneRangeOf_iff (s : State) (seg : Option Segment) (r : RangeId) :
    s.laneRangeOf seg = some r ↔ s.lookupOf seg = some r ∧ 1 ≤ (s.zone r).rules.capacity := by
  unfold State.laneRangeOf
  cases h : s.lookupOf seg with
  | none => simp
  | some q =>
    have hsingle : (s.zone q).singleLane = decide (1 ≤ (s.zone q).rules.capacity) := by
      rw [Range.singleLane, lookupOf_valid h, Bool.true_and]
    simp only [hsingle, decide_eq_true_eq, Option.ite_none_right_eq_some, Option.some.injEq]
    constructor
    · rintro ⟨hc, rfl⟩
      exact ⟨rfl, hc⟩
    · rintro ⟨rfl, hc⟩
      exact ⟨hc, rfl⟩

theorem crosses_iff (s : State) (current ahead : Option Segment) :
    s.crosses current ahead = true ↔ ahead ≠ none ∧ s.lookupOf ahead ≠ s.lookupOf current := by
  simp [State.crosses, Option.isSome_iff_ne_none]

theorem not_holds_iff (l : Lane) (u : MoveUnit) : l.holds u = false ↔ ∀ h ∈ l.holders, h.unit ≠ u := by
  simp [Lane.holds]

theorem forwardStop_crossing {s : State} {v : VehicleId} {k : StopReason}
    (h : s.crossingReason (s.vehicle v).current (s.vehicle v).ahead (s.controllingClass v) = some k) :
    s.forwardStop v = some k := by
  simp only [State.forwardStop, h]

section NoCrossing

variable {s : State} {v : VehicleId}
  (h : s.crossingReason (s.vehicle v).current (s.vehicle v).ahead (s.controllingClass v) = none)
include h

theorem forwardStop_waits (hw : s.waitsForLane v) : s.forwardStop v = some .laneWait := by
  obtain ⟨r, hr, hcurrent, hcap, hfree⟩ := hw
  have hlane : s.laneRangeOf (s.vehicle v).ahead = some r := (laneRangeOf_iff s _ r).mpr ⟨hr, hcap⟩
  have hcross : s.crosses (s.vehicle v).current (s.vehicle v).ahead = true :=
    (crosses_iff s _ _).mpr ⟨fun e => by simp [e, State.lookupOf] at hr, fun e => hcurrent (e ▸ hr)⟩
  simp only [State.forwardStop, h, hcross, hlane, (not_holds_iff _ _).mpr hfree, Bool.not_false, Bool.and_self, if_true]

theorem forwardStop_trail (hw : ¬s.waitsForLane v) : s.forwardStop v = s.trailReason v := by
  simp only [State.forwardStop, h]
  refine if_neg fun hwaits => hw ?_
  obtain ⟨hcross, hlane⟩ := (Bool.and_eq_true _ _).mp hwaits
  split at hlane
  · rename_i r hr
    obtain ⟨hlook, hcap⟩ := (laneRangeOf_iff s _ r).mp hr
    exact ⟨r, hlook, fun e => ((crosses_iff s _ _).mp hcross).2 (hlook.trans e.symm), hcap,
      (not_holds_iff _ _).mp (by simpa using hlane)⟩
  · cases hlane

end NoCrossing

theorem trailReason_solo {s : State} {v : VehicleId} (h : (s.vehicle v).convoy = none) : s.trailReason v = none := by
  simp only [State.trailReason, h]

/-- A follower misses its entry where it looks at a junction that the entry at its cursor does not name (R101). -/
theorem trailMissed_iff {s : State} {c : Convoy} {v : VehicleId} {m : Member} (hm : c.member? v = some m) :
    s.trailMissed c v = true ↔
      s.isJunction (s.vehicle v).ahead = true ∧ (c.trail[m.cursor]?).map TrailEntry.segment ≠ (s.vehicle v).ahead := by
  cases ha : (s.vehicle v).ahead with
  | none => simp [State.trailMissed, ha, State.isJunction]
  | some a => cases he : c.trail[m.cursor]? <;> simp [State.trailMissed, ha, hm, Convoy.entryAt, he]

section Member

variable {s : State} {v : VehicleId} {c : ConvoyId} {lead : Member} (h : (s.vehicle v).convoy = some c)
include h

theorem trailReason_lead {followers : List Member} (hm : (s.convoy c).members = lead :: followers) (hl : lead.tractor = v) :
    s.trailReason v =
      if (s.convoy c).trail.length = 16 ∧ s.isJunction (s.vehicle v).ahead = true then some .trailFull else none := by
  simp [State.trailReason, h, (isLead_iff hm).mpr hl]

theorem turnCode_lead {followers : List Member} (hm : (s.convoy c).members = lead :: followers) (hl : lead.tractor = v) :
    s.turnCode v = s.turnRequest v := by
  simp only [State.turnCode, h, (isLead_iff hm).mpr hl, if_true]

variable {m : Member} {pre post : List Member} (hm : (s.convoy c).members = lead :: (pre ++ m :: post))
  (hl : lead.tractor ≠ v) (hv : m.tractor = v) (hpre : ∀ n ∈ pre, n.tractor ≠ v)
include hm hl hv hpre

theorem trailReason_follower :
    s.trailReason v =
      if s.isJunction (s.vehicle v).ahead = true ∧
          ((s.convoy c).trail[m.cursor]?).map TrailEntry.segment ≠ (s.vehicle v).ahead then some .trailMiss
      else none := by
  simp only [State.trailReason, h, isLead_follower hm hl, Bool.false_eq_true, if_false,
    trailMissed_iff (member?_of_first hm hl hv hpre)]

/-! ### The turn code and the aux flags (R58, R59, R74) -/

theorem turnCode_entry {e : TrailEntry} (he : (s.convoy c).trail[m.cursor]? = some e)
    (ha : some e.segment = (s.vehicle v).ahead) (hj : s.isJunction (s.vehicle v).ahead = true) : s.turnCode v = e.turn := by
  rw [← ha] at hj
  simp only [State.turnCode, h, isLead_follower hm hl, ← ha, hj, member?_of_first hm hl hv hpre, Convoy.entryAt, he,
    Bool.false_eq_true, if_false, if_true]

theorem turnCode_ahead
    (ha : s.isJunction (s.vehicle v).ahead = false ∨
      ((s.convoy c).trail[m.cursor]?).map TrailEntry.segment ≠ (s.vehicle v).ahead) : s.turnCode v = .ahead := by
  simp only [State.turnCode, h, isLead_follower hm hl, member?_of_first hm hl hv hpre, Convoy.entryAt, Bool.false_eq_true,
    if_false]
  cases hahead : (s.vehicle v).ahead with
  | none => rfl
  | some a =>
    rw [hahead] at ha
    dsimp only
    split
    · rename_i hj
      have hne := ha.resolve_left (by simp [hj])
      cases he : (s.convoy c).trail[m.cursor]? with
      | none => rfl
      | some e => exact if_neg fun hseg => hne (by rw [he, Option.map_some, hseg])
    · rfl

end Member

theorem turnCode_solo {s : State} {v : VehicleId} (h : (s.vehicle v).convoy = none) : s.turnCode v = s.turnRequest v := by
  simp only [State.turnCode, h]

theorem turnRequest_eq (s : State) (v : VehicleId) :
    s.turnRequest v = match s.bindingOn (s.unitOf v) with
      | some b => b.turn
      | none => .ahead := by
  unfold State.turnRequest State.unitBinding
  cases s.bindingOn (s.unitOf v) <;> rfl

/-- The flags of its own binding, else of its convoy's, else clear (R59). -/
theorem tractorAux_eq (s : State) (v : VehicleId) :
    s.tractorAux v = match s.bindingOn (.vehicle v), (s.vehicle v).convoy with
      | some b, _ => b.aux
      | none, some c => (match s.bindingOn (.convoy c) with
        | some b => b.aux
        | none => 0)
      | none, none => 0 := by
  unfold State.tractorAux State.ownBinding State.unitBinding
  cases s.bindingOn (.vehicle v) with
  | some b => rfl
  | none =>
    cases hc : (s.vehicle v).convoy with
    | none => rfl
    | some c =>
      rewrite [unitOf_member hc]
      rfl

theorem auxFlags_own {s : State} {v : VehicleId} {b : Binding} (hk : (s.vehicle v).kind = .trailer)
    (hb : s.bindingOn (.vehicle v) = some b) : s.auxFlags v = b.aux := by
  simp only [State.auxFlags, State.ownBinding, hk, hb]

theorem auxFlags_chain {s : State} {v : VehicleId} (hk : (s.vehicle v).kind = .trailer)
    (hb : s.bindingOn (.vehicle v) = none) :
    s.auxFlags v = if (s.vehicle (s.foremost v)).kind = .tractor then s.tractorAux (s.foremost v) &&& 15 else 0 := by
  simp only [State.auxFlags, State.ownBinding, hk, hb]

/-- The class of the unit's binding, or DRIVER where it has none (R58). -/
theorem controllingClass_eq (s : State) (v : VehicleId) :
    s.controllingClass v = match s.bindingOn (s.unitOf v) with
      | some ⟨_, some t, _, _, _, _⟩ => t.cls
      | _ => .driver := by
  unfold State.controllingClass State.unitBinding
  cases s.bindingOn (s.unitOf v) with
  | none => rfl
  | some b =>
    obtain ⟨state, tie, throttle, turn, aux, timer⟩ := b
    cases tie <;> rfl

/-- Settles O48: the frame field by field. -/
theorem frameStaysWithinCaps : Obligations.FrameStaysWithinCaps := by
  refine ⟨?caps, fun speed span trim => ⟨rfl, (pulseOffset_rounds speed span).le,
    fun h => absurd h (pulseOffset_rounds speed span).ne⟩, ?reason, ?turnAndAux⟩
  case caps =>
    intro s v
    obtain ⟨hcrawl, hfree⟩ := caps_eq s v
    obtain ⟨hlow, hhigh⟩ := outputSpeed_range s v
    refine ⟨fun hk => ?tractor, fun hk => ?trailer, ?pulse⟩
    case tractor =>
      rw [shape_tractor hk]
      refine ⟨outputSpeed_stopped, outputSpeed_driven, rfl, hlow, hhigh, fun hstop => ?_,
        fun h => hcrawl _ (crawlTerm_low h), fun h => hfree (crawlTerm_charged h)⟩
      rw [capForward_stopped hstop] at hhigh
      exact hhigh
    case trailer =>
      rw [shape_trailer hk]
      exact ⟨rfl, rfl, rfl, rfl⟩
    case pulse =>
      cases hk : (s.vehicle v).kind with
      | tractor =>
        rw [shape_tractor hk]
        exact pulseValue_range _ _ _
      | trailer =>
        rw [shape_trailer hk]
        exact show (1000 : Int) ≤ 1500 ∧ (1500 : Int) ≤ 2000 by decide
  case reason =>
    intro s v hk
    rw [shape_tractor hk]
    refine ⟨fun k => forwardStop_crossing, forwardStop_waits, fun hc hw hsolo => ?_,
      fun c hc hw hmember => ⟨fun lead followers hm hl => ?_, fun lead pre m post hm hl hv hpre => ?_⟩,
      controllingClass_eq s v⟩
    · exact (forwardStop_trail hc hw).trans (trailReason_solo hsolo)
    · exact (forwardStop_trail hc hw).trans (trailReason_lead hmember hm hl)
    · exact (forwardStop_trail hc hw).trans (trailReason_follower hmember hm hl hv hpre)
  case turnAndAux =>
    intro s v
    refine ⟨fun hk => ?driven, fun hk => ?carried⟩
    case driven =>
      rw [shape_tractor hk]
      refine ⟨fun h => ?_, fun c lead followers h hm hl => ?_, fun c lead pre m post h hm hl hv hpre =>
        ⟨fun e => turnCode_entry h hm hl hv hpre, turnCode_ahead h hm hl hv hpre⟩, tractorAux_eq s v⟩
      · exact (turnCode_solo h).trans (turnRequest_eq s v)
      · exact (turnCode_lead h hm hl).trans (turnRequest_eq s v)
    case carried =>
      rw [shape_trailer hk]
      refine ⟨fun b => auxFlags_own hk, fun hb => (auxFlags_chain hk hb).trans ?_⟩
      exact if_congr Iff.rfl (congrArg (· &&& 15) (tractorAux_eq s _)) rfl

end Sys2Proof.Machine

/-! SUPPORT. The ramp and the start from rest (R66, R67). -/

namespace Sys2Proof.Machine

/-! ### The cases of the ramp (R66, R67) -/

/-- A nonzero speed is one of the two signs (R2). -/
theorem eq_directionOf_iff {speed : Int} (h : speed ≠ 0) (d : Direction) :
    d = directionOf speed ↔ (d = .forward ∧ 0 < speed) ∨ (d = .reverse ∧ speed < 0) := by
  rcases Int.lt_or_gt_of_ne h with hneg | hpos
  · simp [directionOf, hneg, Int.not_lt.mpr hneg.le]
  · simp [directionOf, hpos, Int.not_lt.mpr hpos.le]

/-- From rest the speed starts where the dwell does not hold it (R67). -/
theorem startSpeed_eq {target : Int} (ht : target ≠ 0) (up dwell : Nat) (direction : Direction) (z : Nat) :
    startSpeed target up dwell direction z =
      if direction = .neutral ∨ (direction = .forward ∧ 0 < target) ∨ (direction = .reverse ∧ target < 0) ∨ dwell ≤ z
      then target.sign * min (target.natAbs : Int) up else 0 := by
  refine if_congr ?_ rfl rfl
  simp only [Bool.or_eq_true, decide_eq_true_eq, eq_directionOf_iff ht, or_assoc]

section Ramp

variable {target previous : Int} (up down dwell : Nat) (direction : Direction) (z : Nat)

theorem rampSpeed_rest (ht : target ≠ 0) :
    rampSpeed target 0 up down dwell direction z = startSpeed target up dwell direction z :=
  if_pos ⟨rfl, ht⟩

theorem rampSpeed_rising (hp : previous ≠ 0) (ht : target ≠ 0) (hs : target.sign = previous.sign)
    (h : previous.natAbs ≤ target.natAbs) :
    rampSpeed target previous up down dwell direction z = target.sign * min (target.natAbs : Int) (previous.natAbs + up) :=
  (if_neg fun k => hp k.1).trans ((if_pos ⟨ht, hs⟩).trans (if_pos (Int.ofNat_le.mpr h)))

theorem rampSpeed_falling (hp : previous ≠ 0) (ht : target ≠ 0) (hs : target.sign = previous.sign)
    (h : target.natAbs < previous.natAbs) :
    rampSpeed target previous up down dwell direction z =
      previous.sign * max (target.natAbs : Int) (previous.natAbs - down) :=
  (if_neg fun k => hp k.1).trans ((if_pos ⟨ht, hs⟩).trans (if_neg (Int.not_le.mpr (Int.ofNat_lt.mpr h))))

/-- With no target, or one of the opposite sign, the speed falls to 0 first (R66). -/
theorem rampSpeed_stopping (h : target = 0 ∨ (previous ≠ 0 ∧ target.sign ≠ previous.sign)) :
    rampSpeed target previous up down dwell direction z = previous.sign * max 0 ((previous.natAbs : Int) - down) := by
  rcases h with rfl | ⟨hp, hs⟩
  · simp [rampSpeed]
  · simp [rampSpeed, hp, hs]

/-- A sign times a magnitude is no larger than the magnitude. -/
theorem natAbs_sign_mul_le (x : Int) {m : Int} {n : Nat} (h0 : 0 ≤ m) (hn : m ≤ n) : (x.sign * m).natAbs ≤ n := by
  rcases Int.sign_trichotomy x with h | h | h <;> rw [h] <;> omega

theorem startSpeed_natAbs_le (target : Int) : (startSpeed target up dwell direction z).natAbs ≤ target.natAbs := by
  unfold startSpeed
  split
  · exact natAbs_sign_mul_le target (by omega) (min_le_left _ _)
  · exact Nat.zero_le _

/-- The ramp leads to no larger speed than it comes from or goes to (R66, R67). -/
theorem rampSpeed_natAbs_le (target previous : Int) :
    (rampSpeed target previous up down dwell direction z).natAbs ≤ max target.natAbs previous.natAbs := by
  have hstopped : (previous.sign * max 0 ((previous.natAbs : Int) - down)).natAbs ≤ max target.natAbs previous.natAbs :=
    natAbs_sign_mul_le previous (by omega) (by omega)
  by_cases ht : target = 0
  · rwa [rampSpeed_stopping _ _ _ _ _ (.inl ht)]
  by_cases hp : previous = 0
  · subst hp
    rw [rampSpeed_rest _ _ _ _ _ ht]
    exact (startSpeed_natAbs_le _ _ _ _ _).trans (le_max_left _ _)
  by_cases hs : target.sign = previous.sign
  · rcases Nat.lt_or_ge target.natAbs previous.natAbs with h | h
    · rw [rampSpeed_falling _ _ _ _ _ hp ht hs h]
      exact natAbs_sign_mul_le previous (by omega) (by omega)
    · rw [rampSpeed_rising _ _ _ _ _ hp ht hs h]
      exact natAbs_sign_mul_le target (by omega) (by omega)
  · rwa [rampSpeed_stopping _ _ _ _ _ (.inr ⟨hp, hs⟩)]

end Ramp

/-- Settles O47: the ramp case by case, and its bound over all of them. -/
theorem rampFollowsStepsAndDwell : Obligations.RampFollowsStepsAndDwell := by
  intro target previous up down dwell direction z
  refine ⟨fun ht => rampSpeed_stopping _ _ _ _ _ (.inl ht), rampSpeed_rising _ _ _ _ _, rampSpeed_falling _ _ _ _ _,
    fun hp _ hs => rampSpeed_stopping _ _ _ _ _ (.inr ⟨hp, hs⟩), fun hp ht => ?_, rampSpeed_natAbs_le _ _ _ _ _ _ _⟩
  rw [hp, rampSpeed_rest _ _ _ _ _ ht, startSpeed_eq ht]

end Sys2Proof.Machine

/-! SUPPORT. The Zone Map's answers: lookup, zone cap and crossing reason (R69, R98, R111, R112, R118 to R120). -/

namespace Sys2Proof.Machine

/-! ### The range of a segment (R112) -/

theorem covers_iff (z : Range) (g : Segment) : z.covers g = true ↔ z.valid = true ∧ z.first ≤ g ∧ g ≤ z.last := by
  simp only [Range.covers, Bool.and_eq_true, decide_eq_true_eq, and_assoc, Fin.le_def]

theorem lookup_some {s : State} {g : Segment} {r : RangeId} (h : s.lookup g = some r) : (s.zone r).covers g = true :=
  List.find?_some (p := fun r => (s.zone r).covers g) h

theorem lookup_none {s : State} {g : Segment} (h : s.lookup g = none) (r : RangeId) : ¬(s.zone r).covers g = true :=
  List.find?_eq_none.mp h r (List.mem_finRange r)

/-- With ranges that lie apart, a segment's range is the one that covers it (R115). -/
theorem lookup_of_covers {s : State} (hs : s.rangesApart) {g : Segment} {r : RangeId} (h : (s.zone r).covers g = true) :
    s.lookup g = some r :=
  find?_of_unique (List.mem_finRange r) h fun a _ ha => by_contra fun hne => hs a r hne g ⟨ha, h⟩

theorem rulesOf_some (s : State) (r : RangeId) : s.rulesOf (some r) = (s.zone r).rules := rfl

theorem isJunction_some (s : State) (g : Segment) : s.isJunction (some g) = (s.rulesOf (s.lookup g)).junction := rfl

/-- A junction segment has a range: the open road has no junction (R98, R111). -/
theorem isJunction_covered {s : State} {g : Segment} (h : s.isJunction (some g) = true) :
    ∃ r, (s.zone r).covers g = true ∧ (s.zone r).rules.junction = true := by
  rw [isJunction_some] at h
  cases hr : s.lookup g with
  | none => rw [hr] at h; cases h
  | some r => rw [hr] at h; exact ⟨r, lookup_some hr, h⟩

theorem isJunction_of_covers {s : State} (hs : s.rangesApart) {g : Segment} {r : RangeId}
    (h : (s.zone r).covers g = true) (hj : (s.zone r).rules.junction = true) : s.isJunction (some g) = true := by
  rwa [isJunction_some, lookup_of_covers hs h]

/-! ### Crossings and caps (R69, R118 to R120) -/

theorem crossingReason_eq (s : State) (current ahead : Option Segment) (cls : DriverClass) :
    s.crossingReason current ahead cls =
      if ahead = none ∨ s.lookupOf ahead = s.lookupOf current then none
      else if (s.rulesOf (s.lookupOf ahead)).entry = false then some .entryClosed
      else if (s.rulesOf (s.lookupOf current)).exit = false then some .exitClosed
      else if (s.rulesOf (s.lookupOf ahead)).marshalOnly = true ∧ (s.rulesOf (s.lookupOf current)).marshalOnly = false ∧
        cls = .driver then some .marshalOnly
      else none := by
  unfold State.crossingReason
  by_cases h : s.crosses current ahead = true
  · rw [if_pos h, if_neg (not_or.mpr ((crosses_iff s current ahead).mp h))]
    simp only [Bool.not_eq_true', Bool.and_eq_true, decide_eq_true_eq, and_assoc]
  · rw [if_neg h, if_pos (by rwa [crosses_iff, not_and_or, not_not, not_not] at h)]

theorem zoneCap_eq (s : State) (current ahead : Option Segment) :
    let here := if current = none then s.limits.unknownCap else (s.rulesOf (s.lookupOf current)).cap
    s.zoneCap current ahead = min here (if ahead = none then here else (s.rulesOf (s.lookupOf ahead)).cap) := by
  cases current <;> cases ahead <;> simp [State.zoneCap, State.lookupOf]

/-- Settles O49: the road rules of a crossing, and what the lookup finds. -/
theorem crossingReasonFollowsRoadRules : Obligations.CrossingReasonFollowsRoadRules := by
  intro s current ahead cls
  refine ⟨crossingReason_eq s current ahead cls, zoneCap_eq s current ahead, rfl, fun g r h => ?found, fun g h r hr => ?openRoad,
    rfl, fun _ => rfl, rfl, fun g h => ?junction, fun hs g r hv hf hl => ?junctionOf⟩
  case found =>
    obtain ⟨hv, hf, hl⟩ := (covers_iff _ g).mp (lookup_some h)
    exact ⟨hv, hf, hl, by rw [h, rulesOf_some]⟩
  case openRoad => exact lookup_none h r ((covers_iff _ g).mpr hr)
  case junction =>
    obtain ⟨r, hr, hj⟩ := isJunction_covered h
    obtain ⟨hv, hf, hl⟩ := (covers_iff _ g).mp hr
    exact ⟨r, hv, hf, hl, hj⟩
  case junctionOf => exact isJunction_of_covers hs ((covers_iff _ g).mpr ⟨hv, hf, hl⟩)

end Sys2Proof.Machine

/-! SUPPORT. The shaping state of one vehicle: the speed of its next frame is in range, and what each event does to its record
(R64 to R67, R71, R72, R76). -/

namespace Sys2Proof.Machine

/-! ### The speed of a frame is in range (R64 to R66, R71) -/

theorem rearBy_length_le (s : State) (n : Nat) (v : VehicleId) : (s.rearBy n v).length ≤ n := by
  induction n generalizing v with
  | zero => exact Nat.zero_le _
  | succ n ih =>
    unfold State.rearBy
    split
    · exact Nat.succ_le_succ (ih _)
    · exact Nat.zero_le _

/-- Two trailers of load class 3 at most (R65, R3). -/
theorem chainLoad_le {s : State} (h : ∀ w, (s.vehicle w).loadClass ≤ 3) (v : VehicleId) : s.chainLoad v ≤ 6 := by
  have hload : ∀ n ∈ (s.rearBy 2 v).map (fun w => (s.vehicle w).loadClass), n ≤ 3 := by
    simpa using fun w _ => h w
  have hsum := List.sum_le_card_nsmul _ 3 hload
  rw [List.length_map, smul_eq_mul] at hsum
  have := rearBy_length_le s 2 v
  unfold State.chainLoad
  omega

/-- A load only slows, and does not turn the direction round (R65). -/
theorem applyLoad_natAbs_le (d1 : Int) {n : Nat} (h : n ≤ 16) : (applyLoad d1 n).natAbs ≤ d1.natAbs := by
  rw [applyLoad, Int.natAbs_tdiv, Int.natAbs_mul]
  refine Nat.div_le_of_le_mul ?_
  rw [Nat.mul_comm]
  exact Nat.mul_le_mul_right _ (by omega)

theorem targetSpeed_natAbs_le {s : State} (h : ∀ w, (s.vehicle w).loadClass ≤ 3) (v : VehicleId) :
    (s.targetSpeed v).natAbs ≤ 127 := by
  have hgap := clampInt_range (-127) 127 ((s.demand v * s.gapFactorOf v).tdiv 16) (by decide)
  refine (applyLoad_natAbs_le _ ((chainLoad_le h v).trans (by decide))).trans ?_
  unfold applyGap
  omega

/-- The caps only slow (R71). -/
theorem applyCaps_natAbs_le (ramped : Int) (capFwd capRev : Nat) :
    (applyCaps ramped capFwd capRev).natAbs ≤ ramped.natAbs := by
  unfold applyCaps clampInt
  omega

/-- A frame's speed is in range where the target and the speed before it are (R66, R71, R72, R62). -/
theorem shape_speed_natAbs_le {s : State} (h : ∀ w, (s.vehicle w).shapingSound) (v : VehicleId) :
    (s.shape v).speed.natAbs ≤ 127 := by
  cases hk : (s.vehicle v).kind with
  | trailer =>
    rw [shape_trailer hk]
    exact Nat.zero_le 127
  | tractor =>
    rw [shape_tractor hk]
    dsimp only
    unfold State.outputSpeed
    split
    · decide
    · have hload (w : VehicleId) : (s.vehicle w).loadClass ≤ 3 := by
        obtain ⟨-, -, -, -, hl⟩ := h w
        exact hl
      exact (applyCaps_natAbs_le _ _ _).trans
        ((rampSpeed_natAbs_le _ _ _ _ _ _ _).trans (max_le (targetSpeed_natAbs_le hload v) (h v).1))

/-! ### What an event does to one record -/

section Record

variable {x : Vehicle} (hx : x.shapingSound)
include hx

/-- The shaping state that a frame build writes agrees with itself (R76). -/
theorem shaping_withFrame {f : Shaped} (hf : f.speed.natAbs ≤ 127) : (x.withFrame f).shapingSound := by
  obtain ⟨-, -, hz, hm, hl⟩ := hx
  refine ⟨hf, fun hmoves => ⟨if_neg hmoves, if_neg hmoves⟩, ?_, hm, hl⟩
  show (if f.speed = 0 then min 15 (x.zeroFrames + 1) else 0) ≤ 15
  split <;> omega

theorem shaping_atRest : x.atRest.shapingSound := by
  obtain ⟨-, -, -, hcounts⟩ := hx
  exact ⟨Nat.zero_le 127, fun hmoves => absurd rfl hmoves, le_refl 15, hcounts⟩

theorem shaping_goLost : x.goLost.shapingSound := shaping_atRest hx

theorem shaping_blankState : x.blankState.shapingSound := by
  obtain ⟨-, -, -, -, hl⟩ := hx
  exact ⟨Nat.zero_le 127, fun hmoves => absurd rfl hmoves, le_refl 15, Nat.zero_le 15, hl⟩

/-- A miss count of 15 at most (R17). -/
theorem shaping_misses {n : Nat} (hn : n ≤ 15) : ({ x with misses := n } : Vehicle).shapingSound := by
  obtain ⟨hspeed, hmoves, hz, -, hl⟩ := hx
  exact ⟨hspeed, hmoves, hz, hn, hl⟩

theorem shaping_withAck (a : Ack) : (x.withAck a).shapingSound := shaping_misses hx (Nat.zero_le 15)

theorem shaping_arrive (a : Assignment) : (x.arrive a).shapingSound := by
  unfold Vehicle.arrive
  split
  · exact hx
  · exact shaping_misses hx (Nat.zero_le 15)

theorem shaping_stagingAt (c : Channel) : (x.stagingAt c).shapingSound := by
  unfold Vehicle.stagingAt
  split
  · rename_i a _
    split
    · split
      · exact shaping_arrive hx a
      · exact hx
    · split
      · split
        · exact shaping_arrive hx a
        · exact hx
      · exact hx
  · exact hx

theorem shaping_acquireAt (c : Channel) : (x.acquireAt c).shapingSound := by
  unfold Vehicle.acquireAt
  split <;> exact hx

theorem shaping_cycleStart (c : Channel) : (x.cycleStart c).shapingSound := by
  unfold Vehicle.cycleStart
  split
  · exact shaping_acquireAt (shaping_stagingAt hx c) c
  · exact hx

theorem shaping_channelLost (c : Channel) (leaves : Bool) : (x.channelLost c leaves).shapingSound := by
  have hlost : (if x.losesChannel c then x.goLost else x).shapingSound := by
    split
    · exact shaping_goLost hx
    · exact hx
  unfold Vehicle.channelLost
  dsimp only
  split <;> exact hlost

/-- The stored configuration brings its own load class (R3, R10). -/
theorem shaping_withFields {cfg : VehicleConfig} (hc : cfg.loadClass ≤ 3) : (x.withFields cfg).shapingSound := by
  obtain ⟨hspeed, hmoves, hz, hm, -⟩ := hx
  exact ⟨hspeed, hmoves, hz, hm, hc⟩

theorem shaping_rewrite {cfg : VehicleConfig} (hc : cfg.loadClass ≤ 3) (serving : Bool) :
    (x.rewrite cfg serving).shapingSound := by
  have hfields := shaping_withFields hx hc
  unfold Vehicle.rewrite
  dsimp only
  split
  · exact hfields
  · split <;> exact hfields

theorem shaping_validate {cfg : VehicleConfig} (hc : cfg.loadClass ≤ 3) : (x.validate cfg).shapingSound :=
  shaping_blankState (x := x.withConfig cfg) (shaping_withFields hx hc)

theorem shaping_invalidated {cfg : VehicleConfig} (hc : cfg.loadClass ≤ 3) (inFlight : Bool) :
    (x.invalidated cfg inFlight).shapingSound := by
  have hstored : (x.stored cfg).shapingSound := shaping_withFields hx hc
  unfold Vehicle.invalidated
  split
  · exact hstored
  · exact shaping_blankState hstored

end Record

/-- An accepted entry's load class is clamped to 0 to 3 (R3, R6). -/
theorem vehicleConfigOf_loadClass {bytes : List Byte} {cfg : VehicleConfig} {clamped : Bool}
    (h : vehicleConfigOf bytes = some (cfg, clamped)) : cfg.loadClass ≤ 3 := by
  unfold vehicleConfigOf at h
  split at h
  · split at h
    · split at h
      · cases h
      · obtain ⟨rfl, -⟩ := Prod.mk.inj (Option.some.inj h)
        exact (clampNat_range 0 3 _ (by decide)).2
    · cases h
  · cases h

end Sys2Proof.Machine

/-! SUPPORT. Which operations and commands leave the Vehicle Table alone. -/

namespace Sys2Proof.Machine

/-! ### Operations that leave every vehicle alone -/

@[simp] theorem settle_vehicles (w : Work) : w.settle.vehicles = w.state.vehicles := by
  obtain ⟨u, q, n, h, -⟩ := settle_spec w
  rw [h]

@[simp] theorem offerFrame_vehicles (n : Nat) (s : State) (f : LinkFrame) : (s.offerFrame n f).vehicles = s.vehicles := by
  rw [offerFrame_eq]

@[simp] theorem answerInFlight_vehicles (s : State) (code : Byte) (a : Answer) :
    (s.answerInFlight code a).state.vehicles = s.vehicles := by
  unfold State.answerInFlight
  split
  · split <;> rfl
  · rfl

@[simp] theorem answerRestart_vehicles (s : State) (c : Channel) (status : ReplyStatus) :
    (s.answerRestart c status).state.vehicles = s.vehicles := by
  unfold State.answerRestart
  split
  · exact answerInFlight_vehicles s _ _
  · rfl

@[simp] theorem loseMembers_vehicles (s : State) (lost : List VehicleId) : (s.loseMembers lost).vehicles = s.vehicles := by
  obtain ⟨n, ks, h, -⟩ := loseMembers_spec s lost
  rw [h]

@[simp] theorem pick_vehicles (s : State) (n : Nat) : (s.pick n).2.vehicles = s.vehicles := by
  rw [pick_state]

@[simp] theorem convoyAck_vehicles (s : State) (v : VehicleId) (before : Option Segment) :
    (s.convoyAck v before).1.vehicles = s.vehicles := by
  rw [(convoyAck_spec s v before).1]

@[simp] theorem laneAck_vehicles (s : State) (v : VehicleId) : (s.laneAck v).1.vehicles = s.vehicles := by
  rw [(laneAck_spec s v).1]

/-- A channel that goes to FAILED leaves its vehicles as they are (R23, R25, R26). -/
theorem enterFailed_vehicles (s : State) (c : Channel) (u : ChannelUnit) (ls : List Latch) :
    ((s.setChannel c u).enterFailed c ls).state.vehicles = s.vehicles :=
  answerRestart_vehicles (s.setChannel c u) c .failed

theorem lockLostInTest_vehicles (s : State) (c : Channel) (returned : List Byte) :
    (s.lockLostInTest c returned).state.vehicles = s.vehicles := by
  unfold State.lockLostInTest
  dsimp only
  split
  · exact enterFailed_vehicles s c _ _
  · split
    · exact enterFailed_vehicles s c _ _
    · exact (enterFailed_vehicles _ c _ _).trans (pick_vehicles s 8)

theorem unbound_vehicles (s : State) (source : Byte) (group : Nat) (cls : Byte) :
    (s.unbound source group cls).vehicles = s.vehicles := by
  unfold State.unbound
  split
  · rfl
  · exact (settle_vehicles _).trans (offerFrame_vehicles _ s _)

/-- A link frame, whatever its class, changes no vehicle (R163). -/
theorem receive_vehicles (s : State) (destination source : Byte) (payload : List Byte) :
    (s.receiveDrive destination source payload).vehicles = s.vehicles ∧
      (s.receiveAux destination source payload).vehicles = s.vehicles ∧
      (s.receiveMgmt destination source payload).vehicles = s.vehicles := by
  refine ⟨?drive, ?aux, ?mgmt⟩
  case drive =>
    unfold State.receiveDrive
    repeat' split
    any_goals rfl
    exact unbound_vehicles s _ _ _
  case aux =>
    unfold State.receiveAux
    repeat' split
    any_goals rfl
    exact unbound_vehicles s _ _ _
  case mgmt =>
    unfold State.receiveMgmt
    dsimp only
    repeat' split
    any_goals rfl
    exact offerFrame_vehicles _ s _

/-! ### Management commands that leave every vehicle alone -/

theorem atOnce_vehicles {code : Byte} {run : List Byte → State → Done} {s : State}
    (h : ∀ args, (run args s).state.vehicles = s.vehicles) : (atOnce code run s).vehicles = s.vehicles := by
  unfold atOnce
  split
  · exact (settle_vehicles _).trans (h _)
  · rfl

/-- What only answers changes nothing (R157, R170, R174). -/
theorem runAnswer_vehicles (s : State) (args : List Byte) :
    (runStatus args s).state.vehicles = s.vehicles ∧ (runRead args s).state.vehicles = s.vehicles ∧
      (runFaultRead args s).state.vehicles = s.vehicles := by
  unfold runStatus runRead runFaultRead
  refine ⟨?_, ?_, ?_⟩ <;> split <;> rfl

theorem runFaultClear_vehicles (s : State) (args : List Byte) : (runFaultClear args s).state.vehicles = s.vehicles := by
  unfold runFaultClear
  dsimp only
  repeat' split
  all_goals rfl

theorem runStopAll_vehicles (s : State) (args : List Byte) : (runStopAll args s).state.vehicles = s.vehicles := by
  unfold runStopAll
  split <;> rfl

theorem runConvoyHold_vehicles (s : State) (args : List Byte) : (runConvoyHold args s).state.vehicles = s.vehicles := by
  unfold runConvoyHold
  repeat' split
  all_goals rfl

theorem runConvoyResume_vehicles (s : State) (args : List Byte) : (runConvoyResume args s).state.vehicles = s.vehicles := by
  unfold runConvoyResume
  repeat' split
  all_goals rfl

theorem runZoneRelease_vehicles (s : State) (args : List Byte) : (runZoneRelease args s).state.vehicles = s.vehicles := by
  unfold runZoneRelease
  repeat' split
  all_goals rfl

/-- What speaks of the vehicles alone and is kept by every entry, a WRITE keeps (R171). -/
theorem writeStep_keeps {inv : State → Prop} (hv : ∀ s t : State, t.vehicles = s.vehicles → inv s → inv t)
    {judge : EntryJudge} (h : ∀ i bytes s, inv s → inv (judge i bytes s).state) (table : Byte) (size : Nat) {s : State}
    (hs : inv s) : inv (writeStep table size judge s) := by
  have hrun (args : List Byte) : inv (runWrite table size judge args s).state := by
    unfold runWrite
    split
    · rename_i first entries _
      exact hv _ _ (onlyPolls_vehicles (ended_spec _).1) (writeEntries_invariant h first entries s hs)
    · exact hs
  unfold writeStep
  split
  · rename_i args _
    split
    · exact hv (runWrite table size judge args s).state _ (settle_vehicles _) (hrun args)
    · exact hs
  · exact hs

theorem writeStep_vehicles {judge : EntryJudge} (h : ∀ i bytes s, (judge i bytes s).state.vehicles = s.vehicles)
    (table : Byte) (size : Nat) (s : State) : (writeStep table size judge s).vehicles = s.vehicles :=
  writeStep_keeps (inv := fun t => t.vehicles = s.vehicles) (fun _ _ e hs => e.trans hs)
    (fun i bytes t hs => (h i bytes t).trans hs) table size rfl

theorem judgeOthers_vehicles (index : Nat) (bytes : List Byte) (s : State) :
    (judgeBinding index bytes s).state.vehicles = s.vehicles ∧ (judgeZone index bytes s).state.vehicles = s.vehicles ∧
      (judgeLimits index bytes s).state.vehicles = s.vehicles :=
  ⟨by rw [judgeBinding_frame], by rw [judgeZone_frame], by rw [judgeLimits_frame]⟩

/-! ### Commands that leave every vehicle alone -/

/-- The command leads to a state with the same vehicles. -/
def State.LeavesVehicles (s : State) (o : Result) : Prop := Leads o fun t => t.vehicles = s.vehicles

theorem leavesVehicles_next {s t : State} (h : t.vehicles = s.vehicles) : s.LeavesVehicles (.next t) := leads_next h

theorem leavesVehicles_refl (s : State) : s.LeavesVehicles (.next s) := leavesVehicles_next rfl

theorem leavesVehicles_settle {s : State} {w : Work} (h : w.state.vehicles = s.vehicles) : s.LeavesVehicles (.next w.settle) :=
  leavesVehicles_next ((settle_vehicles w).trans h)

section Commands

variable (s : State)

theorem frameCheckFailure_vehicles (bytes : List Byte) : s.LeavesVehicles (execFrameCheckFailure bytes s) := by
  unfold execFrameCheckFailure
  split
  · exact leavesVehicles_settle rfl
  · exact leavesVehicles_refl s

theorem drive_vehicles (header : LinkHeader) (payload : List Byte) (check : Half) :
    s.LeavesVehicles (execDrive header payload check s) := by
  unfold execDrive
  split
  · exact leavesVehicles_next (receive_vehicles s _ _ _).1
  · exact leavesVehicles_refl s

theorem aux_vehicles (header : LinkHeader) (payload : List Byte) (check : Half) :
    s.LeavesVehicles (execAux header payload check s) := by
  unfold execAux
  split
  · exact leavesVehicles_next (receive_vehicles s _ _ _).2.1
  · exact leavesVehicles_refl s

theorem mgmt_vehicles (header : LinkHeader) (payload : List Byte) (check : Half) :
    s.LeavesVehicles (execMgmt header payload check s) := by
  unfold execMgmt
  split
  · exact leavesVehicles_next (receive_vehicles s _ _ _).2.2
  · exact leavesVehicles_refl s

theorem outputFrameSend_vehicles : s.LeavesVehicles (execOutputFrameSend s) := by
  unfold execOutputFrameSend
  split
  · exact leavesVehicles_next rfl
  · exact leavesVehicles_refl s

theorem unknownCommand_vehicles : s.LeavesVehicles (execUnknownCommand s) := by
  unfold execUnknownCommand
  split
  · split
    · exact leavesVehicles_settle rfl
    · split
      · exact leavesVehicles_refl s
      · exact leavesVehicles_settle rfl
  · exact leavesVehicles_refl s

theorem directSend_vehicles : s.LeavesVehicles (execDirectSend s) := by
  unfold execDirectSend
  split
  · split
    · split
      · exact leavesVehicles_next rfl
      · exact leavesVehicles_settle rfl
    · exact leavesVehicles_settle rfl
  · exact leavesVehicles_refl s

theorem lockLimitExpiry_vehicles (c : Channel) : s.LeavesVehicles (execLockLimitExpiry c s) := by
  unfold execLockLimitExpiry
  dsimp only
  split
  · exact leavesVehicles_settle (enterFailed_vehicles s c _ _)
  · exact leavesVehicles_refl s

theorem relockLimitExpiry_vehicles (c : Channel) : s.LeavesVehicles (execRelockLimitExpiry c s) := by
  unfold execRelockLimitExpiry
  dsimp only
  split
  · exact leavesVehicles_settle (enterFailed_vehicles s c _ _)
  · exact leavesVehicles_refl s

theorem radioFrameReceive_vehicles (c : Channel) (bytes : List Byte) :
    s.LeavesVehicles (execRadioFrameReceive c bytes s) := by
  unfold execRadioFrameReceive
  split
  · exact leavesVehicles_next rfl
  · exact leavesVehicles_refl s

theorem sendLimitExpiry_vehicles (c : Channel) : s.LeavesVehicles (execSendLimitExpiry c s) := by
  unfold execSendLimitExpiry
  dsimp only
  split
  · exact leavesVehicles_settle (answerInFlight_vehicles (s.setChannel c _) _ _)
  · exact leavesVehicles_refl s

theorem silenceExpiry_vehicles (b : BindingId) : s.LeavesVehicles (execSilenceExpiry b s) := by
  unfold execSilenceExpiry
  dsimp only
  split
  · exact leavesVehicles_settle rfl
  · exact leavesVehicles_refl s

theorem estopAssertionEdge_vehicles : s.LeavesVehicles (execEstopAssertionEdge s) := by
  unfold execEstopAssertionEdge
  split
  · exact leavesVehicles_refl s
  · exact leavesVehicles_settle rfl

theorem supplyMonitorAssertionEdge_vehicles : s.LeavesVehicles (execSupplyMonitorAssertionEdge s) := by
  unfold execSupplyMonitorAssertionEdge
  split
  · exact leavesVehicles_refl s
  · exact leavesVehicles_settle rfl

end Commands

/-- The commands that write the Vehicle Table: resets, its WRITE, convoy membership, attachments, channel events, frame builds
and window ends. -/
def writesVehicles : Instr → Bool
  | .powerOnReset _ | .vehicleWrite | .convoyForm | .convoyAdd | .convoyRemove | .convoyDisband | .coupleConfirm
  | .coupleReject | .channelRestart | .restart | .lockAchieved _ | .loopbackWindowEnd _ _ | .lockLost _ _ | .relock _
  | .cycleStart _ | .frameBuild _ _ | .responseWindowEnd _ | .housekeepingWindowEnd _ => true
  | _ => false

/-- Every other command leaves every vehicle alone. -/
theorem exec_vehicles {i : Instr} (hi : writesVehicles i = false) (s : State) : s.LeavesVehicles (exec i s) := by
  cases i with
  | powerOnReset | vehicleWrite | convoyForm | convoyAdd | convoyRemove | convoyDisband | coupleConfirm | coupleReject
  | channelRestart | restart | lockAchieved | loopbackWindowEnd | lockLost | relock | cycleStart | frameBuild
  | responseWindowEnd | housekeepingWindowEnd => cases hi
  | frameCheckFailure bytes => exact frameCheckFailure_vehicles s bytes
  | drive header payload check => exact drive_vehicles s header payload check
  | aux header payload check => exact aux_vehicles s header payload check
  | mgmt header payload check => exact mgmt_vehicles s header payload check
  | outputFrameSend => exact outputFrameSend_vehicles s
  | unknownCommand => exact unknownCommand_vehicles s
  | nop => exact leavesVehicles_next (atOnce_vehicles fun args => by rw [(runNop_state args s).1])
  | status => exact leavesVehicles_next (atOnce_vehicles fun args => (runAnswer_vehicles s args).1)
  | read => exact leavesVehicles_next (atOnce_vehicles fun args => (runAnswer_vehicles s args).2.1)
  | bindingWrite => exact leavesVehicles_next (writeStep_vehicles (fun i b s => (judgeOthers_vehicles i b s).1) _ _ s)
  | zoneWrite => exact leavesVehicles_next (writeStep_vehicles (fun i b s => (judgeOthers_vehicles i b s).2.1) _ _ s)
  | limitsWrite => exact leavesVehicles_next (writeStep_vehicles (fun i b s => (judgeOthers_vehicles i b s).2.2) _ _ s)
  | convoyHold => exact leavesVehicles_next (atOnce_vehicles (runConvoyHold_vehicles s))
  | convoyResume => exact leavesVehicles_next (atOnce_vehicles (runConvoyResume_vehicles s))
  | zoneRelease => exact leavesVehicles_next (atOnce_vehicles (runZoneRelease_vehicles s))
  | directSend => exact directSend_vehicles s
  | faultRead => exact leavesVehicles_next (atOnce_vehicles fun args => (runAnswer_vehicles s args).2.2)
  | faultClear => exact leavesVehicles_next (atOnce_vehicles (runFaultClear_vehicles s))
  | stopAll => exact leavesVehicles_next (atOnce_vehicles (runStopAll_vehicles s))
  | lockLimitExpiry c => exact lockLimitExpiry_vehicles s c
  | relockLimitExpiry c => exact relockLimitExpiry_vehicles s c
  | radioFrameReceive c bytes => exact radioFrameReceive_vehicles s c bytes
  | sendLimitExpiry c => exact sendLimitExpiry_vehicles s c
  | silenceExpiry b => exact silenceExpiry_vehicles s b
  | estopAssertionEdge => exact estopAssertionEdge_vehicles s
  | supplyMonitorAssertionEdge => exact supplyMonitorAssertionEdge_vehicles s
  | estopRelease | supplyMonitorRelease | timeCounterTick => exact leavesVehicles_next rfl

end Sys2Proof.Machine

/-! SUPPORT. Every command keeps the shaping state of every vehicle sound (R66, R72, R73, R76). -/

namespace Sys2Proof.Machine

/-! ### What an operation does to the whole Vehicle Table -/

/-- Every vehicle's shaping state is sound. -/
def State.shapingSound (s : State) : Prop := ∀ v, (s.vehicle v).shapingSound

theorem shaping_of_vehicles {s t : State} (hs : s.shapingSound) (h : t.vehicles = s.vehicles) : t.shapingSound :=
  fun v => by simpa only [State.vehicle, h] using hs v

/-- Attachments, identifications and polls have no part in the shaping state. -/
theorem shaping_of_coupling {s t : State} (hs : s.shapingSound) (h : OnlyCoupling s t) : t.shapingSound := by
  obtain ⟨-, hvehicle, -, -⟩ := h
  intro v
  rw [hvehicle v]
  exact hs v

theorem shaping_powerOn (pins : Pins) (s : State) : (powerOnWork pins s).state.shapingSound := fun v => by
  show ((State.powerOn pins).vehicle v).shapingSound
  rw [powerOn_vehicle]
  exact blank_shapingSound

section Table

variable {s : State} (hs : s.shapingSound)
include hs

theorem shaping_setVehicle {v : VehicleId} {y : Vehicle} (hy : y.shapingSound) : (s.setVehicle v y).shapingSound := by
  intro w
  rw [vehicle_setVehicle]
  split
  · exact hy
  · exact hs w

theorem shaping_mapVehicles {f : VehicleId → Vehicle → Vehicle}
    (h : ∀ v (x : Vehicle), x.shapingSound → (f v x).shapingSound) : (s.mapVehicles f).shapingSound := by
  intro v
  rw [vehicle_mapVehicles_same]
  exact h v _ (hs v)

theorem shaping_setChannel (c : Channel) (u : ChannelUnit) : (s.setChannel c u).shapingSound := hs

theorem shaping_setConvoy (c : ConvoyId) (x : Convoy) : (s.setConvoy c x).shapingSound := hs

theorem shaping_setConvoyOf (v : VehicleId) (c : Option ConvoyId) : (s.setConvoyOf v c).shapingSound :=
  shaping_setVehicle hs (hs v)

theorem shaping_judgeStart : s.judgeStart.1.shapingSound :=
  shaping_of_coupling hs (onlyCoupling_of_polls (judgeStart_spec s).1)

theorem shaping_pollReport (c : Channel) (replies : List Byte) (garbled : Bool) :
    (s.pollReport c replies garbled).1.shapingSound :=
  shaping_of_coupling hs (onlyCoupling_of_attachments (pollReport_spec s c replies garbled).1)

/-! ### Cycles, slots and the end of a channel's service -/

theorem shaping_beginCycle (c : Channel) (counter : Nat) : (s.beginCycle c counter).shapingSound :=
  shaping_mapVehicles (shaping_setChannel hs c _) fun _ _ hx => shaping_cycleStart hx c

theorem shaping_lockReport (c : Channel) : (s.lockReport c).shapingSound := by
  unfold State.lockReport
  split
  case h_2 => exact shaping_beginCycle (shaping_setChannel hs c _) c _
  all_goals exact hs

theorem shaping_passTest (c : Channel) : (s.passTest c).state.shapingSound :=
  shaping_of_vehicles (shaping_beginCycle (shaping_setChannel hs c _) c 0) (answerRestart_vehicles _ c .ok)

theorem shaping_endVehicleSlot (f : Option SlotFlight) : (s.endVehicleSlot f).shapingSound := by
  unfold State.endVehicleSlot
  split
  · split
    · exact hs
    · exact shaping_setVehicle hs (shaping_blankState (hs _))
  · exact hs

theorem shaping_vehiclesLoseChannel (c : Channel) (leaves : Bool) : (s.vehiclesLoseChannel c leaves).shapingSound := by
  intro v
  rw [vehiclesLoseChannel_vehicle]
  exact shaping_channelLost (hs v) c leaves

theorem shaping_pollClosed (c : Channel) (old : ChannelUnit) : (s.pollClosed c old).1.shapingSound := by
  unfold State.pollClosed
  split
  · exact shaping_pollReport hs c [] false
  · exact hs

theorem shaping_leaveServing (c : Channel) (old : ChannelUnit) : (s.leaveServing c old).state.shapingSound := by
  have hended := shaping_endVehicleSlot (shaping_setChannel hs c (s.channel c).clearSlots) old.flight
  have hclosed := shaping_pollClosed (shaping_vehiclesLoseChannel hended c true) c old
  rw [leaveServing_eq s _ c old rfl]
  dsimp only
  split
  · exact shaping_of_vehicles hclosed (answerInFlight_vehicles _ _ _)
  · exact hclosed

theorem shaping_lockLostReport (c : Channel) (returned : List Byte) : (s.lockLostReport c returned).state.shapingSound := by
  unfold State.lockLostReport
  split
  case h_1 => exact shaping_leaveServing (shaping_setChannel hs c _) c _
  case h_2 => exact shaping_of_vehicles hs (lockLostInTest_vehicles s c returned)
  all_goals exact hs

theorem shaping_restartChannel (c : Channel) : (s.restartChannel c).state.shapingSound := by
  obtain ⟨u, -, hrestart⟩ := restartChannel_eq s c
  rw [hrestart]
  split
  · exact shaping_leaveServing (shaping_setChannel hs c u) c _
  · dsimp only
    exact shaping_vehiclesLoseChannel (shaping_setChannel hs c _) c false

/-! ### The outcome of a drive slot, and a frame build -/

theorem shaping_miss (v : VehicleId) : (s.miss v).state.shapingSound := by
  have hcounted := shaping_misses (hs v) (min_le_left 15 ((s.vehicle v).misses + 1))
  unfold State.miss
  dsimp only
  split
  · dsimp only
    exact shaping_of_vehicles (shaping_setVehicle hs (shaping_goLost hcounted)) (loseMembers_vehicles _ [v])
  · exact shaping_setVehicle hs hcounted

theorem shaping_validAck (v : VehicleId) (a : Ack) : (s.validAck v a).state.shapingSound := by
  have hack := shaping_setVehicle hs (v := v) (shaping_withAck (hs v) a)
  have hconvoy := shaping_of_vehicles hack (convoyAck_vehicles _ v (s.vehicle v).current)
  have hlane := shaping_of_vehicles hconvoy (laneAck_vehicles _ v)
  exact shaping_of_coupling hlane (couplerAck_spec _ v (s.vehicle v)).1

theorem shaping_slotOutcome (v : VehicleId) (ack : Option Ack) : (s.slotOutcome v ack).state.shapingSound := by
  unfold State.slotOutcome
  split
  · split
    · exact shaping_validAck hs v _
    · exact shaping_miss hs v
  · exact shaping_setVehicle hs (shaping_blankState (hs v))

/-- The frame that is built has its speed in range, from the speed and the loads before it (R66, R76). -/
theorem shaping_buildFrame (c : Channel) (slot : SlotNo) (v : VehicleId) : (s.buildFrame c slot v).shapingSound :=
  shaping_setVehicle hs (shaping_withFrame (hs v) (shape_speed_natAbs_le hs v))

/-! ### Management commands -/

theorem shaping_atOnce {code : Byte} {run : List Byte → State → Done} (h : ∀ args, (run args s).state.shapingSound) :
    (atOnce code run s).shapingSound := by
  unfold atOnce
  split
  · rename_i args _
    exact shaping_of_vehicles (h args) (settle_vehicles _)
  · exact hs

theorem shaping_runConvoyForm (args : List Byte) : (runConvoyForm args s).state.shapingSound := by
  unfold runConvoyForm
  repeat' split
  any_goals exact hs
  exact shaping_setConvoyOf (shaping_setConvoy hs _ _) _ _

theorem shaping_runConvoyAdd (args : List Byte) : (runConvoyAdd args s).state.shapingSound := by
  unfold runConvoyAdd
  dsimp only
  repeat' split
  any_goals exact hs
  exact shaping_setConvoyOf (shaping_setConvoy hs _ _) _ _

theorem shaping_removeMember (c : ConvoyId) (v : VehicleId) : (s.removeMember c v).shapingSound := by
  unfold State.removeMember
  dsimp only
  split
  · exact shaping_of_vehicles (shaping_setConvoyOf (shaping_setConvoy hs c .blank) v none) rfl
  · exact shaping_setConvoyOf (shaping_setConvoy hs c _) v none

theorem shaping_runConvoyRemove (args : List Byte) : (runConvoyRemove args s).state.shapingSound := by
  unfold runConvoyRemove
  dsimp only
  repeat' split
  any_goals exact hs
  exact shaping_removeMember hs _ _

theorem shaping_disbandConvoy (c : ConvoyId) : (s.disbandConvoy c).shapingSound := by
  have hfree : ((s.withdrawEverywhere (.convoy c)).setConvoy c .blank).shapingSound := hs
  refine shaping_mapVehicles hfree fun v x hx => ?_
  split <;> exact hx

theorem shaping_runConvoyDisband (args : List Byte) : (runConvoyDisband args s).state.shapingSound := by
  unfold runConvoyDisband
  repeat' split
  any_goals exact hs
  exact shaping_disbandConvoy hs _

/-- A decision on an attachment, and the start that it makes due (R148, R143). -/
theorem shaping_runDecision {decide : VehicleId → VehicleId → State → State}
    (h : ∀ x w, OnlyCoupling s (decide x w s)) (args : List Byte) : (runDecision decide args s).state.shapingSound := by
  unfold runDecision
  dsimp only
  repeat' split
  any_goals exact hs
  exact shaping_judgeStart (shaping_of_coupling hs (h _ _))

theorem shaping_runRestart (args : List Byte) : (runRestart args s).state.shapingSound := by
  unfold runRestart
  split
  · exact shaping_of_vehicles (shaping_mapVehicles (s := s.mapBindings Binding.disarm) hs fun _ _ hx => shaping_atRest hx) rfl
  · exact hs

/-- An accepted entry stores a load class in range; an invalidation detaches besides (R9, R10, R13). -/
theorem shaping_applyVehicle {cfg : VehicleConfig} (hc : cfg.loadClass ≤ 3) (v : VehicleId) :
    (s.applyVehicle v cfg).shapingSound := by
  unfold State.applyVehicle
  dsimp only
  split
  · refine shaping_setVehicle hs ?_
    split
    · exact shaping_rewrite (hs v) hc _
    · exact shaping_validate (hs v) hc
  · split
    · intro w
      rw [invalidate_vehicle]
      split
      · exact shaping_invalidated (hs v) hc _
      · split <;> exact hs w
    · exact shaping_setVehicle hs (shaping_withFields (hs v) hc)

end Table

theorem shaping_judgeVehicle (index : Nat) (bytes : List Byte) (s : State) (hs : s.shapingSound) :
    (judgeVehicle index bytes s).state.shapingSound := by
  unfold judgeVehicle
  split
  · split
    · exact hs
    · rename_i hcfg
      split
      · exact hs
      · exact shaping_applyVehicle hs (vehicleConfigOf_loadClass hcfg) _
  · exact hs

/-! ### Every command -/

theorem shaping_settle {w : Work} (h : w.state.shapingSound) : Leads (.next w.settle) State.shapingSound :=
  leads_next (shaping_of_vehicles h (settle_vehicles w))

section Commands

variable {s : State} (hs : s.shapingSound)
include hs

/-- A command that is answered with nothing changed. -/
theorem shaping_answered (e : MgmtEntry) {d : Done} (h : d.state = s) : Leads (.next (d.finish e).settle) State.shapingSound :=
  shaping_settle (w := d.finish e) (shaping_of_vehicles hs (h ▸ rfl))

theorem shaping_channelRestart : Leads (execChannelRestart s) State.shapingSound := by
  have hflight : s.headGoesInFlight.shapingSound := hs
  unfold execChannelRestart
  split
  · split
    · split
      · exact shaping_settle (shaping_restartChannel hflight _)
      · exact shaping_answered hs _ rfl
    · exact shaping_answered hs _ rfl
  · exact leads_next hs

theorem shaping_loopbackWindowEnd (c : Channel) (returned : List Byte) :
    Leads (execLoopbackWindowEnd c returned s) State.shapingSound := by
  unfold execLoopbackWindowEnd
  dsimp only
  split
  · split
    · exact shaping_settle (shaping_of_vehicles hs (enterFailed_vehicles s c _ _))
    · split
      · exact shaping_settle (shaping_passTest hs c)
      · exact leads_next (shaping_setChannel hs c _)
  · exact leads_next hs

theorem shaping_execCycleStart (c : Channel) : Leads (execCycleStart c s) State.shapingSound := by
  unfold execCycleStart
  dsimp only
  split
  · exact leads_next (shaping_beginCycle hs c _)
  · exact leads_next hs

theorem shaping_frameBuild (c : Channel) (slot : SlotNo) : Leads (execFrameBuild c slot s) State.shapingSound := by
  unfold execFrameBuild
  dsimp only
  split
  · split
    · exact leads_next (shaping_buildFrame hs c slot _)
    · exact leads_next (shaping_setChannel hs c _)
  · exact leads_next hs

theorem shaping_responseWindowEnd (c : Channel) : Leads (execResponseWindowEnd c s) State.shapingSound := by
  unfold execResponseWindowEnd
  split
  · exact shaping_settle (shaping_slotOutcome (shaping_setChannel hs c _) _ _)
  · exact leads_next hs

theorem shaping_housekeepingWindowEnd (c : Channel) : Leads (execHousekeepingWindowEnd c s) State.shapingSound := by
  have hend : (s.endSlot c).shapingSound := shaping_setChannel hs c _
  unfold execHousekeepingWindowEnd
  split
  · split
    · exact shaping_settle (shaping_pollReport hend c _ _)
    · exact leads_next hend
  · split
    · exact shaping_settle (shaping_of_vehicles hend (answerInFlight_vehicles _ _ _))
    · exact leads_next hend
  · exact leads_next hs

/-- Every command keeps the shaping state of every vehicle sound. -/
theorem exec_shapingSound (i : Instr) : Leads (exec i s) State.shapingSound := by
  cases hw : writesVehicles i with
  | false =>
    obtain ⟨t, ht, hv⟩ := exec_vehicles hw s
    exact ⟨t, ht, shaping_of_vehicles hs hv⟩
  | true =>
    cases i with
    | powerOnReset pins => exact shaping_settle (shaping_powerOn pins s)
    | vehicleWrite =>
      exact leads_next (writeStep_keeps (fun _ _ h hs => shaping_of_vehicles hs h) shaping_judgeVehicle _ _ hs)
    | convoyForm => exact leads_next (shaping_atOnce hs (shaping_runConvoyForm hs))
    | convoyAdd => exact leads_next (shaping_atOnce hs (shaping_runConvoyAdd hs))
    | convoyRemove => exact leads_next (shaping_atOnce hs (shaping_runConvoyRemove hs))
    | convoyDisband => exact leads_next (shaping_atOnce hs (shaping_runConvoyDisband hs))
    | coupleConfirm =>
      exact leads_next (shaping_atOnce hs (shaping_runDecision hs fun x w =>
        onlyCoupling_of_attachments (onlyAttachments_attach s w (some (x, .confirmed)))))
    | coupleReject =>
      exact leads_next (shaping_atOnce hs (shaping_runDecision hs fun _ w => onlyCoupling_detach s w))
    | channelRestart => exact shaping_channelRestart hs
    | restart => exact leads_next (shaping_atOnce hs (shaping_runRestart hs))
    | lockAchieved c => exact leads_next (shaping_lockReport hs c)
    | loopbackWindowEnd c returned => exact shaping_loopbackWindowEnd hs c returned
    | lockLost c returned => exact shaping_settle (shaping_lockLostReport hs c returned)
    | relock c => exact leads_next (shaping_lockReport hs c)
    | cycleStart c => exact shaping_execCycleStart hs c
    | frameBuild c slot => exact shaping_frameBuild hs c slot
    | responseWindowEnd c => exact shaping_responseWindowEnd hs c
    | housekeepingWindowEnd c => exact shaping_housekeepingWindowEnd hs c
    | _ => cases hw

end Commands

/-- Settles O57: a frame build writes a speed in range with its direction and count, and every other event keeps the shaping
state, rests the vehicle, or changes its miss count or load class within their ranges. -/
theorem shapingStateStaysSound : Obligations.ShapingStateStaysSound := by
  intro s t hs h
  unfold step at h
  split at h
  · exact Host.Outcome.next.inj h ▸ hs
  · rename_i c rest _
    obtain ⟨u, hu, hsound⟩ := exec_shapingSound (s := { s with pending := rest }) hs c
    exact Host.Outcome.next.inj (hu.symm.trans h) ▸ hsound

end Sys2Proof.Machine

/-! SUPPORT. Which operations of the Convoy Engine keep the cursors of a record sound, and its members in their order (R80, R98 to
R106). -/

namespace Sys2Proof.Machine

/-! ### The members of a record -/

/-- The tractors of a convoy's member list, in order (R80). -/
def Convoy.tractors (c : Convoy) : List VehicleId := c.members.map Member.tractor

/-- The tractor and the cursor of each member, in order. -/
def Convoy.cursors (c : Convoy) : List (VehicleId × Nat) := c.members.map fun m => (m.tractor, m.cursor)

/-- A record is sound in its cursors, its fields and its bands. -/
def Convoy.sound (c : Convoy) : Prop := c.cursorsSound ∧ c.fieldsSound ∧ c.bandsSound

theorem tractors_of_cursors {c d : Convoy} (h : d.cursors = c.cursors) : d.tractors = c.tractors := by
  have hmap : ∀ e : Convoy, e.tractors = e.cursors.map Prod.fst := fun e => by simp [Convoy.tractors, Convoy.cursors]
  rw [hmap, hmap, h]

theorem nodup_of_tractors {c d : Convoy} (h : d.tractors = c.tractors) (hn : (c.members.map Member.tractor).Nodup) :
    (d.members.map Member.tractor).Nodup := by
  rw [Convoy.tractors, Convoy.tractors] at h
  rwa [h]

/-- A convoy's cursors are sound by what its trail and the list of cursors say. -/
theorem cursorsSound_iff (c : Convoy) : c.cursorsSound ↔
    (c.cursors.map Prod.fst).Nodup ∧ (∀ p ∈ c.cursors, p.2 ≤ c.trail.length) ∧
      (∀ p ∈ c.cursors.head?, p.2 = c.trail.length) ∧ (c.trail = [] ∨ ∃ p ∈ c.cursors, p.2 = 0) := by
  simp [Convoy.cursorsSound, Convoy.cursors, Function.comp_def]

theorem cursorsSound_congr {c d : Convoy} (h : c.cursorsSound) (hm : d.cursors = c.cursors) (ht : d.trail = c.trail) :
    d.cursorsSound := by
  rw [cursorsSound_iff] at h ⊢
  rwa [hm, ht]

/-- In a list without a tractor twice, every other member is another tractor. -/
theorem tractor_ne_of_nodup {pre post : List Member} {m : Member} (h : ((pre ++ m :: post).map Member.tractor).Nodup) :
    (∀ n ∈ pre, n.tractor ≠ m.tractor) ∧ ∀ n ∈ post, n.tractor ≠ m.tractor := by
  rw [List.map_append, List.map_cons, List.nodup_append] at h
  obtain ⟨-, htail, hapart⟩ := h
  refine ⟨fun n hn => hapart _ (List.mem_map_of_mem hn) _ List.mem_cons_self, fun n hn e => ?_⟩
  exact (List.nodup_cons.mp htail).1 (e ▸ List.mem_map_of_mem hn)

/-- In a list without a tractor twice, a tractor has one entry. -/
theorem member_unique {ms : List Member} (h : (ms.map Member.tractor).Nodup) {m n : Member} (hm : m ∈ ms) (hn : n ∈ ms)
    (e : m.tractor = n.tractor) : m = n := List.inj_on_of_nodup_map h hm hn e

/-! ### Gaps and cursors -/

theorem measure_cursors {s : State} {due : VehicleId → VehicleId → Bool} {c d : Convoy}
    (h : d.members = s.measure due c.members) : d.cursors = c.cursors := by
  simpa [Convoy.cursors, h, Function.comp_def] using
    congrArg (List.map fun p : VehicleId × Nat × Nat × Nat => (p.1, p.2.2.2)) (measure_tractors s due c.members)

theorem measure_sound {s : State} {due : VehicleId → VehicleId → Bool} {c : Convoy} (h : c.cursorsSound) :
    ({ c with members := s.measure due c.members } : Convoy).cursorsSound :=
  cursorsSound_congr h (measure_cursors rfl) rfl

theorem raiseCursor_tractors (c : Convoy) (v : VehicleId) : (c.raiseCursor v).tractors = c.tractors := by
  simp only [Convoy.tractors, Convoy.raiseCursor, List.map_map]
  refine List.map_congr_left fun m _ => ?_
  simp only [Function.comp]
  split <;> rfl

theorem dropPassed_tractors (t : List TrailEntry) (ms : List Member) :
    (dropPassed t ms).2.map Member.tractor = ms.map Member.tractor := by
  induction t generalizing ms with
  | nil => rfl
  | cons e t ih =>
    unfold dropPassed
    split
    · rw [ih]
      simp
    · rfl

theorem dropOldest_tractors (c : Convoy) : c.dropOldest.tractors = c.tractors := dropPassed_tractors c.trail c.members

/-- Where some member has not passed the oldest entry, nothing is dropped (R104). -/
theorem dropOldest_kept {c : Convoy} (h : c.trail = [] ∨ ∃ m ∈ c.members, m.cursor = 0) : c.dropOldest = c := by
  have hkept : dropPassed c.trail c.members = (c.trail, c.members) := by
    rcases h with h | ⟨m, hm, hz⟩
    · rw [h]
      rfl
    · cases c.trail with
      | nil => rfl
      | cons e t =>
        refine if_neg fun hall => ?_
        have := of_decide_eq_true (List.all_eq_true.mp hall m hm)
        omega
  rw [Convoy.dropOldest, hkept]

/-- The cursors before the judgement of R104: each in the trail, the lead's at its end, and no tractor twice. -/
def Convoy.cursorsBounded (c : Convoy) : Prop :=
  c.members ≠ [] ∧ (c.members.map Member.tractor).Nodup ∧ (∀ m ∈ c.members, m.cursor ≤ c.trail.length) ∧
    ∀ m ∈ c.members.head?, m.cursor = c.trail.length

theorem cursorsBounded_iff (c : Convoy) : c.cursorsBounded ↔
    c.cursors ≠ [] ∧ (c.cursors.map Prod.fst).Nodup ∧ (∀ p ∈ c.cursors, p.2 ≤ c.trail.length) ∧
      ∀ p ∈ c.cursors.head?, p.2 = c.trail.length := by
  simp [Convoy.cursorsBounded, Convoy.cursors, Function.comp_def]

theorem cursorsBounded_congr {c d : Convoy} (h : c.cursorsBounded) (hm : d.cursors = c.cursors) (ht : d.trail = c.trail) :
    d.cursorsBounded := by
  rw [cursorsBounded_iff] at h ⊢
  rwa [hm, ht]

/-- The judgement of R104 makes bounded cursors sound. -/
theorem dropOldest_bounded {c : Convoy} (h : c.cursorsBounded) : c.dropOldest.cursorsSound := by
  obtain ⟨hne, hn, hle, hlead⟩ := h
  exact dropOldest_sound c hne hn hle hlead

/-! ### An ack (R99 to R104) -/

theorem raiseCursor_members (c : Convoy) (v : VehicleId) {n : Member} (h : n ∈ (c.raiseCursor v).members) :
    ∃ m ∈ c.members, n.tractor = m.tractor ∧ n.cursor = if m.tractor = v then m.cursor + 1 else m.cursor := by
  obtain ⟨m, hm, rfl⟩ := List.mem_map.mp h
  refine ⟨m, hm, ?_⟩
  split <;> exact ⟨rfl, rfl⟩

/-- The recording of a junction by the lead keeps the cursors sound (R99, R104). -/
theorem append_sound {c : Convoy} {v : VehicleId} (e : TrailEntry) (h : c.cursorsSound) (hl : c.isLead v = true) :
    (c.append v e).cursorsSound := by
  obtain ⟨hn, hle, hlead, -⟩ := h
  have hmem : c.members ≠ [] := fun e => by simp [Convoy.isLead, e] at hl
  refine dropOldest_sound _ (by simpa [Convoy.raiseCursor] using hmem) (nodup_of_tractors (raiseCursor_tractors _ v) hn)
    (fun n hn => ?_) fun n hn => ?_
  · obtain ⟨m, hm, -, hcur⟩ := raiseCursor_members _ v hn
    have := hle m hm
    simp only [Convoy.raiseCursor, List.length_append, List.length_singleton]
    split at hcur <;> omega
  · cases hc : c.members with
    | nil => exact absurd hc hmem
    | cons l fs =>
      have hv := (isLead_iff hc).mp hl
      have := hlead l (by simp [hc])
      simp only [Convoy.raiseCursor, hc, List.map_cons, List.head?_cons, Option.mem_def, Option.some.injEq, hv, if_true] at hn
      simp [← hn, Convoy.raiseCursor, this]

/-- The passing of an entry by a follower keeps the cursors sound (R102, R104). -/
theorem pass_sound {c : Convoy} {v : VehicleId} {m : Member} (h : c.cursorsSound) (hl : c.isLead v = false)
    (hm : c.member? v = some m) (he : m.cursor < c.trail.length) : (c.raiseCursor v).dropOldest.cursorsSound := by
  obtain ⟨hn, hle, hlead, -⟩ := h
  have hv : m.tractor = v := by simpa using List.find?_some hm
  have hmem : m ∈ c.members := List.mem_of_find?_eq_some hm
  refine dropOldest_sound _ (by simpa [Convoy.raiseCursor] using List.ne_nil_of_mem hmem)
    (nodup_of_tractors (raiseCursor_tractors c v) hn) (fun n hn' => ?_) fun n hn' => ?_
  · obtain ⟨k, hk, -, hcur⟩ := raiseCursor_members c v hn'
    have := hle k hk
    simp only [Convoy.raiseCursor]
    split at hcur
    · rename_i e
      obtain rfl := member_unique hn hk hmem (e.trans hv.symm)
      omega
    · omega
  · cases hc : c.members with
    | nil => simp [hc] at hmem
    | cons l fs =>
      have hne : l.tractor ≠ v := fun e => by simp [(isLead_iff hc).mpr e] at hl
      simp only [Convoy.raiseCursor, hc, List.map_cons, List.head?_cons, Option.mem_def, Option.some.injEq, hne, if_false] at hn'
      exact hn' ▸ hlead l (by simp [hc])

theorem recordJunction_sound {s : State} {c : Convoy} {v : VehicleId} (before : Option Segment) (h : c.cursorsSound)
    (hl : c.isLead v = true) : (s.recordJunction c v before).1.cursorsSound := by
  unfold State.recordJunction
  split
  · split
    · split
      · exact append_sound _ h hl
      · exact h
    · exact h
  · exact h

theorem advanceCursor_sound {s : State} {c : Convoy} {v : VehicleId} (before : Option Segment) (h : c.cursorsSound)
    (hl : c.isLead v = false) : (s.advanceCursor c v before).cursorsSound := by
  unfold State.advanceCursor
  split
  · rename_i g m _ hm
    split
    · rename_i e he
      split
      · exact pass_sound h hl hm (List.getElem?_eq_some_iff.mp he).1
      · exact h
    · exact h
  · exact h

theorem endHold_members (c : Convoy) (g : Option Segment) :
    (c.endHold g).members = c.members ∧ (c.endHold g).trail = c.trail := by
  unfold Convoy.endHold
  split <;> exact ⟨rfl, rfl⟩

theorem isLead_congr {c d : Convoy} (h : d.members.map Member.tractor = c.members.map Member.tractor) (v : VehicleId) :
    d.isLead v = c.isLead v := by
  rw [Convoy.isLead, Convoy.isLead, ← List.head?_map, ← List.head?_map, h]

/-- An ack keeps the cursors of a convoy sound (R99 to R104). -/
theorem convoyAfterAck_sound {s : State} {c : Convoy} (v : VehicleId) (before : Option Segment) (h : c.cursorsSound) :
    (s.convoyAfterAck c v before).1.cursorsSound := by
  have hmeasured : ({ c with members := s.measure (fun p m => p = v || m = v) c.members } : Convoy).cursorsSound :=
    measure_sound h
  unfold State.convoyAfterAck
  dsimp only
  generalize ({ c with members := s.measure (fun p m => p = v || m = v) c.members } : Convoy) = d at hmeasured ⊢
  split
  · rename_i hl
    obtain ⟨hm, ht⟩ := endHold_members d (s.vehicle v).current
    exact recordJunction_sound before (cursorsSound_congr hmeasured (by rw [Convoy.cursors, hm]; rfl) ht)
      ((isLead_congr (by rw [hm]) v).trans hl)
  · rename_i hl
    have hadvanced := advanceCursor_sound (s := s) before hmeasured (Bool.eq_false_iff.mpr hl)
    split
    · exact hadvanced
    · exact hadvanced

/-- An ack keeps every member in its place. -/
theorem convoyAfterAck_tractors (s : State) (c : Convoy) (v : VehicleId) (before : Option Segment) :
    (s.convoyAfterAck c v before).1.tractors = c.tractors := by
  have hmeasured := tractors_of_cursors (c := c)
    (d := { c with members := s.measure (fun p m => p = v || m = v) c.members }) (measure_cursors rfl)
  unfold State.convoyAfterAck
  dsimp only
  generalize ({ c with members := s.measure (fun p m => p = v || m = v) c.members } : Convoy) = d at hmeasured ⊢
  have hraised (e : Convoy) : (e.raiseCursor v).dropOldest.tractors = e.tractors :=
    (dropOldest_tractors _).trans (raiseCursor_tractors e v)
  split
  · have hended : (d.endHold (s.vehicle v).current).tractors = c.tractors :=
      (congrArg (List.map Member.tractor) (endHold_members d _).1).trans hmeasured
    have hrecorded : (s.recordJunction (d.endHold (s.vehicle v).current) v before).1.tractors = c.tractors := by
      unfold State.recordJunction
      repeat' split
      any_goals exact hended
      exact (hraised _).trans hended
    exact hrecorded
  · have hadvanced : (s.advanceCursor d v before).tractors = c.tractors := by
      unfold State.advanceCursor
      repeat' split
      any_goals exact hmeasured
      exact (hraised d).trans hmeasured
    split <;> exact hadvanced

/-! ### Removal of a member (R86, R87, R106) -/

/-- A removal keeps the cursors of the members that are left sound (R104, R106). -/
theorem convoyWithout_sound {s : State} {c : Convoy} (v : VehicleId) (h : c.cursorsSound)
    (hleft : c.members.filter (fun m => m.tractor ≠ v) ≠ []) : (s.convoyWithout c v).cursorsSound := by
  obtain ⟨hn, hle, hlead, -⟩ := h
  have hsub : (c.members.filter (fun m => m.tractor ≠ v)).Sublist c.members := List.filter_sublist
  have hrest := hn.sublist (hsub.map Member.tractor)
  have hkept (m) (hm : m ∈ c.members.filter (fun m => m.tractor ≠ v)) := hle m (hsub.subset hm)
  unfold State.convoyWithout
  dsimp only
  cases hc : c.isLead v with
  | true =>
    rw [if_pos rfl]
    generalize c.members.filter (fun m => m.tractor ≠ v) = rest at hleft hrest hkept ⊢
    cases rest with
    | nil => exact absurd rfl hleft
    | cons l fs =>
      have hl := hkept l List.mem_cons_self
      refine dropOldest_sound _ (List.cons_ne_nil _ _) (by simpa [Convoy.promote, Function.comp_def] using hrest) ?_ ?_ <;>
        simp [Convoy.promote, hl]
  | false =>
    rw [if_neg Bool.false_ne_true]
    have hfollowers : ({ c with cause := causeWithout v c.cause
                                members := c.members.filter (fun m => m.tractor ≠ v) } : Convoy).cursorsBounded := by
      refine ⟨hleft, hrest, hkept, fun m hm => ?_⟩
      cases hm' : c.members with
      | nil => simp [hm'] at hleft
      | cons l fs =>
        have hl : l.tractor ≠ v := fun e => by simp [(isLead_iff hm').mpr e] at hc
        rw [hm', List.filter_cons_of_pos (by simpa using hl)] at hm
        exact hlead m (by simpa [hm'] using hm)
    exact dropOldest_bounded (cursorsBounded_congr hfollowers (measure_cursors rfl) rfl)

/-- A convoy of more than one member keeps one when a tractor is taken out. -/
theorem others_left {c : Convoy} (h : c.cursorsSound) (hl : 1 < c.members.length) (v : VehicleId) :
    c.members.filter (fun m => m.tractor ≠ v) ≠ [] := by
  obtain ⟨hn, -⟩ := h
  intro hnone
  have hall : ∀ m ∈ c.members, m.tractor = v := by simpa [List.filter_eq_nil_iff] using hnone
  match hm : c.members with
  | [] => simp [hm] at hl
  | [m] => simp [hm] at hl
  | m :: n :: ms =>
    rw [hm] at hn hall
    exact (List.nodup_cons.mp hn).1 (by simp [hall m, hall n])

theorem promote_tractors (c : Convoy) : c.promote.tractors = c.tractors := by
  unfold Convoy.promote
  split
  · rename_i l fs hm
    simp [Convoy.tractors, hm, Function.comp_def]
  · rfl

/-- A removal takes one tractor out and keeps the others in their order (R86). -/
theorem convoyWithout_tractors (s : State) (c : Convoy) (v : VehicleId) :
    (s.convoyWithout c v).tractors = c.tractors.filter fun w => w ≠ v := by
  have hrest : (c.members.filter (fun m => m.tractor ≠ v)).map Member.tractor = c.tractors.filter fun w => w ≠ v := by
    simp [Convoy.tractors, List.filter_map, Function.comp_def]
  unfold State.convoyWithout
  dsimp only
  split
  · exact ((dropOldest_tractors _).trans (promote_tractors _)).trans hrest
  · refine (dropOldest_tractors _).trans (Eq.trans (tractors_of_cursors
      (c := { c with members := c.members.filter (fun m => m.tractor ≠ v) }) ?_) hrest)
    exact measure_cursors rfl

/-! ### A new member (R85, R105) -/

/-- The record of a convoy with one more member, before gaps are measured. -/
def Convoy.joinedBy (c : Convoy) (v : VehicleId) (gmin gmax : Nat) : Convoy :=
  { c with members := c.members ++ [⟨v, gmin, gmax, .unknown, c.trail.length⟩] }

/-- A new member keeps the cursors of an allocated convoy sound (R104, R105). -/
theorem joinedBy_sound {s : State} {due : VehicleId → VehicleId → Bool} {c : Convoy} {v : VehicleId} (gmin gmax : Nat)
    (h : c.cursorsSound) (hne : c.members ≠ []) (hv : v ∉ c.tractors) :
    Convoy.cursorsSound (Convoy.dropOldest { c with members := s.measure due (c.joinedBy v gmin gmax).members }) := by
  obtain ⟨hn, hle, hlead, -⟩ := h
  have hjoined : (c.joinedBy v gmin gmax).cursorsBounded := by
    refine ⟨by simp [Convoy.joinedBy], ?_, fun m hm => ?_, ?_⟩
    · rw [Convoy.joinedBy, List.map_append]
      exact hn.append (List.nodup_singleton v) (by simpa [Convoy.tractors] using hv)
    · rcases List.mem_append.mp hm with hm | hm
      · exact hle m hm
      · rw [List.mem_singleton.mp hm]
        exact le_refl _
    · rw [Convoy.joinedBy, List.head?_append_of_ne_nil _ hne]
      exact hlead
  exact dropOldest_bounded (cursorsBounded_congr hjoined (measure_cursors rfl) rfl)

theorem joinedBy_tractors (s : State) (due : VehicleId → VehicleId → Bool) (c : Convoy) (v : VehicleId) (gmin gmax : Nat) :
    Convoy.tractors (Convoy.dropOldest { c with members := s.measure due (c.joinedBy v gmin gmax).members }) =
      c.tractors ++ [v] := by
  rw [dropOldest_tractors, tractors_of_cursors (c := c.joinedBy v gmin gmax) (measure_cursors rfl)]
  simp [Convoy.tractors, Convoy.joinedBy]

end Sys2Proof.Machine

/-! SUPPORT. Which changes of the convoys and of the vehicles keep the convoys sound (R79 to R81). -/

namespace Sys2Proof.Machine

/-! ### Places -/

/-- What the soundness of convoys reads of a vehicle's record (R80, R81). -/
def Vehicle.place (x : Vehicle) : Option ConvoyId × Bool × Kind := (x.convoy, x.valid, x.kind)

/-- What the soundness of convoys reads of a state. -/
def State.places (s : State) : Vector Convoy 12 × (VehicleId → Option ConvoyId × Bool × Kind) :=
  (s.convoys, fun v => (s.vehicle v).place)

theorem places_vehicle {s t : State} (h : t.places = s.places) (v : VehicleId) : (t.vehicle v).place = (s.vehicle v).place :=
  congrFun (congrArg Prod.snd h) v

theorem places_convoy {s t : State} (h : t.places = s.places) (c : ConvoyId) : t.convoy c = s.convoy c :=
  congrArg (fun p : Vector Convoy 12 × (VehicleId → Option ConvoyId × Bool × Kind) => p.1[c]) h

theorem places_of_tables {s t : State} (hk : t.convoys = s.convoys) (hv : t.vehicles = s.vehicles) : t.places = s.places := by
  unfold State.places State.vehicle
  rw [hk, hv]

/-- Where every record is sound and has its old members, and every vehicle its old place, the convoys stay sound. -/
theorem convoysSound_keep {s t : State} (hs : s.convoysSound)
    (hc : ∀ c, (t.convoy c).sound ∧ (t.convoy c).tractors = (s.convoy c).tractors)
    (hv : ∀ v, (t.vehicle v).place = (s.vehicle v).place) : t.convoysSound := by
  refine ⟨fun c => (hc c).1, fun v c => ?_⟩
  obtain ⟨hconvoy, hvalid, hkind⟩ : (t.vehicle v).convoy = (s.vehicle v).convoy ∧
      (t.vehicle v).valid = (s.vehicle v).valid ∧ (t.vehicle v).kind = (s.vehicle v).kind := by
    simpa [Vehicle.place] using hv v
  have htractors : (t.convoy c).members.map Member.tractor = (s.convoy c).members.map Member.tractor := (hc c).2
  rw [hconvoy, hvalid, hkind, htractors]
  exact hs.2 v c

theorem convoysSound_of_places {s t : State} (hs : s.convoysSound) (h : t.places = s.places) : t.convoysSound :=
  convoysSound_keep hs (fun c => by rw [places_convoy h c]; exact ⟨hs.1 c, rfl⟩) (places_vehicle h)

/-- One convoy is written anew, and the vehicles' convoy fields follow its member list. -/
theorem convoysSound_rewrite {s t : State} {c : ConvoyId} (hs : s.convoysSound)
    (hother : ∀ d, d ≠ c → t.convoy d = s.convoy d) (hsound : (t.convoy c).sound)
    (hmember : ∀ v, (t.vehicle v).convoy = some c ↔ v ∈ (t.convoy c).tractors)
    (hkeep : ∀ v d, d ≠ c → ((t.vehicle v).convoy = some d ↔ (s.vehicle v).convoy = some d))
    (htractor : ∀ v d, (t.vehicle v).convoy = some d → (t.vehicle v).valid = true ∧ (t.vehicle v).kind = .tractor) :
    t.convoysSound := by
  refine ⟨fun d => ?_, fun v d => ⟨?_, htractor v d⟩⟩
  · by_cases e : d = c
    · exact e ▸ hsound
    · rw [hother d e]
      exact hs.1 d
  · by_cases e : d = c
    · exact e ▸ hmember v
    · rw [hother d e, hkeep v d e]
      exact (hs.2 v d).1

section Table

variable {s : State} (hs : s.convoysSound)
include hs

theorem member_iff (v : VehicleId) (c : ConvoyId) : (s.vehicle v).convoy = some c ↔ v ∈ (s.convoy c).tractors := (hs.2 v c).1

theorem member_tractor {v : VehicleId} {c : ConvoyId} (h : (s.vehicle v).convoy = some c) :
    (s.vehicle v).valid = true ∧ (s.vehicle v).kind = .tractor := (hs.2 v c).2 h

/-- A vehicle in some convoy is a valid tractor (R81). -/
theorem inConvoy_tractor {v : VehicleId} (h : (s.vehicle v).convoy ≠ none) :
    (s.vehicle v).valid = true ∧ (s.vehicle v).kind = .tractor := by
  obtain ⟨c, hc⟩ := Option.ne_none_iff_exists'.mp h
  exact member_tractor hs hc

/-- A vehicle that is not valid is in no convoy (R81). -/
theorem convoy_none {v : VehicleId} (h : (s.vehicle v).valid = false) : (s.vehicle v).convoy = none := by
  by_contra hc
  exact absurd (inConvoy_tractor hs hc).1 (by simp [h])

/-- The convoy of a member is allocated (R79). -/
theorem member_allocated {v : VehicleId} {c : ConvoyId} (h : (s.vehicle v).convoy = some c) :
    (s.convoy c).state ≠ .free ∧ (s.convoy c).members ≠ [] := by
  have hmem := (member_iff hs v c).mp h
  obtain ⟨-, ⟨-, -, hfree, -⟩, -⟩ := hs.1 c
  have hne : (s.convoy c).members ≠ [] := fun e => by simp [Convoy.tractors, e] at hmem
  exact ⟨fun e => hne (hfree.mp e), hne⟩

theorem convoysSound_setChannel (c : Channel) (u : ChannelUnit) : (s.setChannel c u).convoysSound :=
  convoysSound_of_places hs rfl

/-- One record is changed, with its members kept. -/
theorem convoysSound_setConvoy {c : ConvoyId} {x : Convoy} (hx : x.sound) (hm : x.tractors = (s.convoy c).tractors) :
    (s.setConvoy c x).convoysSound := by
  refine convoysSound_keep hs (fun d => ?_) fun v => rfl
  rw [convoy_setConvoy]
  split
  · rename_i e
    exact ⟨hx, e ▸ hm⟩
  · exact ⟨hs.1 d, rfl⟩

/-- Vehicles' records are changed, with their convoy fields kept; a member stays a valid tractor. -/
theorem convoysSound_vehicles {t : State} (hk : t.convoys = s.convoys)
    (hv : ∀ v, (t.vehicle v).convoy = (s.vehicle v).convoy ∧
      ((s.vehicle v).convoy ≠ none → (t.vehicle v).valid = true ∧ (t.vehicle v).kind = .tractor)) : t.convoysSound := by
  have hconvoy (c : ConvoyId) : t.convoy c = s.convoy c := by rw [State.convoy, hk]; rfl
  refine ⟨fun c => (hconvoy c).symm ▸ hs.1 c, fun v c => ?_⟩
  obtain ⟨hc, hmember⟩ := hv v
  rw [hc, hconvoy]
  exact ⟨(hs.2 v c).1, fun h => hmember (by simp [h])⟩

/-- One vehicle's record is changed, with its convoy field kept; a member stays a valid tractor. -/
theorem convoysSound_setVehicle {v : VehicleId} {y : Vehicle} (hc : y.convoy = (s.vehicle v).convoy)
    (hk : (s.vehicle v).convoy ≠ none → y.valid = true ∧ y.kind = .tractor) : (s.setVehicle v y).convoysSound := by
  refine convoysSound_vehicles hs rfl fun w => ?_
  rw [vehicle_setVehicle]
  split
  · rename_i e
    exact e ▸ ⟨hc, hk⟩
  · exact ⟨rfl, inConvoy_tractor hs⟩

/-- A tractor joins a convoy. -/
theorem convoysSound_join {c : ConvoyId} {x : Convoy} {v : VehicleId} (hx : x.sound)
    (hm : x.tractors = (s.convoy c).tractors ++ [v]) (hv : (s.vehicle v).valid = true)
    (hk : (s.vehicle v).kind = .tractor) (hfree : (s.vehicle v).convoy = none) :
    ((s.setConvoy c x).setConvoyOf v (some c)).convoysSound := by
  refine convoysSound_rewrite (c := c) hs (fun d hd => convoy_setConvoy_other s c d x hd) ?_ (fun w => ?_)
    (fun w d hd => ?_) fun w d h => ?_
  · exact (convoy_setConvoy_same s c x).symm ▸ hx
  · show _ ↔ w ∈ ((s.setConvoy c x).convoy c).tractors
    rw [convoy_setConvoy_same, hm, List.mem_append, List.mem_singleton, ← member_iff hs, State.setConvoyOf,
      vehicle_setVehicle]
    split
    · rename_i e
      simp [e]
    · rename_i e
      simp [e]
  · rw [State.setConvoyOf, vehicle_setVehicle]
    split
    · rename_i e
      simp [e, hfree, hd.symm]
    · rfl
  · rw [State.setConvoyOf, vehicle_setVehicle] at h ⊢
    split at h
    · rename_i e
      rw [if_pos e]
      exact ⟨hv, hk⟩
    · rename_i e
      rw [if_neg e]
      exact member_tractor hs h

/-- A tractor leaves its convoy. -/
theorem convoysSound_leave {c : ConvoyId} {x : Convoy} {v : VehicleId} (hx : x.sound)
    (hm : x.tractors = (s.convoy c).tractors.filter fun w => w ≠ v) (hv : (s.vehicle v).convoy = some c) :
    ((s.setConvoy c x).setConvoyOf v none).convoysSound := by
  refine convoysSound_rewrite (c := c) hs (fun d hd => convoy_setConvoy_other s c d x hd) ?_ (fun w => ?_)
    (fun w d hd => ?_) fun w d h => ?_
  · exact (convoy_setConvoy_same s c x).symm ▸ hx
  · show _ ↔ w ∈ ((s.setConvoy c x).convoy c).tractors
    rw [convoy_setConvoy_same, hm, List.mem_filter, ← member_iff hs, State.setConvoyOf, vehicle_setVehicle]
    split
    · rename_i e
      simp [e]
    · rename_i e
      simp [e]
  · rw [State.setConvoyOf, vehicle_setVehicle]
    split
    · rename_i e
      simp [e, hv, hd.symm]
    · rfl
  · rw [State.setConvoyOf, vehicle_setVehicle] at h ⊢
    split at h
    · simp at h
    · rename_i e
      rw [if_neg e]
      exact member_tractor hs h

/-- Every member of a convoy becomes solo, and the convoy FREE (R90). -/
theorem convoysSound_disband (c : ConvoyId) : (s.disbandConvoy c).convoysSound := by
  have hconvoy (d) : (s.disbandConvoy c).convoy d = if d = c then Convoy.blank else s.convoy d :=
    convoy_setConvoy (s.withdrawEverywhere (.convoy c)) c d .blank
  have hvehicle (v) : (s.disbandConvoy c).vehicle v =
      if (s.vehicle v).convoy = some c then { s.vehicle v with convoy := none } else s.vehicle v := by
    rw [State.disbandConvoy, vehicle_mapVehicles_same]
    refine if_congr ?_ rfl rfl
    rw [member_iff hs]
    simp [Convoy.tractors]
  refine convoysSound_rewrite (c := c) hs (fun d hd => by rw [hconvoy, if_neg hd]) ?_ (fun v => ?_) (fun v d hd => ?_)
    fun v d h => ?_
  · rw [hconvoy, if_pos rfl]
    exact blank_convoySound
  · rw [hconvoy, if_pos rfl, hvehicle]
    split <;> simp_all [Convoy.tractors, Convoy.blank]
  · rw [hvehicle]
    split
    · rename_i e
      simp [e, hd.symm]
    · rfl
  · rw [hvehicle] at h ⊢
    split at h
    · simp at h
    · rename_i e
      rw [if_neg e]
      exact member_tractor hs h

theorem sound_break {c : ConvoyId} (k : BreakCause) (h : (s.convoy c).state ≠ .free) : ((s.convoy c).break k).sound := by
  obtain ⟨hcursors, hfields, hbands⟩ := hs.1 c
  exact ⟨hcursors, break_record _ k h hfields hbands⟩

/-- The loss of members breaks convoys and changes no member list (R94). -/
theorem convoysSound_loseMembers (lost : List VehicleId) : (s.loseMembers lost).convoysSound := by
  obtain ⟨n, ks, h, hk⟩ := loseMembers_spec s lost
  rw [h]
  refine convoysSound_keep hs (fun c => ?_) fun v => rfl
  show (ks[c]).sound ∧ (ks[c]).tractors = _
  rcases hk c with ⟨e, -⟩ | ⟨v, -, hv, -, e⟩ <;> rw [e]
  · exact ⟨hs.1 c, rfl⟩
  · exact ⟨sound_break hs _ (member_allocated hs hv).1, rfl⟩

/-- An ack changes the record of the vehicle's own convoy, and keeps its members (R91 to R104). -/
theorem convoysSound_convoyAck (v : VehicleId) (before : Option Segment) : (s.convoyAck v before).1.convoysSound := by
  unfold State.convoyAck
  split
  · rename_i c hc
    obtain ⟨hcursors, hfields, hbands⟩ := hs.1 c
    exact convoysSound_setConvoy hs ⟨convoyAfterAck_sound v before hcursors,
      convoyAfterAck_record s _ v before (member_allocated hs hc).1 hfields hbands⟩ (convoyAfterAck_tractors s _ v before)
  · exact hs

theorem convoysSound_removeMember {c : ConvoyId} {v : VehicleId} (hv : (s.vehicle v).convoy = some c) :
    (s.removeMember c v).convoysSound := by
  obtain ⟨hcursors, hfields, hbands⟩ := hs.1 c
  have hmem : v ∈ (s.convoy c).tractors := (member_iff hs v c).mp hv
  unfold State.removeMember
  dsimp only
  split
  · rename_i hone
    refine convoysSound_of_places (convoysSound_leave (x := .blank) hs blank_convoySound ?_ hv) rfl
    obtain ⟨w, hw⟩ : ∃ w, (s.convoy c).tractors = [w] := by
      refine List.length_eq_one_iff.mp (le_antisymm ?_ (List.length_pos_of_mem hmem))
      simpa [Convoy.tractors] using hone
    rw [hw, List.mem_singleton] at hmem
    rw [hw, hmem]
    simp [Convoy.tractors, Convoy.blank]
  · rename_i hmany
    exact convoysSound_leave hs ⟨convoyWithout_sound v hcursors (others_left hcursors (Nat.lt_of_not_le hmany) v),
      convoyWithout_record s _ v hcursors.1 (Nat.lt_of_not_le hmany) hfields hbands⟩ (convoyWithout_tractors s _ v) hv

end Table

end Sys2Proof.Machine

/-! SUPPORT. Which operations and commands leave the convoys, and the place of every vehicle in them, alone. -/

namespace Sys2Proof.Machine

/-! ### One vehicle's place -/

theorem place_cycleStart (x : Vehicle) (c : Channel) : (x.cycleStart c).place = x.place := by
  have hacquire (y : Vehicle) : (y.acquireAt c).place = y.place := by
    unfold Vehicle.acquireAt
    split <;> rfl
  have harrive (a : Assignment) : (x.arrive a).place = x.place := by
    unfold Vehicle.arrive
    split <;> rfl
  have hstaging : (x.stagingAt c).place = x.place := by
    unfold Vehicle.stagingAt
    repeat' split
    any_goals exact harrive _
    all_goals rfl
  unfold Vehicle.cycleStart
  split
  · exact (hacquire _).trans hstaging
  · rfl

theorem place_channelLost (x : Vehicle) (c : Channel) (leaves : Bool) : (x.channelLost c leaves).place = x.place := by
  unfold Vehicle.channelLost
  dsimp only
  split <;> split <;> rfl

/-! ### Operations that leave every place alone -/

theorem places_setVehicle {s : State} {v : VehicleId} {y : Vehicle} (h : y.place = (s.vehicle v).place) :
    (s.setVehicle v y).places = s.places := by
  refine Prod.ext rfl (funext fun w => ?_)
  show ((s.setVehicle v y).vehicle w).place = _
  rw [vehicle_setVehicle]
  split
  · rename_i e
    exact e ▸ h
  · rfl

theorem places_mapVehicles (s : State) {f : VehicleId → Vehicle → Vehicle} (h : ∀ v (x : Vehicle), (f v x).place = x.place) :
    (s.mapVehicles f).places = s.places := by
  refine Prod.ext rfl (funext fun w => ?_)
  show ((s.mapVehicles f).vehicle w).place = _
  rw [vehicle_mapVehicles_same]
  exact h w _

/-- Attachments, identifications and polls have no part in the convoys. -/
theorem places_of_coupling {s t : State} (h : OnlyCoupling s t) : t.places = s.places := by
  obtain ⟨hframe, hvehicle, -, -⟩ := h
  have hconvoys := congrArg State.convoys hframe
  refine Prod.ext hconvoys (funext fun w => ?_)
  have hplace := congrArg Vehicle.place (hvehicle w)
  exact hplace

@[simp] theorem settle_places (w : Work) : w.settle.places = w.state.places := by
  obtain ⟨u, q, n, h, -⟩ := settle_spec w
  rw [h]
  rfl

theorem offerFrame_places (n : Nat) (s : State) (f : LinkFrame) : (s.offerFrame n f).places = s.places := by
  rw [offerFrame_eq]
  rfl

theorem answerInFlight_places (s : State) (code : Byte) (a : Answer) : (s.answerInFlight code a).state.places = s.places := by
  unfold State.answerInFlight
  split
  · split <;> rfl
  · rfl

theorem answerRestart_places (s : State) (c : Channel) (status : ReplyStatus) :
    (s.answerRestart c status).state.places = s.places := by
  unfold State.answerRestart
  split
  · exact answerInFlight_places s _ _
  · rfl

theorem judgeStart_places (s : State) : s.judgeStart.1.places = s.places :=
  places_of_coupling (onlyCoupling_of_polls (judgeStart_spec s).1)

theorem pollReport_places (s : State) (c : Channel) (replies : List Byte) (garbled : Bool) :
    (s.pollReport c replies garbled).1.places = s.places :=
  places_of_coupling (onlyCoupling_of_attachments (pollReport_spec s c replies garbled).1)

theorem laneAck_places (s : State) (v : VehicleId) : (s.laneAck v).1.places = s.places := by
  rw [(laneAck_spec s v).1]
  rfl

theorem beginCycle_places (s : State) (c : Channel) (counter : Nat) : (s.beginCycle c counter).places = s.places :=
  places_mapVehicles (s.setChannel c _) fun _ x => place_cycleStart x c

theorem lockReport_places (s : State) (c : Channel) : (s.lockReport c).places = s.places := by
  unfold State.lockReport
  split
  case h_2 => exact beginCycle_places (s.setChannel c _) c _
  all_goals rfl

/-- A channel that goes to FAILED leaves every place alone (R23, R25, R26). -/
theorem enterFailed_places (s : State) (c : Channel) (u : ChannelUnit) (ls : List Latch) :
    ((s.setChannel c u).enterFailed c ls).state.places = s.places :=
  answerRestart_places (s.setChannel c u) c .failed

theorem passTest_places (s : State) (c : Channel) : (s.passTest c).state.places = s.places :=
  (answerRestart_places _ c .ok).trans (beginCycle_places (s.setChannel c _) c 0)

theorem lockLostInTest_places (s : State) (c : Channel) (returned : List Byte) :
    (s.lockLostInTest c returned).state.places = s.places := by
  have hpick : (s.pick 8).2.places = s.places := by
    rw [pick_state]
    rfl
  unfold State.lockLostInTest
  dsimp only
  split
  · exact enterFailed_places s c _ _
  · split
    · exact enterFailed_places s c _ _
    · exact (enterFailed_places _ c _ _).trans hpick

theorem unbound_places (s : State) (source : Byte) (group : Nat) (cls : Byte) :
    (s.unbound source group cls).places = s.places := by
  unfold State.unbound
  split
  · rfl
  · exact (settle_places _).trans (offerFrame_places _ s _)

/-- A link frame, whatever its class, changes no convoy (R163). -/
theorem receive_places (s : State) (destination source : Byte) (payload : List Byte) :
    (s.receiveDrive destination source payload).places = s.places ∧
      (s.receiveAux destination source payload).places = s.places ∧
      (s.receiveMgmt destination source payload).places = s.places := by
  refine ⟨?drive, ?aux, ?mgmt⟩
  case drive =>
    unfold State.receiveDrive
    repeat' split
    any_goals rfl
    exact unbound_places s _ _ _
  case aux =>
    unfold State.receiveAux
    repeat' split
    any_goals rfl
    exact unbound_places s _ _ _
  case mgmt =>
    unfold State.receiveMgmt
    dsimp only
    repeat' split
    any_goals rfl
    exact offerFrame_places _ s _

/-! ### Management commands that leave every place alone -/

theorem atOnce_places {code : Byte} {run : List Byte → State → Done} {s : State}
    (h : ∀ args, (run args s).state.places = s.places) : (atOnce code run s).places = s.places := by
  unfold atOnce
  split
  · exact (settle_places _).trans (h _)
  · rfl

/-- What only answers, clears faults or disarms bindings changes no convoy (R56, R157, R158, R170, R174). -/
theorem runPlain_places (s : State) (args : List Byte) :
    (runStatus args s).state.places = s.places ∧ (runRead args s).state.places = s.places ∧
      (runFaultRead args s).state.places = s.places ∧ (runFaultClear args s).state.places = s.places ∧
      (runStopAll args s).state.places = s.places := by
  unfold runStatus runRead runFaultRead runFaultClear runStopAll
  dsimp only
  refine ⟨?_, ?_, ?_, ?_, ?_⟩
  all_goals
    repeat' split
    all_goals rfl

theorem runZoneRelease_places (s : State) (args : List Byte) : (runZoneRelease args s).state.places = s.places := by
  unfold runZoneRelease
  repeat' split
  all_goals rfl

/-- A decision on an attachment, and the start that it makes due (R148, R143). -/
theorem runDecision_places {decide : VehicleId → VehicleId → State → State} {s : State}
    (h : ∀ x w, (decide x w s).places = s.places) (args : List Byte) : (runDecision decide args s).state.places = s.places := by
  unfold runDecision
  dsimp only
  repeat' split
  any_goals rfl
  exact (judgeStart_places _).trans (h _ _)

/-- What every entry keeps of the convoys and of the vehicles' places, a WRITE keeps (R171). -/
theorem writeStep_convoysSound {judge : EntryJudge}
    (h : ∀ i bytes (s : State), s.convoysSound → (judge i bytes s).state.convoysSound) (table : Byte) (size : Nat)
    {s : State} (hs : s.convoysSound) : (writeStep table size judge s).convoysSound := by
  have hrun (args : List Byte) : (runWrite table size judge args s).state.convoysSound := by
    unfold runWrite
    split
    · rename_i first entries _
      exact convoysSound_of_places (writeEntries_invariant h first entries s hs)
        (places_of_coupling (onlyCoupling_of_polls (ended_spec _).1))
    · exact hs
  unfold writeStep
  split
  · rename_i args _
    split
    · exact convoysSound_of_places (hrun args) (settle_places _)
    · exact hs
  · exact hs

theorem judgeOthers_places (index : Nat) (bytes : List Byte) (s : State) :
    (judgeBinding index bytes s).state.places = s.places ∧ (judgeZone index bytes s).state.places = s.places ∧
      (judgeLimits index bytes s).state.places = s.places :=
  ⟨by rw [judgeBinding_frame]; rfl, by rw [judgeZone_frame]; rfl, by rw [judgeLimits_frame]; rfl⟩

end Sys2Proof.Machine

/-! SUPPORT. Every command keeps the convoys sound (R79 to R81, R98). -/

namespace Sys2Proof.Machine

/-! ### The operations that change convoys or members -/

section Operations

variable {s : State} (hs : s.convoysSound)
include hs

/-- A vehicle that is not valid is in no convoy, and stays out of every one at OFF (R14, R81). -/
theorem convoysSound_reachOff {v : VehicleId} (hv : (s.vehicle v).valid = false) :
    (s.setVehicle v (s.vehicle v).reachOff).convoysSound :=
  convoysSound_setVehicle hs (convoy_none hs hv).symm fun h => absurd (convoy_none hs hv) h

theorem convoysSound_endVehicleSlot (f : Option SlotFlight) : (s.endVehicleSlot f).convoysSound := by
  unfold State.endVehicleSlot
  split
  · split
    · exact hs
    · rename_i hv
      exact convoysSound_reachOff hs (Bool.not_eq_true _ ▸ hv)
  · exact hs

theorem convoysSound_vehiclesLoseChannel (c : Channel) (leaves : Bool) : (s.vehiclesLoseChannel c leaves).convoysSound :=
  convoysSound_loseMembers (convoysSound_of_places hs (places_mapVehicles s fun _ x => place_channelLost x c leaves)) _

theorem convoysSound_pollClosed (c : Channel) (old : ChannelUnit) : (s.pollClosed c old).1.convoysSound := by
  unfold State.pollClosed
  split
  · exact convoysSound_of_places hs (pollReport_places s c [] false)
  · exact hs

theorem convoysSound_leaveServing (c : Channel) (old : ChannelUnit) : (s.leaveServing c old).state.convoysSound := by
  have hended := convoysSound_endVehicleSlot (convoysSound_setChannel hs c (s.channel c).clearSlots) old.flight
  have hclosed := convoysSound_pollClosed (convoysSound_vehiclesLoseChannel hended c true) c old
  rw [leaveServing_eq s _ c old rfl]
  dsimp only
  split
  · exact convoysSound_of_places hclosed (answerInFlight_places _ _ _)
  · exact hclosed

theorem convoysSound_lockLostReport (c : Channel) (returned : List Byte) :
    (s.lockLostReport c returned).state.convoysSound := by
  unfold State.lockLostReport
  split
  case h_1 => exact convoysSound_leaveServing (convoysSound_setChannel hs c _) c _
  case h_2 => exact convoysSound_of_places hs (lockLostInTest_places s c returned)
  all_goals exact hs

theorem convoysSound_restartChannel (c : Channel) : (s.restartChannel c).state.convoysSound := by
  obtain ⟨u, -, hrestart⟩ := restartChannel_eq s c
  rw [hrestart]
  split
  · exact convoysSound_leaveServing (convoysSound_setChannel hs c u) c _
  · dsimp only
    exact convoysSound_vehiclesLoseChannel (convoysSound_setChannel hs c _) c false

theorem convoysSound_miss (v : VehicleId) : (s.miss v).state.convoysSound := by
  have hset (y : Vehicle) (hy : y.place = (s.vehicle v).place) : (s.setVehicle v y).convoysSound :=
    convoysSound_of_places hs (places_setVehicle hy)
  unfold State.miss
  dsimp only
  split
  · dsimp only
    refine convoysSound_loseMembers ?_ [v]
    exact hset _ rfl
  · exact hset { s.vehicle v with misses := min 15 ((s.vehicle v).misses + 1) } rfl

theorem convoysSound_validAck (v : VehicleId) (a : Ack) : (s.validAck v a).state.convoysSound := by
  have hack : (s.setVehicle v ((s.vehicle v).withAck a)).convoysSound := convoysSound_of_places hs (places_setVehicle rfl)
  have hconvoy := convoysSound_convoyAck hack v (s.vehicle v).current
  have hlane := convoysSound_of_places hconvoy (laneAck_places _ v)
  exact convoysSound_of_places hlane (places_of_coupling (couplerAck_spec _ v (s.vehicle v)).1)

theorem convoysSound_slotOutcome (v : VehicleId) (ack : Option Ack) : (s.slotOutcome v ack).state.convoysSound := by
  unfold State.slotOutcome
  split
  · split
    · exact convoysSound_validAck hs v _
    · exact convoysSound_miss hs v
  · rename_i hv
    exact convoysSound_reachOff hs (Bool.not_eq_true _ ▸ hv)

theorem convoysSound_restarted : s.restarted.convoysSound := by
  refine convoysSound_keep hs (fun c => ?_) fun v => ?_
  · obtain ⟨hcursors, hfields, hbands⟩ := hs.1 c
    have hc : s.restarted.convoy c = (s.convoy c).restart := convoy_mapConvoys_same s Convoy.restart c
    have hsame : (s.convoy c).restart.members = (s.convoy c).members ∧ (s.convoy c).restart.trail = (s.convoy c).trail := by
      unfold Convoy.restart
      split <;> exact ⟨rfl, rfl⟩
    obtain ⟨hm, ht⟩ := hsame
    rw [hc]
    exact ⟨⟨cursorsSound_congr hcursors (by rw [Convoy.cursors, hm]; rfl) ht, restart_record _ hfields hbands⟩,
      congrArg (List.map Member.tractor) hm⟩
  · have hv : s.restarted.vehicle v = (s.vehicle v).atRest :=
      vehicle_mapVehicles_same (s.mapBindings Binding.disarm) (fun _ x => x.atRest) v
    rw [hv]
    rfl

/-! ### The convoy commands -/

theorem convoysSound_atOnce {code : Byte} {run : List Byte → State → Done} (h : ∀ args, (run args s).state.convoysSound) :
    (atOnce code run s).convoysSound := by
  unfold atOnce
  split
  · exact convoysSound_of_places (h _) (settle_places _)
  · exact hs

omit hs in
/-- A tractor that passes the checks of CONVOY_FORM and CONVOY_ADD is a valid tractor in no convoy (R84, R85). -/
theorem joinRefusal_none {v : VehicleId} (h : s.joinRefusal v = none) :
    (s.vehicle v).valid = true ∧ (s.vehicle v).kind = .tractor ∧ (s.vehicle v).convoy = none := by
  unfold State.joinRefusal at h
  split at h
  · simp at h
  · split at h
    · simp at h
    · split at h
      · simp at h
      · simp_all

theorem convoysSound_formConvoy {c : ConvoyId} {v : VehicleId} (hc : (s.convoy c).state = .free)
    (hv : s.joinRefusal v = none) : (s.formConvoy c v).convoysSound := by
  obtain ⟨hvalid, hkind, hsolo⟩ := joinRefusal_none hv
  obtain ⟨-, ⟨-, -, hfree, -⟩, -⟩ := hs.1 c
  refine convoysSound_join hs ⟨?_, ?_, ?_⟩ ?_ hvalid hkind hsolo
  · simp [Convoy.cursorsSound]
  · simp [Convoy.fieldsSound]
  · simp [Convoy.bandsSound]
  · simp [Convoy.tractors, hfree.mp hc]

theorem convoysSound_addMember {c : ConvoyId} {v : VehicleId} {gmin gmax : Nat}
    (hc : (s.convoy c).state = .forming ∨ (s.convoy c).state = .holding) (hv : s.joinRefusal v = none)
    (hmin : 1 ≤ gmin ∧ gmin ≤ 4) (hmax : gmin ≤ gmax ∧ gmax ≤ 8) : (s.addMember c v gmin gmax).convoysSound := by
  obtain ⟨hvalid, hkind, hsolo⟩ := joinRefusal_none hv
  obtain ⟨hcursors, hfields, hbands⟩ := hs.1 c
  have halloc : (s.convoy c).state ≠ .free := by
    rcases hc with hc | hc <;> simp [hc]
  have hnew : v ∉ (s.convoy c).tractors := fun h => by simp [(member_iff hs v c).mpr h] at hsolo
  have hne : (s.convoy c).members ≠ [] := fun e => halloc (hfields.2.2.1.mpr e)
  exact convoysSound_join hs ⟨joinedBy_sound gmin gmax hcursors hne hnew,
    addMember_record s _ v gmin gmax _ halloc hmin.1 hmin.2 hmax.1 hmax.2 hfields hbands⟩
    (joinedBy_tractors s _ _ v gmin gmax) hvalid hkind hsolo

theorem convoysSound_runConvoyForm (args : List Byte) : (runConvoyForm args s).state.convoysSound := by
  unfold runConvoyForm
  split
  · split
    · split
      · exact hs
      · rename_i hc
        split
        · exact hs
        · rename_i hv
          exact convoysSound_formConvoy hs (not_not.mp hc) hv
    · exact hs
  · exact hs

theorem convoysSound_runConvoyAdd (args : List Byte) : (runConvoyAdd args s).state.convoysSound := by
  unfold runConvoyAdd
  dsimp only
  split
  · rename_i gmin gmax
    split
    · split
      · exact hs
      · rename_i hc
        split
        · exact hs
        · split
          · exact hs
          · rename_i hv
            obtain ⟨h1, h4⟩ := clampNat_range 1 4 gmin.toNat (by decide)
            exact convoysSound_addMember hs (by tauto) hv ⟨h1, h4⟩ (clampNat_range _ 8 gmax.toNat (h4.trans (by decide)))
    · exact hs
  · exact hs

theorem convoysSound_runConvoyRemove (args : List Byte) : (runConvoyRemove args s).state.convoysSound := by
  unfold runConvoyRemove
  dsimp only
  split
  · split
    · split
      · exact hs
      · rename_i hv
        split
        · exact hs
        · split
          · exact hs
          · exact convoysSound_removeMember hs hv
    · exact hs
  · exact hs

omit hs in
theorem holdConvoy_members (c : Convoy) (mode : HoldMode) :
    (s.holdConvoy c mode).members = c.members ∧ (s.holdConvoy c mode).trail = c.trail := by
  unfold State.holdConvoy
  split
  case h_2 => split <;> exact ⟨rfl, rfl⟩
  all_goals exact ⟨rfl, rfl⟩

theorem convoysSound_runConvoyHold (args : List Byte) : (runConvoyHold args s).state.convoysSound := by
  unfold runConvoyHold
  split
  · split
    · rename_i c mode _ _
      split
      · exact hs
      · obtain ⟨hcursors, hfields, hbands⟩ := hs.1 c
        obtain ⟨hm, ht⟩ := holdConvoy_members (s := s) (s.convoy c) mode
        exact convoysSound_setConvoy hs ⟨cursorsSound_congr hcursors (by rw [Convoy.cursors, hm]; rfl) ht,
          holdConvoy_record s _ mode hfields hbands⟩ (congrArg (List.map Member.tractor) hm)
    · exact hs
  · exact hs

/-- A convoy that is resumed keeps its members and its trail (R89). -/
theorem convoysSound_resume {c : ConvoyId} (hc : (s.convoy c).state ≠ .free) :
    (s.setConvoy c { s.convoy c with state := .rolling, holdRef := none, cause := none }).convoysSound := by
  obtain ⟨hcursors, ⟨-, -, hfree, -⟩, hbands⟩ := hs.1 c
  have hne : (s.convoy c).members ≠ [] := fun e => hc (hfree.mpr e)
  exact convoysSound_setConvoy hs ⟨hcursors, ⟨by simp, by simp, by simpa using hne, by simp⟩, hbands⟩ rfl

theorem convoysSound_runConvoyResume (args : List Byte) : (runConvoyResume args s).state.convoysSound := by
  unfold runConvoyResume
  split
  · split
    · split
      · exact hs
      · rename_i hr
        split
        · exact hs
        · exact convoysSound_resume hs fun hfree => by simp [State.resumeRefusal, hfree] at hr
    · exact hs
  · exact hs

theorem convoysSound_runConvoyDisband (args : List Byte) : (runConvoyDisband args s).state.convoysSound := by
  unfold runConvoyDisband
  repeat' split
  any_goals exact hs
  exact convoysSound_disband hs _

theorem convoysSound_runRestart (args : List Byte) : (runRestart args s).state.convoysSound := by
  unfold runRestart
  split
  · exact convoysSound_restarted hs
  · exact hs

end Operations

/-! ### A vehicle entry (R5 to R13) -/

theorem rewrite_convoy (x : Vehicle) (cfg : VehicleConfig) (serving : Bool) :
    (x.rewrite cfg serving).convoy = x.convoy ∧ (x.rewrite cfg serving).valid = cfg.valid ∧
      (x.rewrite cfg serving).kind = cfg.kind := by
  unfold Vehicle.rewrite
  dsimp only
  repeat' split
  all_goals exact ⟨rfl, rfl, rfl⟩

theorem invalidated_convoy (x : Vehicle) (cfg : VehicleConfig) (inFlight : Bool) (h : x.convoy = none) :
    (x.invalidated cfg inFlight).convoy = none := by
  unfold Vehicle.invalidated
  split
  · exact h
  · rfl

/-- An entry that is not refused keeps a member's validity and its kind (checks 3 and 4 of R5). -/
theorem vehicleRefusal_member {s : State} {v : VehicleId} {cfg : VehicleConfig} (h : s.vehicleRefusal v cfg = none)
    (hx : (s.vehicle v).valid = true) (hc : (s.vehicle v).convoy ≠ none) : cfg.valid = true ∧ cfg.kind = (s.vehicle v).kind := by
  have hsome : (s.vehicle v).convoy.isSome = true := Option.isSome_iff_ne_none.mpr hc
  cases hv : cfg.valid with
  | false => simp [State.vehicleRefusal, hv, hx, State.blocksInvalidation, hsome] at h
  | true =>
    refine ⟨rfl, by_contra fun hkind => ?_⟩
    simpa [State.blocksKindChange, hsome] using (vehicleRefusal_none h hv).1 hkind

/-- An accepted entry leaves every convoy field as it is, and every member a valid tractor (R9, R10, R13). -/
theorem convoysSound_applyVehicle {s : State} (hs : s.convoysSound) {v : VehicleId} {cfg : VehicleConfig}
    (h : s.vehicleRefusal v cfg = none) : (s.applyVehicle v cfg).convoysSound := by
  have hsolo (k : (s.vehicle v).valid = false ∨ cfg.valid = false) : (s.vehicle v).convoy = none := by
    by_contra hc
    have hvalid := (inConvoy_tractor hs hc).1
    simp [hvalid, (vehicleRefusal_member h hvalid hc).1] at k
  unfold State.applyVehicle
  dsimp only
  split
  · split
    · rename_i hvalid
      obtain ⟨hconvoy, hv, hk⟩ := rewrite_convoy (s.vehicle v) cfg (s.serving (s.vehicle v).active.channel)
      refine convoysSound_setVehicle hs hconvoy fun hc => ?_
      obtain ⟨hcv, hck⟩ := vehicleRefusal_member h hvalid hc
      exact ⟨hv.trans hcv, (hk.trans hck).trans (inConvoy_tractor hs hc).2⟩
    · rename_i hvalid
      have hnone := hsolo (.inl (Bool.not_eq_true _ ▸ hvalid))
      exact convoysSound_setVehicle hs hnone.symm fun hc => absurd hnone hc
  · rename_i hcv
    have hnone := hsolo (.inr (Bool.not_eq_true _ ▸ hcv))
    split
    · have hconvoys := congrArg State.convoys (invalidate_frame s v cfg)
      refine convoysSound_vehicles hs hconvoys fun w => ?_
      rw [invalidate_vehicle]
      split
      · rename_i e
        subst e
        exact ⟨(invalidated_convoy _ cfg _ hnone).trans hnone.symm, fun hc => absurd hnone hc⟩
      · split <;> exact ⟨rfl, inConvoy_tractor hs⟩
    · exact convoysSound_setVehicle hs rfl fun hc => absurd hnone hc

theorem convoysSound_judgeVehicle (index : Nat) (bytes : List Byte) (s : State) (hs : s.convoysSound) :
    (judgeVehicle index bytes s).state.convoysSound := by
  unfold judgeVehicle
  split
  · split
    · exact hs
    · split
      · exact hs
      · rename_i hr
        exact convoysSound_applyVehicle hs hr
  · exact hs

/-! ### Every command -/

/-- The command leads to a state with the same convoys and every vehicle in its place. -/
def State.LeavesPlaces (s : State) (o : Result) : Prop := Leads o fun t => t.places = s.places

theorem leavesPlaces_next {s t : State} (h : t.places = s.places) : s.LeavesPlaces (.next t) := leads_next h

theorem leavesPlaces_refl (s : State) : s.LeavesPlaces (.next s) := leavesPlaces_next rfl

theorem leavesPlaces_settle {s : State} {w : Work} (h : w.state.places = s.places) : s.LeavesPlaces (.next w.settle) :=
  leavesPlaces_next ((settle_places w).trans h)

section Plain

variable (s : State)

theorem frameCheckFailure_places (bytes : List Byte) : s.LeavesPlaces (execFrameCheckFailure bytes s) := by
  unfold execFrameCheckFailure
  split
  · exact leavesPlaces_settle rfl
  · exact leavesPlaces_refl s

theorem drive_places (header : LinkHeader) (payload : List Byte) (check : Half) :
    s.LeavesPlaces (execDrive header payload check s) := by
  unfold execDrive
  split
  · exact leavesPlaces_next (receive_places s _ _ _).1
  · exact leavesPlaces_refl s

theorem aux_places (header : LinkHeader) (payload : List Byte) (check : Half) :
    s.LeavesPlaces (execAux header payload check s) := by
  unfold execAux
  split
  · exact leavesPlaces_next (receive_places s _ _ _).2.1
  · exact leavesPlaces_refl s

theorem mgmt_places (header : LinkHeader) (payload : List Byte) (check : Half) :
    s.LeavesPlaces (execMgmt header payload check s) := by
  unfold execMgmt
  split
  · exact leavesPlaces_next (receive_places s _ _ _).2.2
  · exact leavesPlaces_refl s

theorem outputFrameSend_places : s.LeavesPlaces (execOutputFrameSend s) := by
  unfold execOutputFrameSend
  split
  · exact leavesPlaces_next rfl
  · exact leavesPlaces_refl s

theorem unknownCommand_places : s.LeavesPlaces (execUnknownCommand s) := by
  unfold execUnknownCommand
  split
  · split
    · exact leavesPlaces_settle rfl
    · split
      · exact leavesPlaces_refl s
      · exact leavesPlaces_settle rfl
  · exact leavesPlaces_refl s

theorem directSend_places : s.LeavesPlaces (execDirectSend s) := by
  unfold execDirectSend
  split
  · split
    · split
      · exact leavesPlaces_next rfl
      · exact leavesPlaces_settle rfl
    · exact leavesPlaces_settle rfl
  · exact leavesPlaces_refl s

theorem lockLimitExpiry_places (c : Channel) : s.LeavesPlaces (execLockLimitExpiry c s) := by
  unfold execLockLimitExpiry
  dsimp only
  split
  · exact leavesPlaces_settle (enterFailed_places s c _ _)
  · exact leavesPlaces_refl s

theorem relockLimitExpiry_places (c : Channel) : s.LeavesPlaces (execRelockLimitExpiry c s) := by
  unfold execRelockLimitExpiry
  dsimp only
  split
  · exact leavesPlaces_settle (enterFailed_places s c _ _)
  · exact leavesPlaces_refl s

theorem loopbackWindowEnd_places (c : Channel) (returned : List Byte) :
    s.LeavesPlaces (execLoopbackWindowEnd c returned s) := by
  unfold execLoopbackWindowEnd
  dsimp only
  split
  · split
    · exact leavesPlaces_settle (enterFailed_places s c _ _)
    · split
      · exact leavesPlaces_settle (passTest_places s c)
      · exact leavesPlaces_next rfl
  · exact leavesPlaces_refl s

theorem cycleStart_places (c : Channel) : s.LeavesPlaces (execCycleStart c s) := by
  unfold execCycleStart
  dsimp only
  split
  · exact leavesPlaces_next (beginCycle_places s c _)
  · exact leavesPlaces_refl s

theorem frameBuild_places (c : Channel) (slot : SlotNo) : s.LeavesPlaces (execFrameBuild c slot s) := by
  unfold execFrameBuild
  dsimp only
  split
  · split
    · rename_i v _
      exact leavesPlaces_next (places_setVehicle (y := (s.vehicle v).withFrame (s.shape v)) rfl)
    · exact leavesPlaces_next rfl
  · exact leavesPlaces_refl s

theorem radioFrameReceive_places (c : Channel) (bytes : List Byte) :
    s.LeavesPlaces (execRadioFrameReceive c bytes s) := by
  unfold execRadioFrameReceive
  split
  · exact leavesPlaces_next rfl
  · exact leavesPlaces_refl s

theorem housekeepingWindowEnd_places (c : Channel) : s.LeavesPlaces (execHousekeepingWindowEnd c s) := by
  unfold execHousekeepingWindowEnd
  split
  · split
    · exact leavesPlaces_settle (pollReport_places (s.endSlot c) c _ _)
    · exact leavesPlaces_next rfl
  · split
    · exact leavesPlaces_settle (answerInFlight_places (s.endSlot c) _ _)
    · exact leavesPlaces_next rfl
  · exact leavesPlaces_refl s

theorem sendLimitExpiry_places (c : Channel) : s.LeavesPlaces (execSendLimitExpiry c s) := by
  unfold execSendLimitExpiry
  dsimp only
  split
  · exact leavesPlaces_settle (answerInFlight_places (s.setChannel c _) _ _)
  · exact leavesPlaces_refl s

theorem silenceExpiry_places (b : BindingId) : s.LeavesPlaces (execSilenceExpiry b s) := by
  unfold execSilenceExpiry
  dsimp only
  split
  · exact leavesPlaces_settle rfl
  · exact leavesPlaces_refl s

theorem estopAssertionEdge_places : s.LeavesPlaces (execEstopAssertionEdge s) := by
  unfold execEstopAssertionEdge
  split
  · exact leavesPlaces_refl s
  · exact leavesPlaces_settle rfl

theorem supplyMonitorAssertionEdge_places : s.LeavesPlaces (execSupplyMonitorAssertionEdge s) := by
  unfold execSupplyMonitorAssertionEdge
  split
  · exact leavesPlaces_refl s
  · exact leavesPlaces_settle rfl

end Plain

/-- The commands that may change a convoy or a vehicle's place: resets, the WRITE of vehicles and of the other tables, the
convoy commands, and what ends with an ack, a miss or the end of a channel's service. -/
def movesPlaces : Instr → Bool
  | .powerOnReset _ | .vehicleWrite | .bindingWrite | .zoneWrite | .limitsWrite | .convoyForm | .convoyAdd | .convoyRemove
  | .convoyHold | .convoyResume | .convoyDisband | .channelRestart | .restart | .lockLost _ _ | .responseWindowEnd _ => true
  | _ => false

/-- Every other command leaves every convoy and every place alone. -/
theorem exec_places {i : Instr} (hi : movesPlaces i = false) (s : State) : s.LeavesPlaces (exec i s) := by
  cases i with
  | powerOnReset | vehicleWrite | bindingWrite | zoneWrite | limitsWrite | convoyForm | convoyAdd | convoyRemove | convoyHold
  | convoyResume | convoyDisband | channelRestart | restart | lockLost | responseWindowEnd => cases hi
  | frameCheckFailure bytes => exact frameCheckFailure_places s bytes
  | drive header payload check => exact drive_places s header payload check
  | aux header payload check => exact aux_places s header payload check
  | mgmt header payload check => exact mgmt_places s header payload check
  | outputFrameSend => exact outputFrameSend_places s
  | unknownCommand => exact unknownCommand_places s
  | nop => exact leavesPlaces_next (atOnce_places fun args => by rw [(runNop_state args s).1])
  | status => exact leavesPlaces_next (atOnce_places fun args => (runPlain_places s args).1)
  | read => exact leavesPlaces_next (atOnce_places fun args => (runPlain_places s args).2.1)
  | faultRead => exact leavesPlaces_next (atOnce_places fun args => (runPlain_places s args).2.2.1)
  | faultClear => exact leavesPlaces_next (atOnce_places fun args => (runPlain_places s args).2.2.2.1)
  | stopAll => exact leavesPlaces_next (atOnce_places fun args => (runPlain_places s args).2.2.2.2)
  | zoneRelease => exact leavesPlaces_next (atOnce_places (runZoneRelease_places s))
  | coupleConfirm =>
    exact leavesPlaces_next (atOnce_places (runDecision_places fun _ w => places_setVehicle (s := s) (v := w) rfl))
  | coupleReject =>
    exact leavesPlaces_next (atOnce_places (runDecision_places fun _ w => places_setVehicle (s := s) (v := w) rfl))
  | directSend => exact directSend_places s
  | lockAchieved c | relock c => exact leavesPlaces_next (lockReport_places s c)
  | lockLimitExpiry c => exact lockLimitExpiry_places s c
  | loopbackWindowEnd c returned => exact loopbackWindowEnd_places s c returned
  | relockLimitExpiry c => exact relockLimitExpiry_places s c
  | cycleStart c => exact cycleStart_places s c
  | frameBuild c slot => exact frameBuild_places s c slot
  | radioFrameReceive c bytes => exact radioFrameReceive_places s c bytes
  | housekeepingWindowEnd c => exact housekeepingWindowEnd_places s c
  | sendLimitExpiry c => exact sendLimitExpiry_places s c
  | silenceExpiry b => exact silenceExpiry_places s b
  | estopAssertionEdge => exact estopAssertionEdge_places s
  | supplyMonitorAssertionEdge => exact supplyMonitorAssertionEdge_places s
  | estopRelease | supplyMonitorRelease | timeCounterTick => exact leavesPlaces_next rfl

section Commands

variable {s : State} (hs : s.convoysSound)
include hs

omit hs in
theorem convoysSound_settle {w : Work} (h : w.state.convoysSound) : Leads (.next w.settle) State.convoysSound :=
  leads_next (convoysSound_of_places h (settle_places w))

theorem convoysSound_channelRestart : Leads (execChannelRestart s) State.convoysSound := by
  have hanswered (e : MgmtEntry) (d : Done) (h : d.state = s) : (d.finish e).state.convoysSound :=
    convoysSound_of_places hs (h ▸ rfl)
  have hflight : s.headGoesInFlight.convoysSound := convoysSound_of_places hs rfl
  unfold execChannelRestart
  split
  · split
    · split
      · exact convoysSound_settle (convoysSound_restartChannel hflight _)
      · exact convoysSound_settle (hanswered _ _ rfl)
    · exact convoysSound_settle (hanswered _ _ rfl)
  · exact leads_next hs

theorem convoysSound_responseWindowEnd (c : Channel) : Leads (execResponseWindowEnd c s) State.convoysSound := by
  unfold execResponseWindowEnd
  split
  · exact convoysSound_settle (convoysSound_slotOutcome (convoysSound_setChannel hs c _) _ _)
  · exact leads_next hs

/-- Every command keeps the convoys sound. -/
theorem exec_convoysSound (i : Instr) : Leads (exec i s) State.convoysSound := by
  cases hw : movesPlaces i with
  | false =>
    obtain ⟨t, ht, hp⟩ := exec_places hw s
    exact ⟨t, ht, convoysSound_of_places hs hp⟩
  | true =>
    cases i with
    | powerOnReset pins =>
      exact convoysSound_settle (w := powerOnWork pins s) (convoysSound_of_places (powerOn_convoysSound pins) rfl)
    | vehicleWrite => exact leads_next (writeStep_convoysSound convoysSound_judgeVehicle _ _ hs)
    | bindingWrite =>
      exact leads_next (writeStep_convoysSound (fun i b s h => convoysSound_of_places h (judgeOthers_places i b s).1) _ _ hs)
    | zoneWrite =>
      exact leads_next (writeStep_convoysSound (fun i b s h => convoysSound_of_places h (judgeOthers_places i b s).2.1) _ _ hs)
    | limitsWrite =>
      exact leads_next (writeStep_convoysSound (fun i b s h => convoysSound_of_places h (judgeOthers_places i b s).2.2) _ _ hs)
    | convoyForm => exact leads_next (convoysSound_atOnce hs (convoysSound_runConvoyForm hs))
    | convoyAdd => exact leads_next (convoysSound_atOnce hs (convoysSound_runConvoyAdd hs))
    | convoyRemove => exact leads_next (convoysSound_atOnce hs (convoysSound_runConvoyRemove hs))
    | convoyHold => exact leads_next (convoysSound_atOnce hs (convoysSound_runConvoyHold hs))
    | convoyResume => exact leads_next (convoysSound_atOnce hs (convoysSound_runConvoyResume hs))
    | convoyDisband => exact leads_next (convoysSound_atOnce hs (convoysSound_runConvoyDisband hs))
    | channelRestart => exact convoysSound_channelRestart hs
    | restart => exact leads_next (convoysSound_atOnce hs (convoysSound_runRestart hs))
    | lockLost c returned => exact convoysSound_settle (convoysSound_lockLostReport hs c returned)
    | responseWindowEnd c => exact convoysSound_responseWindowEnd hs c
    | _ => cases hw

end Commands

/-- Settles O58: an ack, a removal and a new member keep the cursors of their convoy sound, losses and the convoy commands its
fields, and no entry takes a member's place from it; everything else leaves convoys and places alone. -/
theorem trailCursorsStaySound : Obligations.TrailCursorsStaySound := by
  intro s t hs h
  unfold step at h
  split at h
  · exact Host.Outcome.next.inj h ▸ hs
  · rename_i c rest _
    have hrest : ({ s with pending := rest } : State).convoysSound := convoysSound_of_places hs rfl
    obtain ⟨u, hu, hsound⟩ := exec_convoysSound hrest c
    exact Host.Outcome.next.inj (hu.symm.trans h) ▸ hsound

end Sys2Proof.Machine

/-! SUPPORT. CONVOY_FORM, CONVOY_ADD, CONVOY_HOLD, CONVOY_RESUME and CONVOY_DISBAND (R84, R85, R88 to R90). -/

namespace Sys2Proof.Machine

/-! ### The convoy that an index byte names (R83) -/

theorem convoyOf_none {b : Byte} (h : 12 ≤ b.toNat) : convoyOf b = none := by simp [convoyOf, h]

theorem convoyOf_val {b : Byte} {c : ConvoyId} (h : c.val = b.toNat) : convoyOf b = some c := by
  have hlt : b.toNat < 12 := h ▸ c.isLt
  rw [convoyOf, dif_pos hlt]
  exact congrArg some (Fin.ext h.symm)

@[simp] theorem setConvoy_self (s : State) (c : ConvoyId) : s.setConvoy c (s.convoy c) = s := by
  simp [State.setConvoy, State.convoy]

/-! ### The checks of a tractor that joins (R84, R85) -/

section Commands

variable {s : State} {source tag : Byte} {rest : List MgmtEntry}

/-- A command that makes the joining checks on its tractor is refused by the first that fails, and else has its effect. -/
theorem atOnce_joining {code : Byte} {args : List Byte} (hhead : s.hasHead source code tag args rest)
    {run : List Byte → State → Done} {w : VehicleId} {t : State}
    (hrefused : ∀ r, s.joinRefusal w = some r → run args s = .refused s r)
    (hjoins : s.joinRefusal w = none → run args s = .ok t) (hm : t.mgmt = s.mgmt) :
    atOnce code run s =
      if (s.vehicle w).valid = false then s.answered source rest [code, tag, 2, 10]
      else if (s.vehicle w).kind ≠ .tractor then s.answered source rest [code, tag, 2, 7]
      else if (s.vehicle w).convoy ≠ none then s.answered source rest [code, tag, 2, 2]
      else if s.holdsAny (.vehicle w) ∨ s.waitsAny (.vehicle w) then s.answered source rest [code, tag, 2, 2]
      else t.answered source rest [code, tag, 0, 0] := by
  split_ifs with hvalid hkind hconvoy hlanes
  · exact atOnce_refused hhead run .notFound (hrefused _ (by simp [State.joinRefusal, hvalid]))
  · exact atOnce_refused hhead run .badValue (hrefused _ (by simp [State.joinRefusal, hvalid, hkind]))
  · refine atOnce_refused hhead run .inUse (hrefused _ ?_)
    simp [State.joinRefusal, hvalid, not_not.mp hkind, Option.isSome_iff_ne_none.mpr hconvoy]
  · refine atOnce_refused hhead run .inUse (hrefused _ ?_)
    simp [State.joinRefusal, State.inLaneList, hvalid, not_not.mp hkind, not_not.mp hconvoy, hlanes]
  · refine atOnce_ok hhead run (hjoins ?_) hm
    simp only [not_or, Bool.not_eq_true] at hlanes
    simp [State.joinRefusal, State.inLaneList, hvalid, not_not.mp hkind, not_not.mp hconvoy, hlanes]

/-! ### CONVOY_FORM (R84) -/

theorem exec_convoyForm_badValue {c v : Byte} (hhead : s.hasHead source 16 tag [c, v] rest)
    (h : 12 ≤ c.toNat ∨ 64 ≤ v.toNat) : exec .convoyForm s = .next (s.answered source rest [16, tag, 2, 7]) := by
  refine next_refused hhead runConvoyForm .badValue ?_
  rcases h with h | h
  · simp [runConvoyForm, convoyOf_none h]
  · simp [runConvoyForm, vehicleOf_none h]

/-- CONVOY_FORM of a convoy and a vehicle that are named. -/
theorem runConvoyForm_named {c v : Byte} {i : ConvoyId} {w : VehicleId} (hi : i.val = c.toNat) (hw : w.val = v.toNat) :
    ((s.convoy i).state ≠ .free → runConvoyForm [c, v] s = .refused s .wrongState) ∧
      ((s.convoy i).state = .free →
        (∀ r, s.joinRefusal w = some r → runConvoyForm [c, v] s = .refused s r) ∧
          (s.joinRefusal w = none → runConvoyForm [c, v] s = .ok (s.formConvoy i w))) := by
  refine ⟨fun h => ?_, fun h => ⟨fun r hr => ?_, fun hr => ?_⟩⟩
  · simp [runConvoyForm, convoyOf_val hi, vehicleOf_val hw, h]
  · simp [runConvoyForm, convoyOf_val hi, vehicleOf_val hw, h, hr]
  · simp [runConvoyForm, convoyOf_val hi, vehicleOf_val hw, h, hr]

end Commands

/-- Settles O20: the two indices, the state of the convoy, the joining checks, and the new convoy of one member. -/
theorem convoyFormAllocatesConvoy : Obligations.ConvoyFormAllocatesConvoy := by
  refine ⟨fun source tag c v rest s hhead => ⟨exec_convoyForm_badValue hhead, fun i w hi hw => ?_⟩,
    fun s u => ⟨holdsAny_iff s u, waitsAny_iff s u⟩⟩
  obtain ⟨hallocated, hfree⟩ := runConvoyForm_named (s := s) hi hw
  split
  · rename_i hstate
    exact next_refused hhead runConvoyForm .wrongState (hallocated hstate)
  · rename_i hstate
    obtain ⟨hrefused, hjoins⟩ := hfree (not_not.mp hstate)
    exact congrArg _ (atOnce_joining hhead hrefused hjoins rfl)

/-! ### CONVOY_ADD (R85, R91, R105) -/

/-- The record of a convoy whose last member is m after w has joined it: w has a gap from m and has passed every entry. -/
def State.convoyWith (s : State) (c : Convoy) (m : Member) (w : VehicleId) (gmin gmax : Nat) : Convoy :=
  { c with
    members := c.members ++
      [⟨w, gmin, gmax, gapBetween (s.vehicle m.tractor).current (s.vehicle w).current, c.trail.length⟩] }

/-- No entry is dropped when a member joins: some other member had not passed the oldest one (R104, R105). -/
theorem addMember_eq {s : State} (hs : s.convoysSound) {i : ConvoyId} {w : VehicleId} (hw : (s.vehicle w).convoy = none)
    {pre : List Member} {m : Member} (hm : (s.convoy i).members = pre ++ [m]) (gmin gmax : Nat) :
    s.addMember i w gmin gmax =
      (s.setConvoy i (s.convoyWith (s.convoy i) m w gmin gmax)).setVehicle w { s.vehicle w with convoy := some i } := by
  have hnew : ∀ n ∈ (s.convoy i).members, n.tractor ≠ w := fun n hn e => by
    have hmem : w ∈ (s.convoy i).tractors := e ▸ List.mem_map_of_mem hn
    simp [(member_iff hs w i).mpr hmem] at hw
  have hmeasured : s.measure (fun _ n => n = w)
      ((s.convoy i).members ++ [⟨w, gmin, gmax, .unknown, (s.convoy i).trail.length⟩]) =
      (s.convoyWith (s.convoy i) m w gmin gmax).members := by
    rw [hm] at hnew
    rw [State.convoyWith, hm, List.append_assoc, List.singleton_append, measure_append]
    · simp [State.measureAfter]
    · exact fun q _ n hn => decide_eq_false (hnew n hn)
  have hkept : (s.convoyWith (s.convoy i) m w gmin gmax).dropOldest = s.convoyWith (s.convoy i) m w gmin gmax := by
    obtain ⟨⟨-, -, -, hzero⟩, -⟩ := hs.1 i
    refine dropOldest_kept (hzero.imp_right fun ⟨n, hn, hz⟩ => ⟨n, List.mem_append_left _ hn, hz⟩)
  unfold State.addMember
  dsimp only
  rw [hmeasured]
  exact congrArg (fun x => (s.setConvoy i x).setVehicle w { s.vehicle w with convoy := some i }) hkept

section Add

variable {s : State} {source tag c v gmin gmax : Byte} {rest : List MgmtEntry}
  (hhead : s.hasHead source 17 tag [c, v, gmin, gmax] rest)
include hhead

theorem exec_convoyAdd_badValue (h : 12 ≤ c.toNat ∨ 64 ≤ v.toNat) :
    exec .convoyAdd s = .next (s.answered source rest [17, tag, 2, 7]) := by
  refine next_refused hhead runConvoyAdd .badValue ?_
  rcases h with h | h
  · simp [runConvoyAdd, convoyOf_none h]
  · simp [runConvoyAdd, vehicleOf_none h]

variable {i : ConvoyId} {w : VehicleId} (hi : i.val = c.toNat) (hw : w.val = v.toNat)
include hi hw

theorem exec_convoyAdd_wrongState (h : (s.convoy i).state ≠ .forming ∧ (s.convoy i).state ≠ .holding) :
    exec .convoyAdd s = .next (s.answered source rest [17, tag, 2, 8]) :=
  next_refused hhead runConvoyAdd .wrongState (by simp [runConvoyAdd, convoyOf_val hi, vehicleOf_val hw, h])

variable (hstate : (s.convoy i).state = .forming ∨ (s.convoy i).state = .holding)
include hstate

theorem exec_convoyAdd_full (h : 8 ≤ (s.convoy i).members.length) :
    exec .convoyAdd s = .next (s.answered source rest [17, tag, 2, 9]) := by
  have hstate : ¬((s.convoy i).state ≠ .forming ∧ (s.convoy i).state ≠ .holding) := by tauto
  exact next_refused hhead runConvoyAdd .full (by simp [runConvoyAdd, convoyOf_val hi, vehicleOf_val hw, if_neg hstate, h])

/-- CONVOY_ADD with room: the joining checks, and the new last member. -/
theorem exec_convoyAdd_joining (hs : s.convoysSound) {pre : List Member} {m : Member}
    (hm : (s.convoy i).members = pre ++ [m]) (hroom : pre.length < 7) :
    exec .convoyAdd s = .next
      (if (s.vehicle w).valid = false then s.answered source rest [17, tag, 2, 10]
      else if (s.vehicle w).kind ≠ .tractor then s.answered source rest [17, tag, 2, 7]
      else if (s.vehicle w).convoy ≠ none then s.answered source rest [17, tag, 2, 2]
      else if s.holdsAny (.vehicle w) ∨ s.waitsAny (.vehicle w) then s.answered source rest [17, tag, 2, 2]
      else
        ((s.setConvoy i (s.convoyWith (s.convoy i) m w (clampNat 1 4 gmin.toNat)
          (clampNat (clampNat 1 4 gmin.toNat) 8 gmax.toNat))).setVehicle w
          { s.vehicle w with convoy := some i }).answered source rest [17, tag, 0, 0]) := by
  have hstate : ¬((s.convoy i).state ≠ .forming ∧ (s.convoy i).state ≠ .holding) := by tauto
  have hroom : ¬8 ≤ (s.convoy i).members.length := by
    rw [hm, List.length_append, List.length_singleton]
    omega
  have hrefused : ∀ r, s.joinRefusal w = some r → runConvoyAdd [c, v, gmin, gmax] s = .refused s r := fun r hr => by
    simp [runConvoyAdd, convoyOf_val hi, vehicleOf_val hw, if_neg hstate, hroom, hr]
  have hjoins : s.joinRefusal w = none → runConvoyAdd [c, v, gmin, gmax] s =
      .ok ((s.setConvoy i (s.convoyWith (s.convoy i) m w (clampNat 1 4 gmin.toNat)
        (clampNat (clampNat 1 4 gmin.toNat) 8 gmax.toNat))).setVehicle w { s.vehicle w with convoy := some i }) := fun hr => by
    rw [← addMember_eq hs (joinRefusal_none hr).2.2 hm]
    simp [runConvoyAdd, convoyOf_val hi, vehicleOf_val hw, if_neg hstate, hroom, hr]
  exact congrArg Host.Outcome.next (atOnce_joining hhead hrefused hjoins rfl)

end Add

/-- Settles O21: the two indices, the state of the convoy, its room, the joining checks, and the new last member. -/
theorem convoyAddAppendsMember : Obligations.ConvoyAddAppendsMember := by
  intro source tag c v gmin gmax rest s hs hhead
  refine ⟨exec_convoyAdd_badValue hhead, fun i w hi hw => ⟨exec_convoyAdd_wrongState hhead hi hw, fun hstate =>
    ⟨exec_convoyAdd_full hhead hi hw hstate, fun pre m hm hroom => ?_⟩⟩⟩
  rw [exec_convoyAdd_joining hhead hi hw hstate hs hm hroom, State.convoyWith, hm, List.append_assoc, List.singleton_append]
  rfl

/-! ### CONVOY_HOLD (R88) -/

section Hold

variable {s : State} {source tag c mode : Byte} {rest : List MgmtEntry}
  (hhead : s.hasHead source 19 tag [c, mode] rest)
include hhead

theorem exec_convoyHold_badValue (h : 12 ≤ c.toNat ∨ 2 ≤ mode.toNat) :
    exec .convoyHold s = .next (s.answered source rest [19, tag, 2, 7]) := by
  refine next_refused hhead runConvoyHold .badValue ?_
  rcases h with h | h
  · simp [runConvoyHold, convoyOf_none h]
  · obtain ⟨h0, h1⟩ := byte_ne_of_two_le h
    have hmode : holdModeOf mode = none := by rw [holdModeOf, if_neg h0, if_neg h1]
    cases convoyOf c <;> simp [runConvoyHold, hmode]

variable {i : ConvoyId} (hi : i.val = c.toNat)
include hi

/-- CONVOY_HOLD of a convoy with a mode that are named. -/
theorem exec_convoyHold_named {m : HoldMode} (hmode : holdModeOf mode = some m) :
    exec .convoyHold s = .next
      (if (s.convoy i).state = .free then s.answered source rest [19, tag, 2, 8]
      else (s.setConvoy i (s.holdConvoy (s.convoy i) m)).answered source rest [19, tag, 0, 0]) := by
  split
  · rename_i hfree
    exact next_refused hhead runConvoyHold .wrongState (by simp [runConvoyHold, convoyOf_val hi, hmode, hfree])
  · rename_i hfree
    exact next_ok hhead runConvoyHold (data := [])
      (by simp only [runConvoyHold, convoyOf_val hi, hmode, if_neg hfree]) rfl

end Hold

/-- A mode byte below 2 names NOW or AT_SEGMENT (R179). -/
theorem holdModeOf_some {mode : Byte} (h : mode.toNat < 2) :
    (mode.toNat = 0 ∧ holdModeOf mode = some .now) ∨ (mode.toNat = 1 ∧ holdModeOf mode = some .atSegment) := by
  by_cases h0 : mode = 0
  · exact .inl ⟨by simp [h0], by simp [holdModeOf, h0]⟩
  · have h1 := byte_one_of_lt_two h h0
    exact .inr ⟨by simp [h1], by simp [holdModeOf, h1]⟩

/-! ### CONVOY_RESUME (R89) -/

theorem missedTrail_iff (c : Convoy) : c.missedTrail = true ↔ ∃ v, c.cause = some (.trailMiss v) := by
  unfold Convoy.missedTrail
  split
  · rename_i v hv
    simp [hv]
  · rename_i h
    simpa using h

theorem leadSegment_spec (s : State) (c : Convoy) :
    (∀ lead followers, c.members = lead :: followers → s.leadSegment c = (s.vehicle lead.tractor).current) ∧
      (c.members = [] → s.leadSegment c = none) :=
  ⟨fun lead followers h => by simp [State.leadSegment, h], fun h => by simp [State.leadSegment, h]⟩

section Resume

variable {s : State} {source tag c : Byte} {rest : List MgmtEntry} (hhead : s.hasHead source 20 tag [c] rest)
include hhead

theorem exec_convoyResume_badValue (h : 12 ≤ c.toNat) :
    exec .convoyResume s = .next (s.answered source rest [20, tag, 2, 7]) :=
  next_refused hhead runConvoyResume .badValue (by simp [runConvoyResume, convoyOf_none h])

variable {i : ConvoyId} (hi : i.val = c.toNat)
include hi

theorem exec_convoyResume_refused {r : Reason} (h : s.resumeRefusal (s.convoy i) = some r) :
    exec .convoyResume s = .next (s.answered source rest [20, tag, 2, r.code]) :=
  next_refused hhead runConvoyResume r (by simp [runConvoyResume, convoyOf_val hi, h])

theorem exec_convoyResume_rolling (h : (s.convoy i).state = .rolling) :
    exec .convoyResume s = .next (s.answered source rest [20, tag, 0, 0]) :=
  next_ok hhead runConvoyResume (data := []) (by simp [runConvoyResume, convoyOf_val hi, State.resumeRefusal, h]) rfl

theorem exec_convoyResume_resumed (h : (s.convoy i).state ≠ .rolling) (hr : s.resumeRefusal (s.convoy i) = none) :
    exec .convoyResume s = .next
      ((s.setConvoy i { s.convoy i with state := .rolling, holdRef := none, cause := none }).answered source rest
        [20, tag, 0, 0]) :=
  next_ok hhead runConvoyResume (data := []) (by simp only [runConvoyResume, convoyOf_val hi, hr, if_neg h]) rfl

/-- CONVOY_RESUME of a convoy that stands: a missed trail and a member that is not ONLINE refuse it (R89). -/
theorem exec_convoyResume_standing
    (h : (s.convoy i).state = .forming ∨ (s.convoy i).state = .holding ∨ (s.convoy i).state = .broken) :
    exec .convoyResume s = .next
      (if (s.convoy i).missedTrail then s.answered source rest [20, tag, 2, 8]
      else if ∃ m ∈ (s.convoy i).members, (s.vehicle m.tractor).link ≠ .online then
        s.answered source rest [20, tag, 2, 3]
      else
        (s.setConvoy i { s.convoy i with state := .rolling, holdRef := none, cause := none }).answered source rest
          [20, tag, 0, 0]) := by
  have hchecks : s.resumeRefusal (s.convoy i) =
      if (s.convoy i).missedTrail then some .wrongState
      else if (s.convoy i).members.all (fun m => (s.vehicle m.tractor).link = .online) then none else some .notReady := by
    unfold State.resumeRefusal
    rcases h with h | h | h <;> rw [h]
  split_ifs with hmissed hlink
  · exact exec_convoyResume_refused hhead hi (r := .wrongState) (by rw [hchecks, if_pos hmissed])
  · refine exec_convoyResume_refused hhead hi (r := .notReady) ?_
    rw [hchecks, if_neg hmissed, if_neg]
    simpa using hlink
  · refine exec_convoyResume_resumed hhead hi (fun hr => by simp [hr] at h) ?_
    rw [hchecks, if_neg hmissed, if_pos]
    simpa using hlink

end Resume

/-- Settles O23: CONVOY_HOLD by the state and the mode, CONVOY_RESUME by the state and the checks. -/
theorem convoyHoldAndResume : Obligations.ConvoyHoldAndResume := by
  refine ⟨fun source tag c mode rest s hhead => ⟨exec_convoyHold_badValue hhead, fun i hi hmode => ?hold⟩,
    fun source tag c rest s hhead => ⟨exec_convoyResume_badValue hhead, fun i hi => ⟨fun h => ?free,
      exec_convoyResume_rolling hhead hi, fun h hc => ?pending, exec_convoyResume_standing hhead hi⟩⟩,
    fun s c => ⟨(leadSegment_spec s c).1, (leadSegment_spec s c).2, missedTrail_iff c⟩⟩
  case hold =>
    rcases holdModeOf_some hmode with ⟨hm, hnamed⟩ | ⟨hm, hnamed⟩ <;> rw [exec_convoyHold_named hhead hi hnamed, hm]
    · cases h : (s.convoy i).state <;> simp only [State.holdConvoy, h, reduceCtorEq, if_true, if_false, setConvoy_self]
    · cases h : (s.convoy i).state
      case rolling =>
        simp only [State.holdConvoy, h, reduceCtorEq, if_false]
        cases s.leadSegment (s.convoy i) <;> rfl
      all_goals simp only [State.holdConvoy, h, reduceCtorEq, if_true, if_false, setConvoy_self]
  case free => exact exec_convoyResume_refused hhead hi (r := .wrongState) (by simp [State.resumeRefusal, h])
  case pending =>
    rw [exec_convoyResume_resumed hhead hi (by simp [h]) (by simp [State.resumeRefusal, h]), ← hc]

/-! ### Waiting lists (R128, R129) -/

/-- Each waiting list that held the unit is without it, and is judged for a grant (R128, R129). -/
theorem withdrawEverywhere_lane (s : State) (u : MoveUnit) (r : RangeId) :
    (s.withdrawEverywhere u).lane r =
      if u ∈ (s.lane r).waiting then
        Lane.grant (s.laneCapacity r) { s.lane r with waiting := (s.lane r).waiting.filter (fun w => w ≠ u) }
      else s.lane r := by
  rw [State.withdrawEverywhere, lane_mapLanes_same]
  refine if_congr ?_ rfl rfl
  simp [Lane.waits]

/-! ### CONVOY_DISBAND (R90) -/

section Disband

variable {s : State} {source tag c : Byte} {rest : List MgmtEntry} (hhead : s.hasHead source 21 tag [c] rest)
include hhead

theorem exec_convoyDisband_badValue (h : 12 ≤ c.toNat) :
    exec .convoyDisband s = .next (s.answered source rest [21, tag, 2, 7]) :=
  next_refused hhead runConvoyDisband .badValue (by simp [runConvoyDisband, convoyOf_none h])

variable {i : ConvoyId} (hi : i.val = c.toNat)
include hi

theorem exec_convoyDisband_free (h : (s.convoy i).state = .free) :
    exec .convoyDisband s = .next (s.answered source rest [21, tag, 2, 8]) :=
  next_refused hhead runConvoyDisband .wrongState (by simp [runConvoyDisband, convoyOf_val hi, h])

theorem exec_convoyDisband_inUse (h : (s.convoy i).state ≠ .free) (hh : s.holdsAny (.convoy i) = true) :
    exec .convoyDisband s = .next (s.answered source rest [21, tag, 2, 2]) :=
  next_refused hhead runConvoyDisband .inUse (by simp [runConvoyDisband, convoyOf_val hi, h, hh])

theorem exec_convoyDisband_disbanded (h : (s.convoy i).state ≠ .free) (hh : s.holdsAny (.convoy i) = false) :
    exec .convoyDisband s = .next ((s.disbandConvoy i).answered source rest [21, tag, 0, 0]) :=
  next_ok hhead runConvoyDisband (data := []) (by simp [runConvoyDisband, convoyOf_val hi, h, hh]) rfl

end Disband

theorem disbandConvoy_convoy (s : State) (c d : ConvoyId) :
    (s.disbandConvoy c).convoy d = if d = c then .blank else s.convoy d :=
  convoy_setConvoy (s.withdrawEverywhere (.convoy c)) c d .blank

theorem disbandConvoy_vehicle (s : State) (c : ConvoyId) (v : VehicleId) :
    (s.disbandConvoy c).vehicle v =
      if ∃ m ∈ (s.convoy c).members, m.tractor = v then { s.vehicle v with convoy := none } else s.vehicle v := by
  rw [State.disbandConvoy, vehicle_mapVehicles_same]
  exact if_congr (by simp) rfl rfl

/-- Settles O24: the index, the state and the holder lists refuse it; else the convoy is FREE and its members solo. -/
theorem convoyDisbandFreesConvoy : Obligations.ConvoyDisbandFreesConvoy := by
  intro source tag c rest s hhead
  refine ⟨exec_convoyDisband_badValue hhead, fun i hi => ⟨exec_convoyDisband_free hhead hi, exec_convoyDisband_inUse hhead hi,
    fun hstate hh => ⟨_, exec_convoyDisband_disbanded hhead hi hstate hh, rfl, ?_, fun j hj => ?_,
      disbandConvoy_vehicle s i, withdrawEverywhere_lane s (.convoy i)⟩⟩⟩
  · exact (disbandConvoy_convoy s i i).trans (if_pos rfl)
  · exact (disbandConvoy_convoy s i j).trans (if_neg hj)

end Sys2Proof.Machine

/-! SUPPORT. CONVOY_REMOVE (R86, R87). -/

namespace Sys2Proof.Machine

/-! ### The member that leaves and its neighbours (R80, R86) -/

/-- Where one member's tractor is taken out of a list without a tractor twice, the members before it and after it stay. -/
theorem filter_tractor_ne {pre post : List Member} {m : Member} (h : ((pre ++ m :: post).map Member.tractor).Nodup) :
    (pre ++ m :: post).filter (fun n => n.tractor ≠ m.tractor) = pre ++ post := by
  obtain ⟨hpre, hpost⟩ := tractor_ne_of_nodup h
  rw [List.filter_append, List.filter_cons_of_neg (by simp), List.filter_eq_self.mpr, List.filter_eq_self.mpr]
  · simpa using hpost
  · simpa using hpre

/-- A member that stands behind another one is not the lead. -/
theorem isLead_behind {c : Convoy} {pre post : List Member} {p m : Member} (hn : (c.members.map Member.tractor).Nodup)
    (hm : c.members = pre ++ p :: m :: post) : c.isLead m.tractor = false := by
  rw [hm] at hn
  cases pre with
  | nil => exact isLead_follower hm ((tractor_ne_of_nodup (pre := [p]) hn).1 p (by simp))
  | cons l ls =>
    rw [List.append_cons] at hn
    exact isLead_follower hm ((tractor_ne_of_nodup hn).1 l (by simp))

/-- Who follows a tractor is read behind its entry: the members before it do not matter. -/
theorem followerOf_append {v : VehicleId} {pre : List Member} (m : Member) (post : List Member)
    (h : ∀ n ∈ pre, n.tractor ≠ v) : followerOf v (pre ++ m :: post) = followerOf v (m :: post) := by
  induction pre with
  | nil => rfl
  | cons n pre ih =>
    have hn : n.tractor ≠ v := h n (by simp)
    rw [← ih fun k hk => h k (by simp [hk])]
    cases pre <;> simp [followerOf, hn]

/-- A removal clears the break cause that names the tractor, and keeps every other (R86). -/
theorem causeWithout_eq (v : VehicleId) (cause : Option BreakCause) :
    causeWithout v cause = if cause = some (.lost v) ∨ cause = some (.trailMiss v) then none else cause := by
  rcases cause with _ | w | w <;> simp [causeWithout]

/-- A record without the break cause that names a tractor (R86). -/
def Convoy.causedByOthers (c : Convoy) (v : VehicleId) : Convoy :=
  { c with cause := if c.cause = some (.lost v) ∨ c.cause = some (.trailMiss v) then none else c.cause }

/-! ### The record without its lead, its last member and a member between two others (R86, R87) -/

section Without

variable (s : State) {c : Convoy} (hn : (c.members.map Member.tractor).Nodup)
include hn

/-- The next member is the new lead: the trail is cut back to its cursor (R87, R106). -/
theorem convoyWithout_lead {m f : Member} {post : List Member} (hm : c.members = m :: f :: post) :
    s.convoyWithout c m.tractor =
      Convoy.dropOldest
        { c.causedByOthers m.tractor with
          trail := c.trail.take f.cursor
          members := { f with gap := .absent } :: post.map (fun n => { n with cursor := min n.cursor f.cursor }) } := by
  have hrest : c.members.filter (fun n => n.tractor ≠ m.tractor) = f :: post := by
    rw [hm] at hn ⊢
    exact filter_tractor_ne (pre := []) hn
  rw [State.convoyWithout, hrest, if_pos ((isLead_iff hm).mpr rfl)]
  dsimp only
  rw [causeWithout_eq]
  rfl

/-- Behind the last member nobody's gap is measured. -/
theorem convoyWithout_last {pre : List Member} {p m : Member} (hm : c.members = pre ++ [p, m]) :
    s.convoyWithout c m.tractor = Convoy.dropOldest { c.causedByOthers m.tractor with members := pre ++ [p] } := by
  have hlead := isLead_behind hn hm
  rw [List.append_cons] at hm
  have hnone : followerOf m.tractor c.members = none := by
    rw [hm] at hn ⊢
    exact followerOf_append m [] (tractor_ne_of_nodup hn).1
  have hrest : c.members.filter (fun n => n.tractor ≠ m.tractor) = pre ++ [p] := by
    rw [hm] at hn ⊢
    simpa using filter_tractor_ne hn
  rw [State.convoyWithout, hrest, hnone, if_neg (Bool.eq_false_iff.mp hlead)]
  dsimp only
  rw [measure_append _ _ _ _ _ (by simp), causeWithout_eq]
  rfl

/-- The member behind the one that leaves has a gap from the member before it (R91); every other gap is kept. -/
theorem convoyWithout_between {pre post : List Member} {p m f : Member} (hm : c.members = pre ++ p :: m :: f :: post) :
    s.convoyWithout c m.tractor =
      Convoy.dropOldest
        { c.causedByOthers m.tractor with
          members := pre ++ p ::
            { f with gap := gapBetween (s.vehicle p.tractor).current (s.vehicle f.tractor).current } :: post } := by
  have hlead := isLead_behind hn hm
  rw [List.append_cons] at hm
  have hfollower : followerOf m.tractor c.members = some f.tractor := by
    rw [hm] at hn ⊢
    rw [followerOf_append m (f :: post) (tractor_ne_of_nodup hn).1, followerOf, if_pos rfl]
  have hrest : c.members.filter (fun n => n.tractor ≠ m.tractor) = pre ++ p :: f :: post := by
    rw [hm] at hn ⊢
    simpa using filter_tractor_ne hn
  have hnf : ((pre ++ p :: m :: f :: post).map Member.tractor).Nodup := by simpa [hm] using hn
  have hothers := tractor_ne_of_nodup (pre := pre ++ [p, m]) (m := f) (post := post) (by simpa using hnf)
  have hmeasured : s.measure (fun _ n => some f.tractor = some n) (pre ++ p :: f :: post) =
      pre ++ p :: { f with gap := gapBetween (s.vehicle p.tractor).current (s.vehicle f.tractor).current } :: post := by
    rw [measure_append, State.measureAfter, measureAfter_quiet]
    · simp
    · intro _ _ n hn
      exact decide_eq_false fun e => hothers.2 n hn (Option.some.inj e).symm
    · intro _ _ n hn
      refine decide_eq_false fun e => hothers.1 n ?_ (Option.some.inj e).symm
      simp only [List.mem_append, List.mem_cons, List.not_mem_nil] at hn ⊢
      tauto
  rw [State.convoyWithout, hrest, hfollower, if_neg (Bool.eq_false_iff.mp hlead)]
  dsimp only
  rw [hmeasured, causeWithout_eq]
  rfl

end Without

/-! ### The command (R86) -/

section Remove

variable {s : State} {source tag v : Byte} {rest : List MgmtEntry} (hhead : s.hasHead source 18 tag [v] rest)
include hhead

theorem exec_convoyRemove_badValue (h : 64 ≤ v.toNat) :
    exec .convoyRemove s = .next (s.answered source rest [18, tag, 2, 7]) :=
  next_refused hhead runConvoyRemove .badValue (by simp [runConvoyRemove, vehicleOf_none h])

variable {w : VehicleId} (hw : w.val = v.toNat)
include hw

theorem exec_convoyRemove_notFound (h : (s.vehicle w).convoy = none) :
    exec .convoyRemove s = .next (s.answered source rest [18, tag, 2, 10]) :=
  next_refused hhead runConvoyRemove .notFound (by simp [runConvoyRemove, vehicleOf_val hw, h])

variable {i : ConvoyId} (hi : (s.vehicle w).convoy = some i)
include hi

theorem exec_convoyRemove_wrongState (h : (s.convoy i).state = .rolling ∨ (s.convoy i).state = .holdPending) :
    exec .convoyRemove s = .next (s.answered source rest [18, tag, 2, 8]) := by
  refine next_refused hhead runConvoyRemove .wrongState ?_
  rcases h with h | h <;> simp [runConvoyRemove, vehicleOf_val hw, hi, h]

variable (hstate : (s.convoy i).state = .forming ∨ (s.convoy i).state = .holding ∨ (s.convoy i).state = .broken)
include hstate

/-- CONVOY_REMOVE of a member of a convoy that stands: IN_USE, or its effect. -/
theorem exec_convoyRemove_standing :
    exec .convoyRemove s = .next
      (if (s.convoy i).members.length ≤ 1 ∧ s.holdsAny (.convoy i) then s.answered source rest [18, tag, 2, 2]
      else (s.removeMember i w).answered source rest [18, tag, 0, 0]) := by
  have hstate : ¬((s.convoy i).state ≠ .forming ∧ (s.convoy i).state ≠ .holding ∧ (s.convoy i).state ≠ .broken) := by tauto
  split_ifs with h
  · exact next_refused hhead runConvoyRemove .inUse
      (by simp only [runConvoyRemove, vehicleOf_val hw, hi, if_neg hstate, if_pos h])
  · refine next_ok hhead runConvoyRemove (data := [])
      (by simp only [runConvoyRemove, vehicleOf_val hw, hi, if_neg hstate, if_neg h]) ?_
    rw [State.removeMember]
    split <;> rfl

theorem exec_convoyRemove_inUse (hlen : (s.convoy i).members.length = 1) (hh : s.holdsAny (.convoy i) = true) :
    exec .convoyRemove s = .next (s.answered source rest [18, tag, 2, 2]) := by
  rw [exec_convoyRemove_standing hhead hw hi hstate, if_pos ⟨hlen.le, hh⟩]

theorem exec_convoyRemove_only (hlen : (s.convoy i).members.length = 1) (hh : s.holdsAny (.convoy i) = false) :
    exec .convoyRemove s = .next
      ((((s.setConvoy i ⟨.free, [], [], none, none⟩).setVehicle w { s.vehicle w with convoy := none }).withdrawEverywhere
        (.convoy i)).answered source rest [18, tag, 0, 0]) := by
  rw [exec_convoyRemove_standing hhead hw hi hstate, if_neg (by simp [hh]), State.removeMember, if_pos hlen.le]
  rfl

/-- A convoy that keeps a member is left with the record without the one that leaves, whose cursors are sound. -/
theorem exec_convoyRemove_others (hs : s.convoysSound) {d : Convoy} (hlen : 1 < (s.convoy i).members.length)
    (hd : s.convoyWithout (s.convoy i) w = d.dropOldest) :
    d.dropOldest.cursorsSound ∧ exec .convoyRemove s = .next
      (((s.setConvoy i d.dropOldest).setVehicle w { s.vehicle w with convoy := none }).answered source rest
        [18, tag, 0, 0]) := by
  obtain ⟨hcursors, -⟩ := hs.1 i
  rw [← hd]
  refine ⟨convoyWithout_sound w hcursors (others_left hcursors hlen w), ?_⟩
  rw [exec_convoyRemove_standing hhead hw hi hstate, if_neg (by omega), State.removeMember, if_neg (by omega)]
  rfl

end Remove

/-- Settles O22: the four refusals, the convoy that is left without a member, and the record that is left without its lead,
its last member or one between two others. -/
theorem convoyRemoveTakesMemberOut : Obligations.ConvoyRemoveTakesMemberOut := by
  refine ⟨fun source tag v rest s hs hhead => ⟨exec_convoyRemove_badValue hhead, fun w hw =>
    ⟨exec_convoyRemove_notFound hhead hw, fun i hi => ⟨exec_convoyRemove_wrongState hhead hw hi, fun hstate =>
      ⟨exec_convoyRemove_inUse hhead hw hi hstate, exec_convoyRemove_only hhead hw hi hstate, ?left⟩⟩⟩⟩,
    fun s u => ⟨rfl, withdrawEverywhere_lane s u⟩⟩
  obtain ⟨⟨hn, -⟩, -⟩ := hs.1 i
  refine ⟨fun m f post hm hv => ?lead, fun pre p m hm hv => ?last, fun pre p m f post hm hv => ?between⟩
  case lead =>
    obtain rfl := hv
    exact exec_convoyRemove_others hhead hw hi hstate hs (by simp [hm]) (convoyWithout_lead s hn hm)
  case last =>
    obtain rfl := hv
    exact exec_convoyRemove_others hhead hw hi hstate hs (by simp [hm]) (convoyWithout_last s hn hm)
  case between =>
    obtain rfl := hv
    exact exec_convoyRemove_others hhead hw hi hstate hs (by rw [hm]; simp; omega) (convoyWithout_between s hn hm)

end Sys2Proof.Machine

/-! SUPPORT. The Convoy Engine at an ack of a member (R92, R93, R99 to R104). -/

namespace Sys2Proof.Machine

/-! ### The gaps that an ack measures (R92) -/

/-- The followers after v, the gap of the first one computed afresh. -/
def State.remeasured (s : State) (v : VehicleId) : List Member → List Member
  | f :: fs => { f with gap := gapBetween (s.vehicle v).current (s.vehicle f.tractor).current } :: fs
  | [] => []

/-- The record with the gaps computed afresh that an ack of v touches. -/
def State.gapsAfterAck (s : State) (c : Convoy) (v : VehicleId) : Convoy :=
  { c with members := s.measure (fun p m => p = v || m = v) c.members }

theorem measureAfter_acked (s : State) {v : VehicleId} {ms : List Member} (h : ∀ n ∈ ms, n.tractor ≠ v) :
    s.measureAfter (fun p m => p = v || m = v) v ms = s.remeasured v ms := by
  cases ms with
  | nil => rfl
  | cons f fs =>
    rw [State.measureAfter, measureAfter_quiet]
    · simp [State.remeasured]
    · intro q hq n hn
      have hqv : q ≠ v := by
        rw [← List.map_cons] at hq
        obtain ⟨k, hk, rfl⟩ := List.mem_map.mp hq
        exact h k hk
      simp [hqv, h n (List.mem_cons_of_mem _ hn)]

/-- At the lead's ack its follower's gap is measured. -/
theorem gapsAfterAck_lead (s : State) {c : Convoy} (hn : (c.members.map Member.tractor).Nodup) {lead : Member}
    {followers : List Member} (hm : c.members = lead :: followers) :
    s.gapsAfterAck c lead.tractor = { c with members := lead :: s.remeasured lead.tractor followers } := by
  rw [hm] at hn
  rw [State.gapsAfterAck, hm, State.measure, measureAfter_acked s (tractor_ne_of_nodup (pre := []) hn).2]

/-- At a follower's ack its own gap and the gap of the member behind it are measured. -/
theorem gapsAfterAck_follower (s : State) {c : Convoy} (hn : (c.members.map Member.tractor).Nodup) {pre post : List Member}
    {p m : Member} (hm : c.members = pre ++ p :: m :: post) :
    s.gapsAfterAck c m.tractor =
      { c with
        members := pre ++ p :: { m with gap := gapBetween (s.vehicle p.tractor).current (s.vehicle m.tractor).current } ::
          s.remeasured m.tractor post } := by
  rw [hm, List.append_cons] at hn
  obtain ⟨hpre, hpost⟩ := tractor_ne_of_nodup hn
  have hquiet : ∀ q ∈ pre.map Member.tractor, ∀ n ∈ pre ++ [p],
      (decide (q = m.tractor) || decide (n.tractor = m.tractor)) = false := fun q hq n hn => by
    obtain ⟨k, hk, rfl⟩ := List.mem_map.mp hq
    simp [hpre k (List.mem_append_left _ hk), hpre n hn]
  rw [State.gapsAfterAck, hm, measure_append s _ _ _ _ hquiet, State.measureAfter, measureAfter_acked s hpost]
  simp

/-- Only gaps are measured: what holds of the tractors and cursors of the followers is kept. -/
theorem remeasured_forall (s : State) (v : VehicleId) {ms : List Member} {P : VehicleId → Nat → Prop}
    (h : ∀ n ∈ ms, P n.tractor n.cursor) : ∀ n ∈ s.remeasured v ms, P n.tractor n.cursor := by
  cases ms with
  | nil => exact h
  | cons f fs => simpa [State.remeasured] using h

/-! ### The entry into a segment, and the cursor that rises (R99, R102) -/

theorem arrivedAt_eq_some {before now : Option Segment} {g : Segment} :
    arrivedAt before now = some g ↔ now ≠ none ∧ now ≠ before ∧ some g = now := by
  cases now with
  | none => simp [arrivedAt]
  | some k =>
    by_cases h : before = some k
    · simp [arrivedAt, h]
    · simp [arrivedAt, h, eq_comm]

/-- One tractor's cursor rises. -/
theorem raiseCursor_of_members {c : Convoy} {pre post : List Member} {m : Member} (hm : c.members = pre ++ m :: post)
    (hpre : ∀ n ∈ pre, n.tractor ≠ m.tractor) (hpost : ∀ n ∈ post, n.tractor ≠ m.tractor) :
    c.raiseCursor m.tractor = { c with members := pre ++ { m with cursor := m.cursor + 1 } :: post } := by
  have hkept : ∀ ms : List Member, (∀ n ∈ ms, n.tractor ≠ m.tractor) →
      ms.map (fun n => if n.tractor = m.tractor then { n with cursor := n.cursor + 1 } else n) = ms := fun ms h =>
    (List.map_congr_left fun n hn => if_neg (h n hn)).trans (List.map_id ms)
  rw [Convoy.raiseCursor, hm, List.map_append, List.map_cons, hkept pre hpre, hkept post hpost, if_pos rfl]

/-! ### The lead's ack (R93, R99, R100) -/

/-- The record after the end of HOLD_PENDING at the lead's ack (R93). -/
theorem endHold_eq (c : Convoy) (g : Option Segment) :
    c.endHold g =
      { c with
        state := if c.state = .holdPending ∧ (g = none ∨ g ≠ c.holdRef) then .holding else c.state
        holdRef := if c.state = .holdPending ∧ (g = none ∨ g ≠ c.holdRef) then none else c.holdRef } := by
  by_cases h : c.state = .holdPending ∧ (g = none ∨ g ≠ c.holdRef)
  · simp only [if_pos h]
    exact if_pos (by simpa using h)
  · simp only [if_neg h]
    exact if_neg (by simpa using h)

/-- An allocated convoy that is not FORMING records junctions (R99). -/
def Convoy.records (c : Convoy) : Prop := c.state ≠ .free ∧ c.state ≠ .forming

theorem records_iff (c : Convoy) : c.records ↔
    (c.state = .rolling || c.state = .holdPending || c.state = .holding || c.state = .broken) = true := by
  unfold Convoy.records
  cases c.state <;> decide

theorem endHold_records (c : Convoy) (g : Option Segment) : (c.endHold g).records ↔ c.records := by
  unfold Convoy.endHold
  split
  · rename_i h
    have : c.state = .holdPending := by simp at h; tauto
    simp [Convoy.records, this]
  · rfl

section Record

variable {s : State} {c : Convoy} {v : VehicleId} {before : Option Segment}

/-- The lead that enters a junction segment appends it, or the trail is full (R99, R100). -/
theorem recordJunction_enters {g : Segment} (hg : arrivedAt before (s.vehicle v).current = some g)
    (hj : s.isJunction (some g) = true) (hc : c.records) :
    s.recordJunction c v before =
      if c.trail.length < 16 then (c.append v ⟨g, (s.vehicle v).lastTurn⟩, false) else (c, true) := by
  rw [State.recordJunction, hg]
  exact if_pos (by rw [hj, (records_iff c).mp hc]; rfl)

theorem recordJunction_quiet (h : (s.vehicle v).current = none ∨ (s.vehicle v).current = before ∨
    s.isJunction (s.vehicle v).current = false ∨ ¬c.records) : s.recordJunction c v before = (c, false) := by
  unfold State.recordJunction
  split
  · rename_i g hg
    obtain ⟨hpresent, hnew, hcur⟩ := arrivedAt_eq_some.mp hg
    refine if_neg fun hrec => ?_
    obtain ⟨hj, hc⟩ := Bool.and_eq_true_iff.mp hrec
    rw [hcur] at hj
    simp [hpresent, hnew, hj, (records_iff c).mpr hc] at h
  · rfl

end Record

/-! ### A follower's ack (R102, R103) -/

/-- A member enters the segment that the entry at its cursor names (R102). -/
abbrev State.passes (s : State) (c : Convoy) (m : Member) (before : Option Segment) : Prop :=
  (s.vehicle m.tractor).current ≠ none ∧ (s.vehicle m.tractor).current ≠ before ∧
    (c.trail[m.cursor]?).map TrailEntry.segment = (s.vehicle m.tractor).current

section Follower

variable {s : State} {c : Convoy} {pre post : List Member} {m : Member} {before : Option Segment}
  (hm : c.members = pre ++ m :: post) (hpre : ∀ n ∈ pre, n.tractor ≠ m.tractor)
include hm hpre

theorem member?_of_members : c.member? m.tractor = some m := by
  have hnone : pre.find? (fun n => n.tractor = m.tractor) = none := by simpa using hpre
  rw [Convoy.member?, hm, List.find?_append, hnone, List.find?_cons_of_pos (by simp), Option.none_or]

/-- A follower that enters the segment at its cursor passes that entry (R102, R104). -/
theorem advanceCursor_eq (hpost : ∀ n ∈ post, n.tractor ≠ m.tractor) :
    s.advanceCursor c m.tractor before =
      if s.passes c m before then
        Convoy.dropOldest { c with members := pre ++ { m with cursor := m.cursor + 1 } :: post }
      else c := by
  rw [State.advanceCursor, member?_of_members hm hpre, ← raiseCursor_of_members hm hpre hpost]
  cases hg : arrivedAt before (s.vehicle m.tractor).current with
  | none =>
    refine (if_neg fun ⟨hpresent, hnew, _⟩ => ?_).symm
    obtain ⟨k, hk⟩ := Option.ne_none_iff_exists.mp hpresent
    simp [arrivedAt_eq_some.mpr ⟨hpresent, hnew, hk⟩] at hg
  | some g =>
    obtain ⟨hpresent, hnew, hcur⟩ := arrivedAt_eq_some.mp hg
    have hpasses : s.passes c m before ↔ (c.entryAt m.cursor).map TrailEntry.segment = some g := by
      rw [hcur, Convoy.entryAt]
      exact ⟨fun h => h.2.2, fun h => ⟨hpresent, hnew, h⟩⟩
    rw [if_congr hpasses rfl rfl]
    cases he : c.entryAt m.cursor <;> simp [he]

end Follower

/-- The judgement of R104 does not move a member's cursor to another entry. -/
theorem dropOldest_entry {c : Convoy} (h : ∀ n ∈ c.members, n.cursor ≤ c.trail.length) {v : VehicleId} {m : Member}
    (hm : c.member? v = some m) :
    ∃ n, c.dropOldest.member? v = some n ∧ c.dropOldest.trail[n.cursor]? = c.trail[m.cursor]? := by
  have hmem : m ∈ c.members := List.mem_of_find?_eq_some hm
  obtain ⟨k, -, hk, hdrop, -⟩ := dropPassed_spec c.trail c.members h (List.ne_nil_of_mem hmem)
  refine ⟨{ m with cursor := m.cursor - k }, ?_, ?_⟩
  · rw [Convoy.dropOldest, hdrop, Convoy.member?, List.find?_map]
    exact congrArg (Option.map _) hm
  · rw [Convoy.dropOldest, hdrop, List.getElem?_drop, Nat.add_sub_cancel' (hk m hmem)]

/-! ### The record after an ack (R107) -/

/-- The record after an ack of the lead that records nothing: its follower's gap measured, and the wait judged. -/
def State.keptAtLead (s : State) (c : Convoy) (lead : Member) (followers : List Member) : Convoy :=
  ({ c with members := lead :: s.remeasured lead.tractor followers } : Convoy).endHold (s.vehicle lead.tractor).current

theorem keptAtLead_eq (s : State) (c : Convoy) (lead : Member) (followers : List Member) :
    (s.keptAtLead c lead followers).members = lead :: s.remeasured lead.tractor followers ∧
      (s.keptAtLead c lead followers).trail = c.trail ∧ ((s.keptAtLead c lead followers).records ↔ c.records) :=
  have ⟨hmembers, htrail⟩ := endHold_members _ (s.vehicle lead.tractor).current
  ⟨hmembers, htrail, endHold_records _ _⟩

section LeadAck

variable {s : State} {c : Convoy} {before : Option Segment} (hn : (c.members.map Member.tractor).Nodup) {lead : Member}
  {followers : List Member} (hm : c.members = lead :: followers)
include hn hm

/-- At the lead's ack the wait may end, and a junction may be recorded. -/
theorem convoyAfterAck_lead : s.convoyAfterAck c lead.tractor before =
    ((s.recordJunction (s.keptAtLead c lead followers) lead.tractor before).1,
      if (s.recordJunction (s.keptAtLead c lead followers) lead.tractor before).2 then some .trailFull else none) := by
  have hmeasured := gapsAfterAck_lead s hn hm
  rw [State.gapsAfterAck] at hmeasured
  rw [State.convoyAfterAck, hmeasured]
  exact if_pos ((isLead_iff rfl).mpr rfl)

/-- The lead that enters a junction segment outside FORMING records it, or the trail is full (R99, R100). -/
theorem convoyAfterAck_lead_enters {g : Segment} (hg : arrivedAt before (s.vehicle lead.tractor).current = some g)
    (hj : s.isJunction (some g) = true) (hc : c.records) :
    s.convoyAfterAck c lead.tractor before =
      if c.trail.length < 16 then
        (Convoy.dropOldest
          { s.keptAtLead c lead followers with
            trail := c.trail ++ [⟨g, (s.vehicle lead.tractor).lastTurn⟩]
            members := { lead with cursor := lead.cursor + 1 } :: s.remeasured lead.tractor followers }, none)
      else (s.keptAtLead c lead followers, some .trailFull) := by
  obtain ⟨hmembers, htrail, hrecords⟩ := keptAtLead_eq s c lead followers
  have hothers := remeasured_forall s lead.tractor (P := fun w _ => w ≠ lead.tractor)
    (tractor_ne_of_nodup (pre := []) (hm ▸ hn)).2
  have happended := raiseCursor_of_members (pre := []) (post := s.remeasured lead.tractor followers) (m := lead)
    (c := { s.keptAtLead c lead followers with
      trail := c.trail ++ [⟨g, (s.vehicle lead.tractor).lastTurn⟩] }) hmembers (by simp) hothers
  rw [convoyAfterAck_lead hn hm, recordJunction_enters hg hj (hrecords.mpr hc), Convoy.append, htrail, happended]
  by_cases hlen : c.trail.length < 16
  · simp only [if_pos hlen]
    rfl
  · simp only [if_neg hlen]
    rfl

/-- Any other ack of the lead records nothing. -/
theorem convoyAfterAck_lead_quiet (h : (s.vehicle lead.tractor).current = none ∨ (s.vehicle lead.tractor).current = before ∨
    s.isJunction (s.vehicle lead.tractor).current = false ∨ ¬c.records) :
    s.convoyAfterAck c lead.tractor before = (s.keptAtLead c lead followers, none) := by
  obtain ⟨-, -, hrecords⟩ := keptAtLead_eq s c lead followers
  rw [convoyAfterAck_lead hn hm, recordJunction_quiet (by rwa [hrecords])]
  rfl

end LeadAck

/-- The record with the gaps that an ack of the follower m measures, and m's cursor at k. -/
def State.followerAt (s : State) (c : Convoy) (pre : List Member) (p m : Member) (post : List Member) (k : Nat) : Convoy :=
  { c with
    members := pre ++ p ::
      { m with gap := gapBetween (s.vehicle p.tractor).current (s.vehicle m.tractor).current, cursor := k } ::
        s.remeasured m.tractor post }

section FollowerAck

variable {s : State} {c : Convoy} {before : Option Segment} (hc : c.cursorsSound) {pre post : List Member} {p m : Member}
  (hm : c.members = pre ++ p :: m :: post)
include hc hm

/-- The record that an ack of a follower leaves where nothing breaks (R92, R102, R104). -/
theorem advanceCursor_gapsAfterAck : s.advanceCursor (s.gapsAfterAck c m.tractor) m.tractor before =
    if s.passes c m before then (s.followerAt c pre p m post (m.cursor + 1)).dropOldest
    else s.followerAt c pre p m post m.cursor := by
  obtain ⟨hn, -⟩ := hc
  have hgaps := gapsAfterAck_follower s hn hm
  rw [hm, List.append_cons] at hn
  obtain ⟨hpre, hpost⟩ := tractor_ne_of_nodup hn
  have hmembers : (s.followerAt c pre p m post m.cursor).members = (pre ++ [p]) ++ _ := List.append_cons _ _ _
  have hadvanced := advanceCursor_eq (s := s) (before := before) hmembers hpre
    (remeasured_forall s m.tractor (P := fun w _ => w ≠ m.tractor) hpost)
  rw [← List.append_cons] at hadvanced
  rw [hgaps]
  exact hadvanced

/-- The entry that a follower looks at after its ack: the next one where it has passed one (R102, R103). -/
theorem advanceCursor_entry :
    ∃ n, (s.advanceCursor (s.gapsAfterAck c m.tractor) m.tractor before).member? m.tractor = some n ∧
      (s.advanceCursor (s.gapsAfterAck c m.tractor) m.tractor before).trail[n.cursor]? =
        c.trail[if s.passes c m before then m.cursor + 1 else m.cursor]? := by
  rw [advanceCursor_gapsAfterAck hc hm]
  obtain ⟨hn, hle, -⟩ := hc
  rw [hm, List.append_cons] at hn
  obtain ⟨hpre, -⟩ := tractor_ne_of_nodup hn
  have hmember (k : Nat) : (s.followerAt c pre p m post k).member? m.tractor = some
      { m with gap := gapBetween (s.vehicle p.tractor).current (s.vehicle m.tractor).current, cursor := k } :=
    member?_of_members (pre := pre ++ [p]) (post := s.remeasured m.tractor post)
      (m := { m with gap := gapBetween (s.vehicle p.tractor).current (s.vehicle m.tractor).current, cursor := k })
      (List.append_cons _ _ _) hpre
  split_ifs with hp
  · refine dropOldest_entry (fun n hn => ?_) (hmember _)
    have hentry : m.cursor < c.trail.length := by
      obtain ⟨hpresent, -, he⟩ := hp
      by_contra hge
      rw [List.getElem?_eq_none (by omega)] at he
      exact hpresent he.symm
    have hpost := remeasured_forall s m.tractor (P := fun _ k => k ≤ c.trail.length) (ms := post)
      fun n hn => hle n (by simp [hm, hn])
    rcases List.mem_append.mp hn with hn | hn
    · exact hle n (by simp [hm, hn])
    · rcases List.mem_cons.mp hn with rfl | hn
      · exact hle n (by simp [hm])
      · rcases List.mem_cons.mp hn with rfl | hn
        · exact hentry
        · exact hpost n hn
  · exact ⟨_, hmember _, rfl⟩

/-- At a follower's ack a missed trail breaks a moving convoy (R95, R103). -/
theorem convoyAfterAck_follower {d : Convoy} (hd : s.advanceCursor (s.gapsAfterAck c m.tractor) m.tractor before = d) :
    (s.trailMissed d m.tractor = true ∧ (d.state = .rolling ∨ d.state = .holdPending) →
        s.convoyAfterAck c m.tractor before = (d.break (.trailMiss m.tractor), some .trailMiss)) ∧
      (¬(s.trailMissed d m.tractor = true ∧ (d.state = .rolling ∨ d.state = .holdPending)) →
        s.convoyAfterAck c m.tractor before = (d, none)) := by
  obtain ⟨hn, -⟩ := hc
  have hlead : (s.gapsAfterAck c m.tractor).isLead m.tractor = false := by
    rw [isLead_congr (tractors_of_cursors (measure_cursors rfl)), isLead_behind hn hm]
  have hack : s.convoyAfterAck c m.tractor before =
      if s.trailMissed d m.tractor && (d.state = .rolling || d.state = .holdPending) then
        (d.break (.trailMiss m.tractor), some .trailMiss)
      else (d, none) := hd ▸ if_neg (Bool.eq_false_iff.mp hlead)
  rw [hack]
  exact ⟨fun h => if_pos (by simpa using h), fun h => if_neg (by simpa using h)⟩

end FollowerAck

/-! ### The ack of a vehicle (R92) -/

theorem convoyAck_solo {s : State} {v : VehicleId} (before : Option Segment) (h : (s.vehicle v).convoy = none) :
    s.convoyAck v before = (s, []) := by
  simp only [State.convoyAck, h]

theorem convoyAck_member {s : State} {v : VehicleId} {i : ConvoyId} (before : Option Segment)
    (h : (s.vehicle v).convoy = some i) :
    s.convoyAck v before =
      (s.setConvoy i (s.convoyAfterAck (s.convoy i) v before).1,
        (s.convoyAfterAck (s.convoy i) v before).2.toList.map fun k => ⟨k, .convoy i, (s.vehicle v).current⟩) := by
  simp only [State.convoyAck, h]

/-- Settles O38: the lead's ack by what it enters, a follower's by what it passes and looks at, and the vehicle's convoy. -/
theorem convoyFollowsAcks : Obligations.ConvoyFollowsAcks := by
  refine ⟨fun s c v before hc => ⟨fun lead followers hm hv => ?lead, fun pre p m post hm hv => ?follower⟩,
    fun s v before => ⟨convoyAck_solo before, fun i hi => ?member⟩⟩
  case lead =>
    obtain rfl := hv
    obtain ⟨hn, -⟩ := hc
    have hkept := endHold_eq { c with members := lead :: s.remeasured lead.tractor followers } (s.vehicle lead.tractor).current
    refine ⟨fun g hg hj hfree hforming => ?_, fun h => ?_⟩
    · have hack := convoyAfterAck_lead_enters hn hm (arrivedAt_eq_some.mpr hg) hj ⟨hfree, hforming⟩
      rw [State.keptAtLead, hkept] at hack
      exact ⟨fun hlen => hack.trans (if_pos hlen), fun hlen => hack.trans (if_neg hlen.not_gt)⟩
    · have hack := convoyAfterAck_lead_quiet (before := before) hn hm (by
        rwa [Convoy.records, not_and_or, not_not, not_not])
      rw [State.keptAtLead, hkept] at hack
      exact hack
  case follower =>
    obtain rfl := hv
    obtain ⟨n, hn, hentry⟩ := advanceCursor_entry (s := s) (before := before) hc hm
    have hmoved := advanceCursor_gapsAfterAck (s := s) (before := before) hc hm
    have hstate : (if s.passes c m before then (s.followerAt c pre p m post (m.cursor + 1)).dropOldest
        else s.followerAt c pre p m post m.cursor).state = c.state := by
      split_ifs <;> rfl
    have hack := convoyAfterAck_follower hc hm hmoved
    rw [hmoved] at hn hentry
    rw [trailMissed_iff hn, hentry, hstate, and_assoc] at hack
    exact hack
  case member =>
    dsimp only
    rw [convoyAck_member before hi]
    exact ⟨rfl, fun h => by rw [h]; rfl, fun k h => by rw [h]; rfl⟩

end Sys2Proof.Machine

/-! SUPPORT. The trail entries that every member has passed (R104). -/

namespace Sys2Proof.Machine

/-- Settles O50: the k entries of `dropPassed_spec` are those removed, and the member that stops the removal has passed
exactly k of them. -/
theorem passedEntriesAreDropped : Obligations.PassedEntriesAreDropped := by
  intro c hne hbound
  obtain ⟨k, -, hpassed, hdrop, hstop⟩ := dropPassed_spec c.trail c.members hbound hne
  have hdropped : c.dropOldest =
      { c with trail := c.trail.drop k, members := c.members.map fun m => { m with cursor := m.cursor - k } } := by
    rw [Convoy.dropOldest, hdrop]
  refine ⟨k, hpassed, hdropped, ?_⟩
  rw [hdropped]
  rcases hstop with hempty | ⟨m, hm, hzero⟩
  · exact Or.inl hempty
  · exact Or.inr ⟨_, List.mem_map_of_mem hm, hzero⟩

end Sys2Proof.Machine

/-! SUPPORT. The checks of a zone entry (R115), and the lane lists as the units that they name (R125). -/

namespace Sys2Proof.Machine

/-! ### The checks of a zone entry (R115) -/

/-- Check 2 of R115: the lists of the valid range are not empty, and the entry does not keep their extent or their room. -/
def State.zoneInUse (s : State) (r : RangeId) (z : Range) : Prop :=
  (s.zone r).valid = true ∧ s.lane r ≠ ⟨[], []⟩ ∧
    (z.valid = false ∨ z.rules.capacity = 0 ∨ z.rules.capacity < (s.lane r).holders.length ∨
      z.first ≠ (s.zone r).first ∨ z.last ≠ (s.zone r).last)

/-- Check 3 of R115: the entry would share a segment with another valid range. -/
def State.zoneOverlaps (s : State) (r : RangeId) (z : Range) : Prop :=
  z.valid = true ∧ ∃ o, o ≠ r ∧ (s.zone o).valid = true ∧ z.first ≤ (s.zone o).last ∧ (s.zone o).first ≤ z.last

theorem occupied_iff (l : Lane) : l.occupied = true ↔ l ≠ ⟨[], []⟩ := by
  obtain ⟨holders, waiting⟩ := l
  cases holders <;> cases waiting <;> simp [Lane.occupied]

theorem overlaps_iff (a b : Range) : a.overlaps b = true ↔ a.first ≤ b.last ∧ b.first ≤ a.last := by
  simp only [Range.overlaps, Bool.and_eq_true, decide_eq_true_eq, Fin.le_def]

/-- The two checks are those that the model makes. -/
theorem zoneRefusal_eq (s : State) (r : RangeId) (z : Range) [Decidable (s.zoneInUse r z)] [Decidable (s.zoneOverlaps r z)] :
    s.zoneRefusal r z =
      if s.zoneInUse r z then some .inUse else if s.zoneOverlaps r z then some .overlap else none := by
  refine ite_congr (propext ?inUse) (fun _ => rfl) fun _ => ite_congr (propext ?overlaps) (fun _ => rfl) fun _ => rfl
  case inUse =>
    simp only [State.zoneInUse, Bool.and_eq_true, Bool.or_eq_true, Bool.not_eq_true', decide_eq_true_eq, occupied_iff, and_assoc,
      or_assoc]
  case overlaps =>
    simp only [State.zoneOverlaps, Bool.and_eq_true, List.any_eq_true, decide_eq_true_eq, overlaps_iff, indices,
      List.mem_finRange, true_and, and_assoc]

/-- The checks of R115 in their order: IN_USE, then OVERLAP. -/
theorem zoneRefusal_spec (s : State) (r : RangeId) (z : Range) :
    (s.zoneInUse r z → s.zoneRefusal r z = some .inUse) ∧
      (¬s.zoneInUse r z → s.zoneOverlaps r z → s.zoneRefusal r z = some .overlap) ∧
      (¬s.zoneInUse r z → ¬s.zoneOverlaps r z → s.zoneRefusal r z = none) := by
  classical
  rw [zoneRefusal_eq]
  exact ⟨fun h => if_pos h, fun h ho => (if_neg h).trans (if_pos ho), fun h ho => (if_neg h).trans (if_neg ho)⟩

theorem zoneRefusal_none {s : State} {r : RangeId} {z : Range} (h : s.zoneRefusal r z = none) :
    ¬s.zoneInUse r z ∧ ¬s.zoneOverlaps r z := by
  obtain ⟨huse, hover, -⟩ := zoneRefusal_spec s r z
  have hfree : ¬s.zoneInUse r z := fun k => by simp [huse k] at h
  exact ⟨hfree, fun k => by simp [hover hfree k] at h⟩

/-! ### The units of a range's lists (R125) -/

/-- The units that the two lists of a range name, the holders first. -/
def Lane.units (l : Lane) : List MoveUnit := l.holders.map Holder.unit ++ l.waiting

theorem units_eq_nil (l : Lane) : l.units = [] ↔ l = ⟨[], []⟩ := by
  obtain ⟨holders, waiting⟩ := l
  simp [Lane.units]

/-- A grant moves units from the one list to the other, in their order (R129). -/
theorem grant_units (capacity : Nat) (l : Lane) : (l.grant capacity).units = l.units := by
  obtain ⟨k, -, he, -, -⟩ := grantFrom_spec capacity l.waiting l.holders
  rw [Lane.grant, he]
  simp [Lane.units, Function.comp_def]

theorem holders_filter_units (l : Lane) (p : Holder → Bool) :
    ({ l with holders := l.holders.filter p } : Lane).units.Sublist l.units :=
  (List.filter_sublist.map _).append (List.Sublist.refl _)

theorem dropWaiting_units (l : Lane) (u : MoveUnit) : (l.dropWaiting u).units.Sublist l.units :=
  (List.Sublist.refl _).append List.filter_sublist

theorem dropHolder_units (l : Lane) (u : MoveUnit) : (l.dropHolder u).units.Sublist l.units := holders_filter_units l _

theorem mem_units (l : Lane) (u : MoveUnit) : u ∈ l.units ↔ l.holds u = true ∨ l.waits u = true := by
  simp [Lane.units, Lane.holds, Lane.waits]

/-- The lane range of a segment is single-lane (R110, R113). -/
theorem laneRangeOf_singleLane {s : State} {g : Option Segment} {r : RangeId} (h : s.laneRangeOf g = some r) :
    (s.zone r).singleLane = true := by
  obtain ⟨hlook, hcap⟩ := (laneRangeOf_iff s g r).mp h
  simp [Range.singleLane, lookupOf_valid hlook, hcap]

end Sys2Proof.Machine

/-! SUPPORT. Which operations keep the lane lists sound (R125), and which commands leave ranges and lists alone. -/

namespace Sys2Proof.Machine

/-! ### The lists of one range -/

/-- The lists are sound for a range: no unit stands twice in them, and they are empty unless the range is single-lane (R125). -/
structure Lane.SoundIn (l : Lane) (z : Range) : Prop where
  nodup : l.units.Nodup
  single : z.singleLane = false → l.units = []

theorem lanesSound_iff (s : State) : s.lanesSound ↔ ∀ r, (s.lane r).SoundIn (s.zone r) :=
  ⟨fun h r => ⟨(h r).1, fun hz => (units_eq_nil _).mpr ((h r).2 hz)⟩,
    fun h r => ⟨(h r).nodup, fun hz => (units_eq_nil _).mp ((h r).single hz)⟩⟩

theorem Lane.SoundIn.sublist {l k : Lane} {z : Range} (h : l.SoundIn z) (hk : k.units.Sublist l.units) : k.SoundIn z :=
  ⟨h.nodup.sublist hk, fun hz => List.sublist_nil.mp (h.single hz ▸ hk)⟩

theorem soundIn_grant {l : Lane} {z : Range} (capacity : Nat) (h : l.SoundIn z) : (l.grant capacity).SoundIn z :=
  h.sublist (grant_units capacity l ▸ .refl _)

/-- A unit that the lists do not name joins the waiting units of a single-lane range (R127). -/
theorem soundIn_request {l : Lane} {z : Range} {u : MoveUnit} (h : l.SoundIn z) (hz : z.singleLane = true) (hu : u ∉ l.units) :
    ({ l with waiting := l.waiting ++ [u] } : Lane).SoundIn z := by
  have hunits : ({ l with waiting := l.waiting ++ [u] } : Lane).units = l.units ++ [u] := (List.append_assoc _ _ _).symm
  refine ⟨?_, fun hno => by simp [hz] at hno⟩
  rw [hunits]
  exact h.nodup.append (List.nodup_singleton u) (by simpa using hu)

/-- Entry and presence admission in a single-lane range (R130, R132). -/
theorem soundIn_enterHolder {l : Lane} {z : Range} (u : MoveUnit) (h : l.SoundIn z) (hz : z.singleLane = true) :
    (l.enterHolder u).SoundIn z := by
  unfold Lane.enterHolder
  split
  · have hunits (h : Holder) : (if h.unit = u then { h with entered := true } else h).unit = h.unit := by split <;> rfl
    refine h.sublist (List.Sublist.append (?_ : List.Sublist _ _) (.refl _))
    simp [Function.comp_def, hunits]
  · rename_i hnew
    split
    · have hholders : u ∉ l.holders.map Holder.unit := by simpa [Lane.holds] using hnew
      have hnodup := (h.sublist (dropWaiting_units l u)).nodup
      refine ⟨?_, fun hno => by simp [hz] at hno⟩
      have hperm : ({ holders := l.holders ++ [⟨u, true⟩], waiting := (l.dropWaiting u).waiting } : Lane).units.Perm
          (u :: (l.dropWaiting u).units) := by
        simp only [Lane.units, List.map_append, List.map_cons, List.map_nil, List.append_assoc]
        exact List.perm_middle
      rw [hperm.nodup_iff, List.nodup_cons]
      refine ⟨fun hmem => ?_, hnodup⟩
      rcases List.mem_append.mp hmem with hmem | hmem
      · exact hholders hmem
      · simp [Lane.dropWaiting] at hmem
    · exact h

/-- The four steps of an ack leave sound lists (R126). -/
theorem soundIn_laneRequested {s : State} (u : MoveUnit) (v : VehicleId) (r : RangeId)
    (h : (s.lane r).SoundIn (s.zone r)) : (s.laneRequested u v r).SoundIn (s.zone r) := by
  have hentered : (s.laneEntered u v r).SoundIn (s.zone r) := by
    unfold State.laneEntered
    split
    · rename_i hr
      exact soundIn_enterHolder u h (laneRangeOf_singleLane hr)
    · exact h
  have hreleased : (s.laneReleased u v r).SoundIn (s.zone r) := hentered.sublist (holders_filter_units _ _)
  have hwithdrawn : (s.laneWithdrawn u v r).SoundIn (s.zone r) := by
    unfold State.laneWithdrawn
    split
    · exact hreleased.sublist (dropWaiting_units _ u)
    · exact hreleased
  unfold State.laneRequested
  split
  · rename_i hasks
    simp only [State.laneAsks, Bool.and_eq_true, Bool.not_eq_true', decide_eq_true_eq] at hasks
    obtain ⟨⟨⟨⟨⟨⟨-, hahead⟩, -⟩, hholds⟩, hwaits⟩, -⟩, -⟩ := hasks
    refine soundIn_request hwithdrawn (laneRangeOf_singleLane hahead) fun hu => ?_
    simp [mem_units, hholds, hwaits] at hu
  · exact hwithdrawn

/-! ### Updates that leave the ranges alone and keep the lists sound -/

/-- The update leaves every range alone and keeps the lists sound. -/
structure State.KeepsLanes (s t : State) : Prop where
  zones : t.zones = s.zones
  sound : s.lanesSound → t.lanesSound

theorem State.KeepsLanes.refl (s : State) : s.KeepsLanes s := ⟨rfl, id⟩

theorem State.KeepsLanes.trans {s t u : State} (h : s.KeepsLanes t) (k : t.KeepsLanes u) : s.KeepsLanes u :=
  ⟨k.zones.trans h.zones, k.sound ∘ h.sound⟩

/-- The ranges and their lists. -/
def State.roads (s : State) : Vector Range 32 × Vector Lane 32 := (s.zones, s.lanes)

theorem keepsLanes_of_lists {s t : State} (hz : t.zones = s.zones)
    (h : ∀ r, (s.lane r).SoundIn (s.zone r) → (t.lane r).SoundIn (s.zone r)) : s.KeepsLanes t := by
  have hzone (r : RangeId) : t.zone r = s.zone r := by simp only [State.zone, hz]
  refine ⟨hz, fun hs => (lanesSound_iff t).mpr fun r => ?_⟩
  rw [hzone]
  exact h r ((lanesSound_iff s).mp hs r)

theorem keepsLanes_of_roads {s t : State} (h : t.roads = s.roads) : s.KeepsLanes t := by
  obtain ⟨hz, hl⟩ := Prod.mk.inj h
  exact keepsLanes_of_lists hz fun r hr => by simpa only [State.lane, hl] using hr

theorem keepsLanes_setLane {s : State} {r : RangeId} {l : Lane} (h : l.units.Sublist (s.lane r).units) :
    s.KeepsLanes (s.setLane r l) := by
  refine keepsLanes_of_lists rfl fun q hq => ?_
  rw [lane_setLane]
  split
  · rename_i e
    subst e
    exact hq.sublist h
  · exact hq

theorem keepsLanes_grant (s : State) (r : RangeId) : s.KeepsLanes (s.grant r) :=  by
  refine keepsLanes_setLane ?_
  rw [grant_units]

theorem keepsLanes_withdrawEverywhere (s : State) (u : MoveUnit) : s.KeepsLanes (s.withdrawEverywhere u) := by
  refine keepsLanes_of_lists rfl fun r hr => ?_
  rw [State.withdrawEverywhere, lane_mapLanes_same]
  split
  · exact soundIn_grant _ (hr.sublist (dropWaiting_units _ u))
  · exact hr

theorem keepsLanes_releaseUnit (s : State) (r : RangeId) (u : MoveUnit) : s.KeepsLanes (s.releaseUnit r u) :=
  (keepsLanes_setLane ((dropWaiting_units _ u).trans (dropHolder_units _ u))).trans (keepsLanes_grant _ r)

/-- The Lane Arbiter's work at an ack (R126). -/
theorem keepsLanes_laneAck (s : State) (v : VehicleId) : s.KeepsLanes (s.laneAck v).1 := by
  obtain ⟨hframe, -, htrailer⟩ := laneAck_spec s v
  cases hk : (s.vehicle v).kind with
  | trailer => rw [htrailer hk]; exact .refl s
  | tractor =>
    refine keepsLanes_of_lists (by rw [hframe]) fun r hr => ?_
    rw [laneAck_lane s v hk r]
    split
    · exact soundIn_laneRequested _ v r hr
    · exact soundIn_grant _ (soundIn_laneRequested _ v r hr)

end Sys2Proof.Machine

namespace Sys2Proof.Machine

/-! ### Operations that leave the ranges and their lists alone -/

@[simp] theorem settle_roads (w : Work) : w.settle.roads = w.state.roads := by
  obtain ⟨u, q, n, h, -⟩ := settle_spec w
  rw [h]
  rfl

theorem offerFrame_roads (n : Nat) (s : State) (f : LinkFrame) : (s.offerFrame n f).roads = s.roads := by
  rw [offerFrame_eq]
  rfl

@[simp] theorem answerInFlight_roads (s : State) (code : Byte) (a : Answer) :
    (s.answerInFlight code a).state.roads = s.roads := by
  unfold State.answerInFlight
  split
  · split <;> rfl
  · rfl

theorem answerRestart_roads (s : State) (c : Channel) (status : ReplyStatus) :
    (s.answerRestart c status).state.roads = s.roads := by
  unfold State.answerRestart
  split
  · exact answerInFlight_roads s _ _
  · rfl

theorem roads_of_polls {s t : State} (h : OnlyPolls s t) : t.roads = s.roads := by
  rw [h.1]
  rfl

@[simp] theorem pollReport_roads (s : State) (c : Channel) (replies : List Byte) (garbled : Bool) :
    (s.pollReport c replies garbled).1.roads = s.roads := by
  rw [(pollReport_spec s c replies garbled).1.1]
  rfl

theorem couplerAck_roads (s : State) (x : VehicleId) (before : Vehicle) : (s.couplerAck x before).1.roads = s.roads := by
  rw [(couplerAck_spec s x before).1.1]
  rfl

theorem convoyAck_roads (s : State) (v : VehicleId) (before : Option Segment) : (s.convoyAck v before).1.roads = s.roads := by
  rw [(convoyAck_spec s v before).1]
  rfl

theorem loseMembers_roads (s : State) (lost : List VehicleId) : (s.loseMembers lost).roads = s.roads := by
  obtain ⟨n, ks, h, -⟩ := loseMembers_spec s lost
  rw [h]
  rfl

theorem vehiclesLoseChannel_roads (s : State) (c : Channel) (leaves : Bool) :
    (s.vehiclesLoseChannel c leaves).roads = s.roads :=
  loseMembers_roads (s.mapVehicles fun _ x => x.channelLost c leaves) _

theorem miss_roads (s : State) (v : VehicleId) : (s.miss v).state.roads = s.roads := by
  unfold State.miss
  dsimp only
  split
  · dsimp only
    rw [loseMembers_roads]
    rfl
  · rfl

/-- The end of a channel's service ends its slot, its vehicles' service and its open poll, and answers its direct frame (R27). -/
theorem leaveServing_roads (s : State) (c : Channel) (old : ChannelUnit) : (s.leaveServing c old).state.roads = s.roads := by
  have hleft : (((s.setChannel c (s.channel c).clearSlots).endVehicleSlot old.flight).vehiclesLoseChannel c true).roads =
      s.roads := by
    rw [vehiclesLoseChannel_roads, endVehicleSlot_frame]
    rfl
  rw [leaveServing_eq s _ c old rfl]
  dsimp only
  split <;> split <;> simp [hleft]

/-! ### Channel events -/

theorem lockReport_roads (s : State) (c : Channel) : (s.lockReport c).roads = s.roads := by
  unfold State.lockReport
  split <;> rfl

/-- A channel that goes to FAILED leaves the roads alone (R23, R25, R26). -/
theorem enterFailed_roads (s : State) (c : Channel) (u : ChannelUnit) (ls : List Latch) :
    ((s.setChannel c u).enterFailed c ls).state.roads = s.roads :=
  answerRestart_roads (s.setChannel c u) c .failed

theorem passTest_roads (s : State) (c : Channel) : (s.passTest c).state.roads = s.roads :=
  answerRestart_roads ((s.setChannel c _).beginCycle c 0) c .ok

theorem lockLostReport_roads (s : State) (c : Channel) (returned : List Byte) :
    (s.lockLostReport c returned).state.roads = s.roads := by
  have hpick : (s.pick 8).2.roads = s.roads := by
    rw [pick_state]
    rfl
  unfold State.lockLostReport
  split
  · exact leaveServing_roads (s.setChannel c _) c _
  · unfold State.lockLostInTest
    dsimp only
    split
    · exact enterFailed_roads s c _ _
    · split
      · exact enterFailed_roads s c _ _
      · exact (enterFailed_roads _ c _ _).trans hpick
  all_goals rfl

theorem restartChannel_roads (s : State) (c : Channel) : (s.restartChannel c).state.roads = s.roads := by
  unfold State.restartChannel
  dsimp only
  split
  · exact leaveServing_roads ((s.enterLocking c).setChannel c _) c _
  · dsimp only
    rw [vehiclesLoseChannel_roads]
    rfl

/-! ### Link frames -/

theorem unbound_roads (s : State) (source : Byte) (group : Nat) (cls : Byte) : (s.unbound source group cls).roads = s.roads := by
  unfold State.unbound
  split
  · rfl
  · exact (settle_roads _).trans (offerFrame_roads _ s _)

/-- A link frame, whatever its class, changes no range and no list (R163). -/
theorem receive_roads (s : State) (destination source : Byte) (payload : List Byte) :
    (s.receiveDrive destination source payload).roads = s.roads ∧
      (s.receiveAux destination source payload).roads = s.roads ∧
      (s.receiveMgmt destination source payload).roads = s.roads := by
  refine ⟨?drive, ?aux, ?mgmt⟩
  case drive =>
    unfold State.receiveDrive
    repeat' split
    any_goals rfl
    exact unbound_roads s _ _ _
  case aux =>
    unfold State.receiveAux
    repeat' split
    any_goals rfl
    exact unbound_roads s _ _ _
  case mgmt =>
    unfold State.receiveMgmt
    dsimp only
    repeat' split
    any_goals rfl
    exact offerFrame_roads _ s _

/-! ### Management commands -/

theorem keepsLanes_settle {s : State} {w : Work} (h : s.KeepsLanes w.state) : s.KeepsLanes w.settle :=
  h.trans (keepsLanes_of_roads (settle_roads w))

theorem keepsLanes_atOnce {code : Byte} {run : List Byte → State → Done} {s : State}
    (h : ∀ args, s.KeepsLanes (run args s).state) : s.KeepsLanes (atOnce code run s) := by
  unfold atOnce
  split
  · rename_i e args _
    exact keepsLanes_settle ((h args).trans (keepsLanes_of_roads rfl) : s.KeepsLanes ((run args s).finish e).state)
  · exact .refl s

theorem runStatus_roads (s : State) (args : List Byte) : (runStatus args s).state.roads = s.roads := by
  unfold runStatus
  split <;> rfl

theorem runRead_roads (s : State) (args : List Byte) : (runRead args s).state.roads = s.roads := by
  unfold runRead
  split <;> rfl

theorem runFaultRead_roads (s : State) (args : List Byte) : (runFaultRead args s).state.roads = s.roads := by
  unfold runFaultRead
  split <;> rfl

theorem runFaultClear_roads (s : State) (args : List Byte) : (runFaultClear args s).state.roads = s.roads := by
  unfold runFaultClear
  dsimp only
  repeat' split
  all_goals rfl

theorem runStopAll_roads (s : State) (args : List Byte) : (runStopAll args s).state.roads = s.roads := by
  unfold runStopAll
  split <;> rfl

/-- RESTART keeps the Zone Map and every lane list (R176). -/
theorem runRestart_roads (s : State) (args : List Byte) : (runRestart args s).state.roads = s.roads := by
  unfold runRestart
  split <;> rfl

/-- A convoy that is formed, extended, held or resumed stands in no list that changes (R84, R85, R88, R89). -/
theorem runConvoy_roads (s : State) (args : List Byte) :
    (runConvoyForm args s).state.roads = s.roads ∧ (runConvoyAdd args s).state.roads = s.roads ∧
      (runConvoyHold args s).state.roads = s.roads ∧ (runConvoyResume args s).state.roads = s.roads := by
  unfold runConvoyForm runConvoyAdd runConvoyHold runConvoyResume
  dsimp only
  refine ⟨?_, ?_, ?_, ?_⟩
  all_goals
    repeat' split
    all_goals rfl

/-- A decision on an attachment, and the start that it makes due (R148, R143). -/
theorem runDecision_roads {decide : VehicleId → VehicleId → State → State} {s : State}
    (h : ∀ x w, (decide x w s).roads = s.roads) (args : List Byte) : (runDecision decide args s).state.roads = s.roads := by
  unfold runDecision
  dsimp only
  repeat' split
  any_goals rfl
  exact (roads_of_polls (judgeStart_spec _).1).trans (h _ _)

theorem keepsLanes_runConvoyRemove (s : State) (args : List Byte) : s.KeepsLanes (runConvoyRemove args s).state := by
  have hremove (c : ConvoyId) (v : VehicleId) : s.KeepsLanes (s.removeMember c v) := by
    unfold State.removeMember
    dsimp only
    split
    · exact (keepsLanes_of_roads rfl : s.KeepsLanes ((s.setConvoy c .blank).setConvoyOf v none)).trans
        (keepsLanes_withdrawEverywhere _ _)
    · exact keepsLanes_of_roads rfl
  unfold runConvoyRemove
  dsimp only
  repeat' split
  any_goals exact .refl s
  exact hremove _ _

theorem keepsLanes_runConvoyDisband (s : State) (args : List Byte) : s.KeepsLanes (runConvoyDisband args s).state := by
  unfold runConvoyDisband
  repeat' split
  any_goals exact .refl s
  rename_i c _ _ _
  exact (keepsLanes_withdrawEverywhere s (.convoy c)).trans (keepsLanes_of_roads rfl)

theorem keepsLanes_runZoneRelease (s : State) (args : List Byte) : s.KeepsLanes (runZoneRelease args s).state := by
  unfold runZoneRelease
  repeat' split
  any_goals exact .refl s
  exact keepsLanes_releaseUnit s _ _

/-! ### A whole WRITE -/

/-- What speaks of ranges and lists alone and is kept by every entry, a WRITE keeps (R171). -/
theorem writeStep_keepsRoads {inv : State → Prop} (hr : ∀ s t : State, t.roads = s.roads → inv s → inv t)
    {judge : EntryJudge} (h : ∀ i bytes s, inv s → inv (judge i bytes s).state) (table : Byte) (size : Nat) {s : State}
    (hs : inv s) : inv (writeStep table size judge s) := by
  have hrun (args : List Byte) : inv (runWrite table size judge args s).state := by
    unfold runWrite
    split
    · rename_i first entries _
      exact hr _ _ (roads_of_polls (ended_spec _).1) (writeEntries_invariant h first entries s hs)
    · exact hs
  unfold writeStep
  split
  · rename_i args _
    split
    · exact hr (runWrite table size judge args s).state _ (settle_roads _) (hrun args)
    · exact hs
  · exact hs

theorem keepsLanes_writeStep {judge : EntryJudge} (h : ∀ i bytes (s : State), s.KeepsLanes (judge i bytes s).state)
    (table : Byte) (size : Nat) (s : State) : s.KeepsLanes (writeStep table size judge s) :=
  writeStep_keepsRoads (inv := s.KeepsLanes) (fun _ _ e hs => hs.trans (keepsLanes_of_roads e))
    (fun i bytes t hs => hs.trans (h i bytes t)) table size (.refl s)

/-- An invalidation withdraws the vehicle from every waiting list (R13). -/
theorem keepsLanes_invalidate (s : State) (v : VehicleId) (cfg : VehicleConfig) : s.KeepsLanes (s.invalidate v cfg) := by
  have hdissolve : (s.dissolveNaming v).roads = s.roads := by
    rw [dissolveNaming_frame]
    rfl
  have hcancel (t : State) : (t.cancelEntry v).roads = t.roads := by
    rw [(cancelEntry_spec t v).1]
    rfl
  rw [invalidate_eq]
  exact ((keepsLanes_of_roads (Eq.trans rfl hdissolve)).trans (keepsLanes_withdrawEverywhere _ _)).trans
    (keepsLanes_of_roads (hcancel _))

theorem keepsLanes_judgeVehicle (index : Nat) (bytes : List Byte) (s : State) :
    s.KeepsLanes (judgeVehicle index bytes s).state := by
  unfold judgeVehicle
  split
  · split
    · exact .refl s
    · split
      · exact .refl s
      · unfold State.applyVehicle
        dsimp only
        split
        · exact keepsLanes_of_roads rfl
        · split
          · exact keepsLanes_invalidate s _ _
          · exact keepsLanes_of_roads rfl
  · exact .refl s

theorem judgeOthers_roads (index : Nat) (bytes : List Byte) (s : State) :
    (judgeBinding index bytes s).state.roads = s.roads ∧ (judgeLimits index bytes s).state.roads = s.roads :=
  ⟨by rw [judgeBinding_frame]; rfl, by rw [judgeLimits_frame]; rfl⟩

/-! ### Acks and misses -/

theorem keepsLanes_slotOutcome (s : State) (v : VehicleId) (ack : Option Ack) : s.KeepsLanes (s.slotOutcome v ack).state := by
  unfold State.slotOutcome
  split
  · split
    · rename_i a
      let s0 := s.setVehicle v ((s.vehicle v).withAck a)
      exact ((keepsLanes_of_roads (s := s) (convoyAck_roads s0 v _)).trans (keepsLanes_laneAck _ v)).trans
        (keepsLanes_of_roads (couplerAck_roads _ v _))
    · exact keepsLanes_of_roads (miss_roads s v)
  · exact keepsLanes_of_roads rfl

end Sys2Proof.Machine

/-! SUPPORT. Every step keeps the valid ranges apart (R115) and the lane lists sound (R125). -/

namespace Sys2Proof.Machine

/-! ### Commands other than resets and ZONE's WRITE -/

/-- The command leads to a state with the same ranges, whose lane lists are sound where they were sound before. -/
def State.LeadsLanes (s : State) (o : Result) : Prop := Leads o s.KeepsLanes

section Commands

variable {s : State}

theorem leadsLanes_next {t : State} (h : s.KeepsLanes t) : s.LeadsLanes (.next t) := leads_next h

theorem leadsLanes_refl : s.LeadsLanes (.next s) := leadsLanes_next (.refl s)

theorem leadsLanes_roads {t : State} (h : t.roads = s.roads) : s.LeadsLanes (.next t) :=
  leadsLanes_next (keepsLanes_of_roads h)

theorem leadsLanes_settle {w : Work} (h : w.state.roads = s.roads) : s.LeadsLanes (.next w.settle) :=
  leadsLanes_roads ((settle_roads w).trans h)

theorem leadsLanes_atOnce {code : Byte} {run : List Byte → State → Done}
    (h : ∀ args, (run args s).state.roads = s.roads) : s.LeadsLanes (.next (atOnce code run s)) :=
  leadsLanes_next (keepsLanes_atOnce fun args => keepsLanes_of_roads (h args))

theorem frameCheckFailure_leadsLanes (bytes : List Byte) : s.LeadsLanes (execFrameCheckFailure bytes s) := by
  unfold execFrameCheckFailure
  split
  · exact leadsLanes_settle rfl
  · exact leadsLanes_refl

/-- A frame received on the link, whatever its class (R163). -/
theorem linkFrame_leadsLanes (header : LinkHeader) (payload : List Byte) (check : Half) :
    s.LeadsLanes (execDrive header payload check s) ∧ s.LeadsLanes (execAux header payload check s) ∧
      s.LeadsLanes (execMgmt header payload check s) := by
  unfold execDrive execAux execMgmt
  refine ⟨?drive, ?aux, ?mgmt⟩
  case drive =>
    split
    · exact leadsLanes_roads (receive_roads s _ _ _).1
    · exact leadsLanes_refl
  case aux =>
    split
    · exact leadsLanes_roads (receive_roads s _ _ _).2.1
    · exact leadsLanes_refl
  case mgmt =>
    split
    · exact leadsLanes_roads (receive_roads s _ _ _).2.2
    · exact leadsLanes_refl

theorem outputFrameSend_leadsLanes : s.LeadsLanes (execOutputFrameSend s) := by
  unfold execOutputFrameSend
  split
  · exact leadsLanes_roads rfl
  · exact leadsLanes_refl

theorem unknownCommand_leadsLanes : s.LeadsLanes (execUnknownCommand s) := by
  unfold execUnknownCommand
  repeat' split
  any_goals exact leadsLanes_refl
  all_goals exact leadsLanes_settle rfl

theorem directSend_leadsLanes : s.LeadsLanes (execDirectSend s) := by
  unfold execDirectSend
  repeat' split
  any_goals exact leadsLanes_refl
  · exact leadsLanes_roads rfl
  all_goals exact leadsLanes_settle rfl

theorem channelRestart_leadsLanes : s.LeadsLanes (execChannelRestart s) := by
  unfold execChannelRestart
  repeat' split
  any_goals exact leadsLanes_refl
  · exact leadsLanes_settle (restartChannel_roads s.headGoesInFlight _)
  all_goals exact leadsLanes_settle rfl

/-- The limits of lock and relock (R23, R26). -/
theorem limits_leadLanes (c : Channel) :
    s.LeadsLanes (execLockLimitExpiry c s) ∧ s.LeadsLanes (execRelockLimitExpiry c s) := by
  unfold execLockLimitExpiry execRelockLimitExpiry
  constructor
  all_goals
    dsimp only
    split
    · exact leadsLanes_settle (enterFailed_roads s c _ _)
    · exact leadsLanes_refl

theorem loopbackWindowEnd_leadsLanes (c : Channel) (returned : List Byte) :
    s.LeadsLanes (execLoopbackWindowEnd c returned s) := by
  unfold execLoopbackWindowEnd
  dsimp only
  repeat' split
  · exact leadsLanes_settle (enterFailed_roads s c _ _)
  · exact leadsLanes_settle (passTest_roads s c)
  · exact leadsLanes_roads rfl
  · exact leadsLanes_refl

theorem cycleStart_leadsLanes (c : Channel) : s.LeadsLanes (execCycleStart c s) := by
  unfold execCycleStart
  dsimp only
  split
  · exact leadsLanes_roads rfl
  · exact leadsLanes_refl

theorem frameBuild_leadsLanes (c : Channel) (slot : SlotNo) : s.LeadsLanes (execFrameBuild c slot s) := by
  unfold execFrameBuild
  dsimp only
  split
  · split <;> exact leadsLanes_roads rfl
  · exact leadsLanes_refl

theorem radioFrameReceive_leadsLanes (c : Channel) (bytes : List Byte) : s.LeadsLanes (execRadioFrameReceive c bytes s) := by
  unfold execRadioFrameReceive
  split
  · exact leadsLanes_roads rfl
  · exact leadsLanes_refl

/-- The one window whose end reaches the Lane Arbiter: that of a drive slot (R16, R126). -/
theorem responseWindowEnd_leadsLanes (c : Channel) : s.LeadsLanes (execResponseWindowEnd c s) := by
  unfold execResponseWindowEnd
  split
  · refine leadsLanes_next (keepsLanes_settle ?_)
    exact (keepsLanes_of_roads rfl : s.KeepsLanes (s.endSlot c)).trans (keepsLanes_slotOutcome _ _ _)
  · exact leadsLanes_refl

theorem housekeepingWindowEnd_leadsLanes (c : Channel) : s.LeadsLanes (execHousekeepingWindowEnd c s) := by
  unfold execHousekeepingWindowEnd
  split
  · split
    · exact leadsLanes_settle (pollReport_roads (s.endSlot c) c _ _)
    · exact leadsLanes_roads rfl
  · split
    · exact leadsLanes_settle (answerInFlight_roads (s.endSlot c) _ _)
    · exact leadsLanes_roads rfl
  · exact leadsLanes_refl

theorem sendLimitExpiry_leadsLanes (c : Channel) : s.LeadsLanes (execSendLimitExpiry c s) := by
  unfold execSendLimitExpiry
  dsimp only
  split
  · exact leadsLanes_settle (answerInFlight_roads (s.setChannel c _) _ _)
  · exact leadsLanes_refl

theorem silenceExpiry_leadsLanes (b : BindingId) : s.LeadsLanes (execSilenceExpiry b s) := by
  unfold execSilenceExpiry
  dsimp only
  split
  · exact leadsLanes_settle rfl
  · exact leadsLanes_refl

/-- The assertion edges of the two inputs (R55, R156). -/
theorem assertionEdges_leadLanes :
    s.LeadsLanes (execEstopAssertionEdge s) ∧ s.LeadsLanes (execSupplyMonitorAssertionEdge s) := by
  unfold execEstopAssertionEdge execSupplyMonitorAssertionEdge
  constructor
  all_goals
    split
    · exact leadsLanes_refl
    · exact leadsLanes_settle rfl

end Commands

/-- Every command but a power-on reset and ZONE's WRITE leaves the ranges alone and keeps the lists sound. -/
theorem exec_leadsLanes {i : Instr} (hreset : ∀ pins, i ≠ .powerOnReset pins) (hwrite : i ≠ .zoneWrite) (s : State) :
    s.LeadsLanes (exec i s) := by
  cases i with
  | powerOnReset pins => exact absurd rfl (hreset pins)
  | zoneWrite => exact absurd rfl hwrite
  | frameCheckFailure bytes => exact frameCheckFailure_leadsLanes bytes
  | drive header payload check => exact (linkFrame_leadsLanes header payload check).1
  | aux header payload check => exact (linkFrame_leadsLanes header payload check).2.1
  | mgmt header payload check => exact (linkFrame_leadsLanes header payload check).2.2
  | outputFrameSend => exact outputFrameSend_leadsLanes
  | unknownCommand => exact unknownCommand_leadsLanes
  | nop => exact leadsLanes_atOnce fun args => by rw [(runNop_state args s).1]
  | status => exact leadsLanes_atOnce (runStatus_roads s)
  | read => exact leadsLanes_atOnce (runRead_roads s)
  | vehicleWrite => exact leadsLanes_next (keepsLanes_writeStep keepsLanes_judgeVehicle _ _ s)
  | bindingWrite =>
    exact leadsLanes_next (keepsLanes_writeStep (fun i b s => keepsLanes_of_roads (judgeOthers_roads i b s).1) _ _ s)
  | limitsWrite =>
    exact leadsLanes_next (keepsLanes_writeStep (fun i b s => keepsLanes_of_roads (judgeOthers_roads i b s).2) _ _ s)
  | convoyForm => exact leadsLanes_atOnce fun args => (runConvoy_roads s args).1
  | convoyAdd => exact leadsLanes_atOnce fun args => (runConvoy_roads s args).2.1
  | convoyRemove => exact leadsLanes_next (keepsLanes_atOnce (keepsLanes_runConvoyRemove s))
  | convoyHold => exact leadsLanes_atOnce fun args => (runConvoy_roads s args).2.2.1
  | convoyResume => exact leadsLanes_atOnce fun args => (runConvoy_roads s args).2.2.2
  | convoyDisband => exact leadsLanes_next (keepsLanes_atOnce (keepsLanes_runConvoyDisband s))
  | zoneRelease => exact leadsLanes_next (keepsLanes_atOnce (keepsLanes_runZoneRelease s))
  | coupleConfirm | coupleReject => exact leadsLanes_atOnce (runDecision_roads fun _ _ => rfl)
  | directSend => exact directSend_leadsLanes
  | channelRestart => exact channelRestart_leadsLanes
  | faultRead => exact leadsLanes_atOnce (runFaultRead_roads s)
  | faultClear => exact leadsLanes_atOnce (runFaultClear_roads s)
  | stopAll => exact leadsLanes_atOnce (runStopAll_roads s)
  | restart => exact leadsLanes_atOnce (runRestart_roads s)
  | lockAchieved c | relock c => exact leadsLanes_roads (lockReport_roads s c)
  | lockLimitExpiry c => exact (limits_leadLanes c).1
  | relockLimitExpiry c => exact (limits_leadLanes c).2
  | loopbackWindowEnd c returned => exact loopbackWindowEnd_leadsLanes c returned
  | lockLost c returned => exact leadsLanes_settle (lockLostReport_roads s c returned)
  | cycleStart c => exact cycleStart_leadsLanes c
  | frameBuild c slot => exact frameBuild_leadsLanes c slot
  | radioFrameReceive c bytes => exact radioFrameReceive_leadsLanes c bytes
  | responseWindowEnd c => exact responseWindowEnd_leadsLanes c
  | housekeepingWindowEnd c => exact housekeepingWindowEnd_leadsLanes c
  | sendLimitExpiry c => exact sendLimitExpiry_leadsLanes c
  | silenceExpiry b => exact silenceExpiry_leadsLanes b
  | estopAssertionEdge => exact assertionEdges_leadLanes.1
  | supplyMonitorAssertionEdge => exact assertionEdges_leadLanes.2
  | estopRelease | supplyMonitorRelease | timeCounterTick => exact leadsLanes_roads rfl

/-! ### ZONE's WRITE (R115, R117) -/

/-- A range that overlaps no other valid range is stored (check 3 of R115). -/
theorem rangesApart_setZone {s : State} {r : RangeId} {z : Range} (hs : s.rangesApart) (hz : ¬s.zoneOverlaps r z) :
    (s.setZone r z).rangesApart := by
  have hfree {o : RangeId} {g : Segment} (ho : o ≠ r) (hzg : z.covers g = true) (hog : (s.zone o).covers g = true) : False := by
    obtain ⟨hvalid, hfirst, hlast⟩ := (covers_iff _ _).mp hzg
    obtain ⟨hovalid, hofirst, holast⟩ := (covers_iff _ _).mp hog
    exact hz ⟨hvalid, o, ho, hovalid, hfirst.trans holast, hofirst.trans hlast⟩
  intro a b hab g ⟨ha, hb⟩
  rw [zone_setZone] at ha hb
  by_cases har : a = r
  · rw [if_pos har] at ha
    have hbr : b ≠ r := fun e => hab (har.trans e.symm)
    rw [if_neg hbr] at hb
    exact hfree hbr ha hb
  · rw [if_neg har] at ha
    by_cases hbr : b = r
    · rw [if_pos hbr] at hb
      exact hfree har hb ha
    · rw [if_neg hbr] at hb
      exact hs a b hab g ⟨ha, hb⟩

/-- A range whose lists are not empty stays single-lane (check 2 of R115). -/
theorem lanesSound_setZone {s : State} {r : RangeId} {z : Range} (hs : s.lanesSound) (hz : ¬s.zoneInUse r z) :
    (s.setZone r z).lanesSound := by
  refine (lanesSound_iff _).mpr fun q => ?_
  have hq := (lanesSound_iff s).mp hs q
  rw [zone_setZone, setZone_lane]
  split
  · rename_i e
    subst e
    refine ⟨hq.nodup, fun hmany => by_contra fun hunits => hz ?_⟩
    have hold : (s.zone q).singleLane = true := by
      rw [← Bool.not_eq_false]
      exact fun hno => hunits (hq.single hno)
    have hvalid : (s.zone q).valid = true := by
      rw [Range.singleLane, Bool.and_eq_true] at hold
      exact hold.1
    have hleft : z.valid = false ∨ z.rules.capacity = 0 := by
      simpa only [Range.singleLane, Bool.and_eq_false_iff, decide_eq_false_iff_not, Nat.not_le, Nat.lt_one_iff] using hmany
    exact ⟨hvalid, fun hnil => hunits ((units_eq_nil _).mpr hnil), hleft.imp_right Or.inl⟩
  · exact hq

/-- A zone entry that is not refused keeps the ranges apart and the lists sound (R115, R117). -/
theorem judgeZone_keeps (index : Nat) (bytes : List Byte) (s : State) :
    (s.rangesApart → (judgeZone index bytes s).state.rangesApart) ∧
      (s.lanesSound → (judgeZone index bytes s).state.lanesSound) := by
  unfold judgeZone
  split
  · split
    · exact ⟨id, id⟩
    · split
      · exact ⟨id, id⟩
      · rename_i hfree
        obtain ⟨huse, hover⟩ := zoneRefusal_none hfree
        unfold State.applyZone
        dsimp only
        split
        · exact ⟨fun hs => rangesApart_setZone hs hover, fun hs =>
            (keepsLanes_grant _ _).sound (lanesSound_setZone hs huse)⟩
        · exact ⟨fun hs => rangesApart_setZone hs hover, fun hs => lanesSound_setZone hs huse⟩
  · exact ⟨id, id⟩

theorem rangesApart_of_zones {s t : State} (h : t.zones = s.zones) (hs : s.rangesApart) : t.rangesApart := by
  have hzone (r : RangeId) : t.zone r = s.zone r := by simp only [State.zone, h]
  intro a b hab g
  rw [hzone, hzone]
  exact hs a b hab g

/-! ### Every step -/

/-- After a power-on reset no range is valid and every list is empty (R124, R137). -/
theorem powerOn_roadsSound (pins : Pins) : (State.powerOn pins).rangesApart ∧ (State.powerOn pins).lanesSound := by
  refine ⟨fun a b _ g h => ?_, fun r => ?_⟩
  · rw [powerOn_zone] at h
    simp [Range.covers, Range.blank] at h
  · rw [powerOn_lane]
    exact ⟨List.nodup_nil, fun _ => rfl⟩

/-- Every command keeps the ranges apart, and the lists sound. -/
theorem exec_roadsSound (i : Instr) (s : State) :
    Leads (exec i s) fun t => (s.rangesApart → t.rangesApart) ∧ (s.lanesSound → t.lanesSound) := by
  by_cases hreset : ∃ pins, i = .powerOnReset pins
  · obtain ⟨pins, rfl⟩ := hreset
    obtain ⟨hranges, hlanes⟩ := powerOn_roadsSound pins
    have hroads : (powerOnWork pins s).settle.roads = (State.powerOn pins).roads := settle_roads _
    have hkeeps := keepsLanes_of_roads hroads
    exact leads_next ⟨fun _ => rangesApart_of_zones hkeeps.zones hranges, fun _ => hkeeps.sound hlanes⟩
  · by_cases hwrite : i = .zoneWrite
    · subst hwrite
      refine leads_next ⟨fun hs => ?_, fun hs => ?_⟩
      · exact writeStep_keepsRoads (fun _ _ h => rangesApart_of_zones (keepsLanes_of_roads h).zones)
          (fun i b s => (judgeZone_keeps i b s).1) _ _ hs
      · exact writeStep_keepsRoads (fun _ _ h => (keepsLanes_of_roads h).sound) (fun i b s => (judgeZone_keeps i b s).2) _ _ hs
    · obtain ⟨t, ht, hkeeps⟩ := exec_leadsLanes (fun pins e => hreset ⟨pins, e⟩) hwrite s
      exact ⟨t, ht, rangesApart_of_zones hkeeps.zones, hkeeps.sound⟩

/-- Settles O54: ZONE's WRITE stores no range that overlaps another and takes no range with units out of single-lane use; the
Lane Arbiter admits and queues a unit only where it is not listed; and every other command only removes units, or none. -/
theorem rangesStayApart : Obligations.RangesStayApart := by
  have hstep (s t : State) (h : step s = .next t) : (s.rangesApart → t.rangesApart) ∧ (s.lanesSound → t.lanesSound) := by
    unfold step at h
    split at h
    · exact Host.Outcome.next.inj h ▸ ⟨id, id⟩
    · rename_i c rest _
      obtain ⟨u, hu, hsound⟩ := exec_roadsSound c { s with pending := rest }
      exact Host.Outcome.next.inj (hu.symm.trans h) ▸ hsound
  exact ⟨fun s t hs h => (hstep s t h).1 hs, fun s t hs h => (hstep s t h).2 hs⟩

end Sys2Proof.Machine

/-! SUPPORT. A zone entry: its bytes (check 1 of R115, R116), and what is stored (R117). -/

namespace Sys2Proof.Machine

/-! ### The bytes of a zone entry (check 1 of R115) -/

theorem presentSegmentOf_none {high low : Byte} (h : 1024 ≤ high.toNat * 256 + low.toNat) : presentSegmentOf high low = none := by
  rw [presentSegmentOf, halfOf_toNat]
  exact dif_neg (Nat.not_lt.mpr h)

theorem presentSegmentOf_val {high low : Byte} {g : Segment} (h : g.val = high.toNat * 256 + low.toNat) :
    presentSegmentOf high low = some g := by
  rw [presentSegmentOf, halfOf_toNat, ← h]
  exact dif_pos g.isLt

section Bytes

variable {valid fh fl lh ll cap entry exit marshal junction capacity : Byte}

theorem zoneRangeOf_eq {f l : Segment} (hf : f.val = fh.toNat * 256 + fl.toNat) (hl : l.val = lh.toNat * 256 + ll.toNat) :
    zoneRangeOf [valid, fh, fl, lh, ll, cap, entry, exit, marshal, junction, capacity] =
      if f.val ≤ l.val ∧ capacity.toNat ≤ 3 then
        some
          (⟨decide (valid ≠ 0), f, l, ⟨min 127 cap.toNat, decide (entry ≠ 0), decide (exit ≠ 0), decide (marshal ≠ 0),
            decide (junction ≠ 0), capacity.toNat⟩⟩, decide (127 < cap.toNat))
      else none := by
  simp only [zoneRangeOf, presentSegmentOf_val hf, presentSegmentOf_val hl]
  rfl

theorem zoneRangeOf_bad
    (h : 1024 ≤ fh.toNat * 256 + fl.toNat ∨ 1024 ≤ lh.toNat * 256 + ll.toNat ∨
      lh.toNat * 256 + ll.toNat < fh.toNat * 256 + fl.toNat ∨ 3 < capacity.toNat) :
    zoneRangeOf [valid, fh, fl, lh, ll, cap, entry, exit, marshal, junction, capacity] = none := by
  by_cases hf : 1024 ≤ fh.toNat * 256 + fl.toNat
  · simp only [zoneRangeOf, presentSegmentOf_none hf]
  · by_cases hl : 1024 ≤ lh.toNat * 256 + ll.toNat
    · rw [zoneRangeOf, presentSegmentOf_none hl]
      cases presentSegmentOf fh fl <;> rfl
    · rw [zoneRangeOf_eq (f := ⟨_, Nat.lt_of_not_le hf⟩) (l := ⟨_, Nat.lt_of_not_le hl⟩) rfl rfl]
      refine if_neg fun ⟨hle, hcapacity⟩ => ?_
      have horder : fh.toNat * 256 + fl.toNat ≤ lh.toNat * 256 + ll.toNat := hle
      omega

theorem zoneRangeOf_good {f l : Segment}
    (h : ¬(1024 ≤ fh.toNat * 256 + fl.toNat ∨ 1024 ≤ lh.toNat * 256 + ll.toNat ∨
      lh.toNat * 256 + ll.toNat < fh.toNat * 256 + fl.toNat ∨ 3 < capacity.toNat))
    (hf : f.val = fh.toNat * 256 + fl.toNat) (hl : l.val = lh.toNat * 256 + ll.toNat) :
    zoneRangeOf [valid, fh, fl, lh, ll, cap, entry, exit, marshal, junction, capacity] = some
      (⟨decide (valid ≠ 0), f, l, ⟨min 127 cap.toNat, decide (entry ≠ 0), decide (exit ≠ 0), decide (marshal ≠ 0),
        decide (junction ≠ 0), capacity.toNat⟩⟩, decide (127 < cap.toNat)) := by
  rw [zoneRangeOf_eq hf hl]
  exact if_pos ⟨by omega, by omega⟩

end Bytes

/-! ### One zone entry, judged and applied (R117) -/

/-- What an accepted entry leaves: the range stored, and a grant for it where the capacity of a single-lane range changes (R117,
R129). -/
theorem applyZone_eq (s : State) (r : RangeId) (z : Range) :
    s.applyZone r z =
      if z.valid ∧ 1 ≤ z.rules.capacity ∧ z.rules.capacity ≠ (s.zone r).rules.capacity then
        (s.setZone r z).setLane r ((s.lane r).grant z.rules.capacity)
      else s.setZone r z := by
  have hcondition : (z.singleLane && decide (z.rules.capacity ≠ (s.zone r).rules.capacity)) = true ↔
      (z.valid ∧ 1 ≤ z.rules.capacity ∧ z.rules.capacity ≠ (s.zone r).rules.capacity) := by
    simp only [Range.singleLane, Bool.and_eq_true, decide_eq_true_eq, and_assoc]
  rw [State.applyZone]
  by_cases h : z.valid ∧ 1 ≤ z.rules.capacity ∧ z.rules.capacity ≠ (s.zone r).rules.capacity
  · rw [if_pos h, if_pos (hcondition.mpr h), State.grant, State.laneCapacity, zone_setZone_same, if_pos h.1, setZone_lane]
  · rw [if_neg h, if_neg (mt hcondition.mp h)]

theorem applyZone_mgmt (s : State) (r : RangeId) (z : Range) : (s.applyZone r z).mgmt = s.mgmt := by
  rw [applyZone_eq]
  split <;> rfl

section Entry

variable {s : State} {r : RangeId} {bytes : List Byte}

theorem judgeZone_bad (h : zoneRangeOf bytes = none) :
    judgeZone (BitVec.ofNat 8 r.val : Byte).toNat bytes s = { state := s, status := .refused .badValue } := by
  rw [bindingIndex_toNat, judgeZone, dif_pos r.isLt, h]

theorem judgeZone_refused {z : Range} {clamped : Bool} {x : Reason} (h : zoneRangeOf bytes = some (z, clamped))
    (hx : s.zoneRefusal r z = some x) :
    judgeZone (BitVec.ofNat 8 r.val : Byte).toNat bytes s = { state := s, status := .refused x } := by
  rw [bindingIndex_toNat, judgeZone, dif_pos r.isLt, h]
  dsimp only
  rw [hx]

theorem judgeZone_stored {z : Range} {clamped : Bool} (h : zoneRangeOf bytes = some (z, clamped))
    (hx : s.zoneRefusal r z = none) :
    judgeZone (BitVec.ofNat 8 r.val : Byte).toNat bytes s =
      { state := s.applyZone r z, status := acceptedStatus clamped } := by
  rw [bindingIndex_toNat, judgeZone, dif_pos r.isLt, h]
  dsimp only
  rw [hx]

variable {source tag : Byte} {rest : List MgmtEntry}
  (hhead : s.hasHead source 3 tag (3 :: BitVec.ofNat 8 r.val :: 1 :: bytes) rest) (hlen : bytes.length = 11)
include hhead hlen

theorem exec_zoneWrite_refused {x : Reason}
    (hjudge : judgeZone (BitVec.ofNat 8 r.val : Byte).toNat bytes s = { state := s, status := .refused x }) :
    exec .zoneWrite s = .next (s.answered source rest [3, tag, 2, x.code, 3, x.code]) :=
  writeStep_quiet 11 judgeZone hhead hlen hjudge rfl

theorem exec_zoneWrite_stored {z : Range} {clamped : Bool} (h : zoneRangeOf bytes = some (z, clamped))
    (hx : s.zoneRefusal r z = none) :
    exec .zoneWrite s =
      .next ((s.applyZone r z).answered source rest [3, tag, 0, 0, if clamped then 1 else 0, 0]) := by
  have hstep := writeStep_quiet 11 judgeZone hhead hlen (judgeZone_stored h hx) (applyZone_mgmt s r z)
  cases clamped <;> exact hstep

end Entry

/-- Settles O18: the entry by its bytes and the checks; the ranges of its fields; and the checks in their order. -/
theorem zoneEntryStoresItsRange : Obligations.ZoneEntryStoresItsRange := by
  refine ⟨fun source tag rest r bytes s hhead hlen =>
      ⟨fun h => ?bad, fun z clamped h => ⟨fun x hx => ?refused, fun hx => ?stored⟩⟩,
    fun valid fh fl lh ll cap entry exit marshal junction capacity =>
      ⟨zoneRangeOf_bad, fun h f l hf hl => zoneRangeOf_good h hf hl⟩, fun r z s => ?checks⟩
  case bad => exact exec_zoneWrite_refused hhead hlen (judgeZone_bad h)
  case refused => exact exec_zoneWrite_refused hhead hlen (judgeZone_refused h hx)
  case stored =>
    rw [← applyZone_eq]
    exact exec_zoneWrite_stored hhead hlen h hx
  case checks =>
    obtain ⟨huse, hover, hfree⟩ := zoneRefusal_spec s r z
    exact ⟨fun h => by rw [huse h]; rfl, fun h k => by rw [hover h k]; rfl, hfree⟩

end Sys2Proof.Machine

/-! SUPPORT. The lane lists at an ack of a tractor, range by range (R126 to R132). -/

namespace Sys2Proof.Machine

/-! ### Where the members of a unit stand (R82, R112) -/

theorem liesIn_iff (s : State) (g : Option Segment) (r : RangeId) : s.liesIn g r = true ↔ s.lookupOf g = some r := by
  simp [State.liesIn]

theorem clearOf_iff (s : State) (v : VehicleId) (r : RangeId) :
    s.clearOf v r = true ↔ s.lookupOf (s.vehicle v).current ≠ some r ∧ s.lookupOf (s.vehicle v).ahead ≠ some r := by
  simp [State.clearOf, State.liesIn]

/-- No member of the unit stands in the range (R131). -/
def State.unitOutside (s : State) (u : MoveUnit) (r : RangeId) : Prop :=
  ∀ m ∈ s.unitMembers u, s.lookupOf (s.vehicle m).current ≠ some r

theorem unitInside_eq_false_iff (s : State) (u : MoveUnit) (r : RangeId) :
    s.unitInside u r = false ↔ s.unitOutside u r := by
  simp [State.unitInside, State.unitOutside, State.liesIn]

theorem releases_iff (s : State) (u : MoveUnit) (v : VehicleId) (r : RangeId) (h : Holder) :
    s.releases u v r h = true ↔
      h.unit = u ∧ if h.entered then s.unitOutside u r else s.leadsUnit v = true ∧ s.clearOf v r = true := by
  rw [State.releases, Bool.and_eq_true, decide_eq_true_eq]
  cases h.entered
  · simp
  · simp [unitInside_eq_false_iff]

/-- A tractor is a member of its own unit (R80, R82). -/
theorem mem_unitMembers_self {s : State} (hs : s.convoysSound) (v : VehicleId) : v ∈ s.unitMembers (s.unitOf v) := by
  cases hc : (s.vehicle v).convoy with
  | none =>
    rw [unitOf_solo hc]
    exact List.mem_singleton.mpr rfl
  | some c =>
    rw [unitOf_member hc]
    exact (member_iff hs v c).mp hc

/-- The lead of a unit (R80, R126). -/
theorem leadsUnit_spec (s : State) (v : VehicleId) :
    ((s.vehicle v).convoy = none → s.leadsUnit v = true) ∧
      ∀ c, (s.vehicle v).convoy = some c → (s.leadsUnit v = true ↔ ∃ m ∈ (s.convoy c).members.head?, m.tractor = v) := by
  refine ⟨fun h => by rw [State.leadsUnit, h], fun c h => ?_⟩
  simp only [State.leadsUnit, h, Convoy.isLead, decide_eq_true_eq, Option.map_eq_some_iff, Option.mem_def]

/-! ### Entry and presence admission (R130, R132) -/

section EnterHolder

variable {l : Lane} {u : MoveUnit}

theorem holds_iff (l : Lane) (u : MoveUnit) : l.holds u = true ↔ ∃ h ∈ l.holders, h.unit = u := by
  simp [Lane.holds]

theorem not_waits_iff (l : Lane) (u : MoveUnit) : l.waits u = false ↔ u ∉ l.waiting := by
  rw [← Bool.not_eq_true]
  exact not_congr (by simp [Lane.waits])

theorem enterHolder_holder (h : ∃ h ∈ l.holders, h.unit = u) :
    l.enterHolder u =
      { l with holders := l.holders.map (fun h => if h.unit = u then { h with entered := true } else h) } := by
  rw [Lane.enterHolder, if_pos ((holds_iff l u).mpr h)]

theorem enterHolder_admitted (h : ∀ h ∈ l.holders, h.unit ≠ u) (hroom : l.holders.length < 4) :
    l.enterHolder u = ⟨l.holders ++ [⟨u, true⟩], l.waiting.filter (fun w => w ≠ u)⟩ := by
  rw [Lane.enterHolder, (not_holds_iff l u).mpr h, if_neg Bool.false_ne_true, if_pos hroom]
  rfl

theorem enterHolder_full (h : ∀ h ∈ l.holders, h.unit ≠ u) (hfull : 4 ≤ l.holders.length) : l.enterHolder u = l := by
  rw [Lane.enterHolder, (not_holds_iff l u).mpr h, if_neg Bool.false_ne_true, if_neg (Nat.not_lt.mpr hfull)]

/-- What holds the range for the unit after step 1 is entered. -/
theorem enterHolder_entered {k : Holder} (hk : k ∈ (l.enterHolder u).holders) (hu : k.unit = u) : k.entered = true := by
  by_cases hold : ∃ h ∈ l.holders, h.unit = u
  · rw [enterHolder_holder hold] at hk
    obtain ⟨h, -, rfl⟩ := List.mem_map.mp hk
    by_cases e : h.unit = u
    · simp [e]
    · simp [e] at hu
  · have hnew : ∀ h ∈ l.holders, h.unit ≠ u := fun h hh e => hold ⟨h, hh, e⟩
    by_cases hroom : l.holders.length < 4
    · rw [enterHolder_admitted hnew hroom] at hk
      rcases List.mem_append.mp hk with hk | hk
      · exact absurd hu (hnew k hk)
      · rw [List.mem_singleton.mp hk]
    · rw [enterHolder_full hnew (Nat.le_of_not_lt hroom)] at hk
      exact absurd hu (hnew k hk)

/-- A unit that held the range, or for which there is room, holds it entered after step 1. -/
theorem mem_enterHolder (h : (∃ h ∈ l.holders, h.unit = u) ∨ l.holders.length < 4) :
    ∃ k ∈ (l.enterHolder u).holders, k.unit = u := by
  by_cases hold : ∃ h ∈ l.holders, h.unit = u
  · rw [enterHolder_holder hold]
    obtain ⟨k, hk, rfl⟩ := hold
    exact ⟨_, List.mem_map.mpr ⟨k, hk, rfl⟩, by simp⟩
  · rw [enterHolder_admitted (fun k hk e => hold ⟨k, hk, e⟩) (h.resolve_left hold)]
    exact ⟨⟨u, true⟩, by simp, rfl⟩

end EnterHolder

/-! ### Grants for changed lists (R129) -/

/-- Step 5 of R126: the lists of the range that the four steps leave, judged for a grant where they have changed. -/
def State.laneJudged (s : State) (r : RangeId) (l : Lane) : Lane :=
  if l = s.lane r then s.lane r else l.grant (s.laneCapacity r)

theorem laneJudged_same (s : State) (r : RangeId) : s.laneJudged r (s.lane r) = s.lane r := if_pos rfl

/-- A grant removes no holder (R129). -/
theorem mem_laneJudged {s : State} {r : RangeId} {l : Lane} {h : Holder} (hh : h ∈ l.holders) :
    h ∈ (s.laneJudged r l).holders := by
  unfold State.laneJudged
  split
  · rename_i e
    exact e ▸ hh
  · obtain ⟨k, -, he, -, -⟩ := grantFrom_spec (s.laneCapacity r) l.waiting l.holders
    rw [Lane.grant, he]
    exact List.mem_append_left _ hh

section Ack

variable {s : State} {v : VehicleId} (hk : (s.vehicle v).kind = .tractor) {r : RangeId}

section Judged

include hk

theorem laneAck_judged : (s.laneAck v).1.lane r = s.laneJudged r (s.laneRequested (s.unitOf v) v r) := by
  rw [laneAck_lane s v hk r, State.laneJudged]
  by_cases h : s.laneRequested (s.unitOf v) v r = s.lane r
  · rw [if_pos h.symm, if_pos h, h]
  · rw [if_neg (Ne.symm h), if_neg h]

/-- The latches of an ack are those of step 1 (R132). -/
theorem laneAck_latches : (s.laneAck v).2 = (s.laneEnter (s.unitOf v) v).2 := by
  rw [State.laneAck, if_pos hk]

theorem laneAck_quiet (h : s.laneRangeOf (s.vehicle v).current = none) : (s.laneAck v).2 = [] := by
  rw [laneAck_latches hk, State.laneEnter, h]

theorem laneAck_overfull (h : s.laneRangeOf (s.vehicle v).current = some r) :
    (s.laneAck v).2 =
      if (∃ h ∈ (s.lane r).holders, h.unit = s.unitOf v) ∨ (s.lane r).holders.length < 4 then []
      else [⟨.zoneOverfull, .range r, (s.vehicle v).current⟩] := by
  rw [laneAck_latches hk, State.laneEnter, h]
  simp only [Bool.or_eq_true, decide_eq_true_eq, holds_iff]

end Judged

/-! ### The range in which the tractor stands (R130, R132) -/

/-- Where the tractor stands, nothing is released, withdrawn or requested. -/
theorem laneRequested_standing (hs : s.convoysSound) (h : s.laneRangeOf (s.vehicle v).current = some r) :
    s.laneRequested (s.unitOf v) v r = (s.lane r).enterHolder (s.unitOf v) := by
  have hlook : s.lookupOf (s.vehicle v).current = some r := ((laneRangeOf_iff s _ r).mp h).1
  have hentered : s.laneEntered (s.unitOf v) v r = (s.lane r).enterHolder (s.unitOf v) := if_pos h
  have hreleased : s.laneReleased (s.unitOf v) v r = (s.lane r).enterHolder (s.unitOf v) := by
    have hstay : ∀ k ∈ ((s.lane r).enterHolder (s.unitOf v)).holders, (!s.releases (s.unitOf v) v r k) = true := by
      intro k hmem
      rw [Bool.not_eq_true', ← Bool.not_eq_true, releases_iff]
      rintro ⟨hu, hout⟩
      rw [if_pos (enterHolder_entered hmem hu)] at hout
      exact hout v (mem_unitMembers_self hs v) hlook
    rw [State.laneReleased, hentered, List.filter_eq_self.mpr hstay]
  have hwithdrawn : s.laneWithdrawn (s.unitOf v) v r = (s.lane r).enterHolder (s.unitOf v) := by
    rw [State.laneWithdrawn, if_neg fun ⟨_, _, hclear⟩ => ((clearOf_iff s v r).mp hclear).1 hlook, hreleased]
  rw [State.laneRequested, if_neg (by simp [State.laneAsks, State.liesIn, hlook]), hwithdrawn]

/-! ### The other ranges (R127, R128, R131) -/

/-- In a range in which the tractor does not stand, step 1 does nothing, and step 2 releases what R131 says. -/
theorem laneReleased_elsewhere (u : MoveUnit) (h : s.laneRangeOf (s.vehicle v).current ≠ some r) :
    s.laneReleased u v r = ⟨(s.lane r).holders.filter (fun k => !s.releases u v r k), (s.lane r).waiting⟩ := by
  have hentered : s.laneEntered u v r = s.lane r := if_neg h
  rw [State.laneReleased, hentered]

/-- The holders of a range that stay when the unit is released where it has left it, entered (R131). -/
def State.laneKept (s : State) (u : MoveUnit) (r : RangeId) : List Holder :=
  (s.lane r).holders.filter
    (fun h => ¬(h.unit = u ∧ h.entered = true ∧ ∀ m ∈ s.unitMembers u, s.lookupOf (s.vehicle m).current ≠ some r))

/-- The unit's lead may cross into the range, and the unit neither holds it nor waits for it (R127). -/
def State.mayRequest (s : State) (u : MoveUnit) (v : VehicleId) (r : RangeId) : Prop :=
  s.leadsUnit v = true ∧ (∀ h ∈ s.laneKept u r, h.unit ≠ u) ∧ u ∉ (s.lane r).waiting ∧
    s.crossingReason (s.vehicle v).current (s.vehicle v).ahead (s.controllingClass v) = none

section Ahead

variable (hahead : s.laneRangeOf (s.vehicle v).ahead = some r) (hcurrent : s.lookupOf (s.vehicle v).current ≠ some r)
include hahead hcurrent

/-- A range that the tractor looks into lets the unit go only where it was entered, and withdraws nothing (R128, R131). -/
theorem laneWithdrawn_ahead (u : MoveUnit) : s.laneWithdrawn u v r = ⟨s.laneKept u r, (s.lane r).waiting⟩ := by
  have hlook : s.lookupOf (s.vehicle v).ahead = some r := ((laneRangeOf_iff s _ r).mp hahead).1
  have hclear : ¬s.clearOf v r = true := fun h => ((clearOf_iff s v r).mp h).2 hlook
  have hnot : s.laneRangeOf (s.vehicle v).current ≠ some r := fun h => hcurrent ((laneRangeOf_iff s _ r).mp h).1
  have hkept : (s.lane r).holders.filter (fun k => !s.releases u v r k) = s.laneKept u r := by
    refine List.filter_congr fun k _ => Bool.eq_iff_iff.mpr ?_
    rw [Bool.not_eq_true', decide_eq_true_eq, ← Bool.not_eq_true, releases_iff]
    refine not_congr (and_congr_right fun _ => ?_)
    cases k.entered <;> simp [hclear, State.unitOutside]
  rw [State.laneWithdrawn, if_neg fun ⟨_, _, h⟩ => hclear h, laneReleased_elsewhere u hnot, hkept]

theorem laneAsks_ahead (u : MoveUnit) :
    s.laneAsks u v r = true ↔ s.mayRequest u v r ∧ (s.lane r).waiting.length < 8 := by
  have hlies : s.liesIn (s.vehicle v).current r = false := by rwa [← Bool.not_eq_true, liesIn_iff]
  simp only [State.laneAsks, laneWithdrawn_ahead hahead hcurrent u, hahead, hlies, Bool.and_eq_true, Bool.not_eq_true',
    not_holds_iff, not_waits_iff, decide_eq_true_eq, Option.isNone_iff_eq_none, State.mayRequest, and_assoc, true_and]

theorem laneRequested_asked {u : MoveUnit} (h : s.mayRequest u v r) (hroom : (s.lane r).waiting.length < 8) :
    s.laneRequested u v r = ⟨s.laneKept u r, (s.lane r).waiting ++ [u]⟩ := by
  rw [State.laneRequested, if_pos ((laneAsks_ahead hahead hcurrent u).mpr ⟨h, hroom⟩), laneWithdrawn_ahead hahead hcurrent]

theorem laneRequested_notAsked {u : MoveUnit} (h : ¬s.mayRequest u v r ∨ 8 ≤ (s.lane r).waiting.length) :
    s.laneRequested u v r = ⟨s.laneKept u r, (s.lane r).waiting⟩ := by
  have hnot : ¬s.laneAsks u v r = true := by
    rw [laneAsks_ahead hahead hcurrent, not_and_or, Nat.not_lt]
    exact h
  rw [State.laneRequested, if_neg hnot, laneWithdrawn_ahead hahead hcurrent]

end Ahead

/-- A range that the tractor neither stands in nor looks into: release by R131, withdrawal by R128, and no request. -/
theorem laneRequested_away (u : MoveUnit) (hcurrent : s.laneRangeOf (s.vehicle v).current ≠ some r)
    (hahead : s.laneRangeOf (s.vehicle v).ahead ≠ some r) :
    s.laneRequested u v r =
      ⟨(s.lane r).holders.filter (fun k => !s.releases u v r k),
        if s.leadsUnit v = true ∧ s.clearOf v r = true then (s.lane r).waiting.filter (fun w => w ≠ u)
        else (s.lane r).waiting⟩ := by
  have hasks : ¬s.laneAsks u v r = true := by simp [State.laneAsks, hahead]
  rw [State.laneRequested, if_neg hasks, State.laneWithdrawn, laneReleased_elsewhere u hcurrent]
  by_cases hout : s.leadsUnit v = true ∧ s.clearOf v r = true
  · rw [if_pos hout]
    by_cases hwaits : Lane.waits ⟨(s.lane r).holders.filter (fun k => !s.releases u v r k), (s.lane r).waiting⟩ u = true
    · rw [if_pos ⟨hout.1, hwaits, hout.2⟩, Lane.dropWaiting]
    · have hnone : u ∉ (s.lane r).waiting := by simpa [Lane.waits] using hwaits
      have hkeep : ∀ w ∈ (s.lane r).waiting, decide (w ≠ u) = true := fun w hw => decide_eq_true fun e => hnone (e ▸ hw)
      rw [if_neg fun h => hwaits h.2.1, List.filter_eq_self.mpr hkeep]
  · rw [if_neg hout, if_neg fun h => hout ⟨h.1, h.2.2⟩]

end Ack

/-- Settles O39: the range in which the tractor stands, another that it looks into, and every other range, each with the four
steps of R126 and the grant that they make due; then the words that the statement uses. -/
theorem laneListsFollowAcks : Obligations.LaneListsFollowAcks := by
  refine ⟨fun s v hk hs => ⟨(laneAck_spec s v).1, fun r hr => ?standing, laneAck_quiet hk, fun r hahead hcurrent => ?ahead,
    fun r hcurrent hahead => ?away⟩, fun s g r => ?range, leadsUnit_spec, fun s => ⟨fun _ => rfl, fun _ => rfl⟩⟩
  case standing =>
    have hlane := (laneAck_judged hk (r := r)).trans (congrArg _ (laneRequested_standing hs hr))
    have hlatches := laneAck_overfull hk hr
    refine ⟨fun hold => ⟨?_, ?_⟩, fun hnew hroom => ⟨?_, ?_⟩, fun hin => ?_, fun hnew hfull => ⟨?_, ?_⟩⟩
    · rw [hlatches, if_pos (.inl hold)]
    · rw [hlane, enterHolder_holder hold]
      rfl
    · rw [hlatches, if_pos (.inr hroom)]
    · rw [hlane, enterHolder_admitted hnew hroom]
      rfl
    · obtain ⟨h, hmem, hu⟩ := mem_enterHolder hin
      exact ⟨h, hlane ▸ mem_laneJudged hmem, hu, enterHolder_entered hmem hu⟩
    · refine hlatches.trans (if_neg fun h => ?_)
      rcases h with ⟨h, hmem, hu⟩ | h
      · exact hnew h hmem hu
      · exact absurd hfull (Nat.not_le.mpr h)
    · rw [hlane, enterHolder_full hnew hfull, laneJudged_same]
  case ahead =>
    refine ⟨fun hfree hroom => ?_, fun h => ?_⟩
    · exact (laneAck_judged hk).trans (congrArg _ (laneRequested_asked hahead hcurrent hfree hroom))
    · exact (laneAck_judged hk).trans (congrArg _ (laneRequested_notAsked hahead hcurrent h))
  case away =>
    refine (laneAck_judged hk).trans (congrArg (s.laneJudged r) ((laneRequested_away _ hcurrent hahead).trans ?_))
    have hout : (s.leadsUnit v = true ∧ s.clearOf v r = true) ↔
        (s.lookupOf (s.vehicle v).current ≠ some r ∧ s.lookupOf (s.vehicle v).ahead ≠ some r ∧ s.leadsUnit v = true) := by
      rw [clearOf_iff, and_comm, and_assoc]
    refine congrArg₂ Lane.mk (List.filter_congr fun k _ => Bool.eq_iff_iff.mpr ?_) (if_congr hout rfl rfl)
    rw [Bool.not_eq_true', decide_eq_true_eq, ← Bool.not_eq_true, releases_iff, hout]
    rfl
  case range =>
    rw [laneRangeOf_iff]
    exact ⟨fun ⟨hlook, hcap⟩ => ⟨hlook, lookupOf_valid hlook, hcap⟩, fun ⟨hlook, _, hcap⟩ => ⟨hlook, hcap⟩⟩

end Sys2Proof.Machine

/-! SUPPORT. ZONE_RELEASE (R135), and the grant that it judges (R129). -/

namespace Sys2Proof.Machine

/-! ### The range that an index byte names (R135) -/

theorem rangeOf_none {b : Byte} (h : 32 ≤ b.toNat) : rangeOf b = none := dif_neg (Nat.not_lt.mpr h)

theorem rangeOf_val {b : Byte} {z : RangeId} (h : z.val = b.toNat) : rangeOf b = some z := by
  have hlt : b.toNat < 32 := h ▸ z.isLt
  rw [rangeOf, dif_pos hlt]
  exact congrArg some (Fin.ext h.symm)

/-! ### The unit leaves the lists of one range (R129, R135) -/

theorem waits_iff (l : Lane) (u : MoveUnit) : l.waits u = true ↔ u ∈ l.waiting := by
  simp [Lane.waits]

/-- A unit is in one of the two lists of a range. -/
theorem listed_iff (l : Lane) (u : MoveUnit) :
    (l.holds u || l.waits u) = true ↔ (∃ h ∈ l.holders, h.unit = u) ∨ u ∈ l.waiting := by
  rw [Bool.or_eq_true, holds_iff, waits_iff]

@[simp] theorem setLane_setLane (s : State) (r : RangeId) (l m : Lane) : (s.setLane r l).setLane r m = s.setLane r m := by
  simp [State.setLane]

/-- What a release leaves: the one range without the unit, judged for a grant by the capacity that it has (R129, R135). -/
theorem releaseUnit_eq (s : State) (z : RangeId) (u : MoveUnit) :
    s.releaseUnit z u =
      s.setLane z (Lane.grant (s.laneCapacity z)
        ⟨(s.lane z).holders.filter (fun h => h.unit ≠ u), (s.lane z).waiting.filter (fun w => w ≠ u)⟩) := by
  have hcapacity (l : Lane) : (s.setLane z l).laneCapacity z = s.laneCapacity z := rfl
  rw [State.releaseUnit, State.grant, lane_setLane_same, hcapacity, setLane_setLane]
  rfl

/-! ### The command (R135) -/

section Release

variable {s : State} {source tag r kind index : Byte} {rest : List MgmtEntry}
  (hhead : s.hasHead source 24 tag [r, kind, index] rest)
include hhead

theorem exec_zoneRelease_badValue
    (h : 32 ≤ r.toNat ∨ 2 ≤ kind.toNat ∨ (kind = 0 ∧ 12 ≤ index.toNat) ∨ (kind = 1 ∧ 64 ≤ index.toNat)) :
    exec .zoneRelease s = .next (s.answered source rest [24, tag, 2, 7]) := by
  refine next_refused hhead runZoneRelease .badValue ?_
  rcases h with hrange | hunit
  · simp only [runZoneRelease, rangeOf_none hrange]
  · rw [runZoneRelease, moveUnitOf_none hunit]
    cases rangeOf r <;> rfl

variable {z : RangeId} {u : MoveUnit} (hz : z.val = r.toNat) (hu : moveUnitOf kind index = some u)
include hz hu

/-- ZONE_RELEASE of a range and a unit that are named: NOT_FOUND, or its effect. -/
theorem exec_zoneRelease_named :
    exec .zoneRelease s = .next
      (if (∃ h ∈ (s.lane z).holders, h.unit = u) ∨ u ∈ (s.lane z).waiting then
        (s.releaseUnit z u).answered source rest [24, tag, 0, 0]
      else s.answered source rest [24, tag, 2, 10]) := by
  split_ifs with hlisted
  · exact next_ok hhead runZoneRelease (data := [])
      (by simp only [runZoneRelease, rangeOf_val hz, hu, if_pos ((listed_iff _ _).mpr hlisted)]) rfl
  · exact next_refused hhead runZoneRelease .notFound
      (by simp only [runZoneRelease, rangeOf_val hz, hu, if_neg (mt (listed_iff _ _).mp hlisted)])

end Release

/-- Settles O25: the three bytes, then the lists of the range that is named; a grant by `grantFrom_spec`; and the capacity as
the model defines it. -/
theorem zoneReleaseAndGrant : Obligations.ZoneReleaseAndGrant := by
  refine ⟨fun source tag r kind index rest s hhead => ⟨exec_zoneRelease_badValue hhead, fun z u hz hunit => ?_⟩,
    fun capacity l => grantFrom_spec capacity l.waiting l.holders, fun s r => rfl⟩
  have hu : moveUnitOf kind index = some u := by
    rcases hunit with ⟨c, rfl, rfl, hc⟩ | ⟨v, rfl, rfl, hv⟩
    · exact moveUnitOf_convoy hc
    · exact moveUnitOf_vehicle hv
  rw [exec_zoneRelease_named hhead hz hu, releaseUnit_eq]

end Sys2Proof.Machine

/-! SUPPORT. A WRITE whole: its form, its entries in order, and its reply from their statuses (R167, R168, R169, R171). -/

namespace Sys2Proof.Machine

/-! ### The form of a WRITE (R167, R179) -/

/-- Whole entries sent one after another are read as those entries. -/
theorem splitEntries_flatten {size : Nat} {entries : List (List Byte)} (h : ∀ e ∈ entries, e.length = size) :
    splitEntries size entries.length entries.flatten = entries := by
  induction entries with
  | nil => rfl
  | cons e es ih =>
    obtain ⟨he, hes⟩ := List.forall_mem_cons.mp h
    rw [List.length_cons, List.flatten_cons, splitEntries, List.take_left' he, List.drop_left' he, ih hes]

theorem length_flatten_entries {size : Nat} {entries : List (List Byte)} (h : ∀ e ∈ entries, e.length = size) :
    entries.flatten.length = entries.length * size := by
  induction entries with
  | nil => simp
  | cons e es ih =>
    obtain ⟨he, hes⟩ := List.forall_mem_cons.mp h
    rw [List.flatten_cons, List.length_append, he, ih hes, List.length_cons, Nat.succ_mul, Nat.add_comm]

/-- A WRITE of one to four whole entries meets the form. -/
theorem writeForm_entries {table first n : Byte} {size : Nat} {entries : List (List Byte)} (hn : n.toNat = entries.length)
    (hpos : 1 ≤ n.toNat) (hmax : n.toNat ≤ 4) (hsize : ∀ e ∈ entries, e.length = size) :
    writeForm table size (table :: first :: n :: entries.flatten) = some (first.toNat, entries) := by
  have hlen : entries.flatten.length = n.toNat * size := by rw [hn, length_flatten_entries hsize]
  rw [writeForm, if_pos ⟨rfl, hpos, hmax, hlen⟩, hn, splitEntries_flatten hsize]

theorem writeForm_counts {table first n : Byte} {size : Nat} {bytes : List Byte}
    (h : n.toNat < 1 ∨ 4 < n.toNat ∨ bytes.length ≠ n.toNat * size) :
    writeForm table size (table :: first :: n :: bytes) = none := by
  rw [writeForm, if_neg]
  rintro ⟨-, hpos, hmax, hlen⟩
  rcases h with h | h | h
  · omega
  · omega
  · exact h hlen

theorem writeForm_short {table : Byte} {size : Nat} {args : List Byte} (h : args.length < 3) :
    writeForm table size args = none := by
  rcases args with _ | ⟨t, _ | ⟨first, _ | ⟨n, bytes⟩⟩⟩
  · rfl
  · rfl
  · rfl
  · simp only [List.length_cons] at h
    omega

theorem writeForm_other {table t : Byte} {size : Nat} {bytes : List Byte} (h : t ≠ table) :
    writeForm table size (t :: bytes) = none := by
  rcases bytes with _ | ⟨first, _ | ⟨n, bytes⟩⟩
  · rfl
  · rfl
  · exact if_neg fun hform => h hform.1

/-! ### The step of a WRITE, from its form -/

@[simp] theorem writeIsFor_own (table : Byte) (bytes : List Byte) : writeIsFor table (table :: bytes) = true := by
  simp [writeIsFor]

/-- Any of the four steps takes a WRITE that names no writable table (assumption 14). -/
theorem writeIsFor_unwritable {table t : Byte} {bytes : List Byte} (h : t ∉ writableTables) :
    writeIsFor table (t :: bytes) = true := by
  simp [writeIsFor, h]

/-- A WRITE at the head that is for the step is run whole. -/
theorem writeStep_head {s : State} {source tag table : Byte} {args : List Byte} {rest : List MgmtEntry} (size : Nat)
    (judge : EntryJudge) (hhead : s.hasHead source codeWrite tag args rest) (hfor : writeIsFor table args = true) :
    writeStep table size judge s =
      ((runWrite table size judge args s).finish ⟨source, codeWrite :: tag :: args, false⟩).settle := by
  rw [writeStep, hasHead_ready hhead]
  exact if_pos hfor

/-- A WRITE that does not meet the form is answered MALFORMED and changes nothing (R167). -/
theorem writeStep_malformed {s : State} {source tag table : Byte} {args : List Byte} {rest : List MgmtEntry} {size : Nat}
    (judge : EntryJudge) (hhead : s.hasHead source codeWrite tag args rest) (hfor : writeIsFor table args = true)
    (hform : writeForm table size args = none) :
    (.next (writeStep table size judge s) : Result) = .next (s.answered source rest [3, tag, 5, 0]) := by
  have hrun : runWrite table size judge args s = Done.malformed s := by rw [runWrite, hform]
  rw [writeStep_head size judge hhead hfor, hrun, finish_settle _ _ rfl rfl]
  exact congrArg _ (pop_answered s s hhead rfl _)

/-- A WRITE that meets the form: its entries, the end of the event, and the reply from their statuses (R166, R171). -/
theorem writeStep_settledWith {s : State} {source tag table : Byte} {args : List Byte} {rest : List MgmtEntry}
    {size first : Nat} {entries : List (List Byte)} {judge : EntryJudge}
    (hhead : s.hasHead source codeWrite tag args rest) (hfor : writeIsFor table args = true)
    (hform : writeForm table size args = some (first, entries))
    (hmgmt : (writeEntries judge first entries s).state.mgmt = s.mgmt) :
    (writeEntries judge first entries s).ended.1.settledWith (writeStep table size judge s) source rest
      ([3, tag, (writeAnswer (writeEntries judge first entries s).statuses).status.code,
        (writeAnswer (writeEntries judge first entries s).statuses).reason.code] ++
          (writeAnswer (writeEntries judge first entries s).statuses).data)
      [(writeEntries judge first entries s).ended.2] := by
  have hrun : runWrite table size judge args s =
      { state := (writeEntries judge first entries s).ended.1
        answer := writeAnswer (writeEntries judge first entries s).statuses
        latches := (writeEntries judge first entries s).ended.2 } := by rw [runWrite, hform]
  have hkept : (runWrite table size judge args s).state.mgmt = s.mgmt := by
    rw [hrun, (ended_spec _).1.1]
    exact hmgmt
  have hsettled := finish_settledWith (runWrite table size judge args s) s hhead hkept
  rw [writeStep_head size judge hhead hfor]
  rw [hrun] at hsettled ⊢
  exact hsettled

/-! ### What the four WRITE commands share -/

/-- What no entry of a WRITE touches: the Fault Unit, the Link Port, the Management Queue and the counter of choices. -/
def State.besideTables (s : State) : FaultUnit × LinkPort × MgmtQueue × Nat := (s.fault, s.link, s.mgmt, s.freeCount)

/-- The command is the WRITE of a table with the given code, entry size, number of entries and judge of entries. -/
structure IsWriteOf (i : Instr) (table : Byte) (size range : Nat) (judge : EntryJudge) : Prop where
  exec_eq : ∀ s, exec i s = .next (writeStep table size judge s)
  beside : ∀ index bytes s, (judge index bytes s).state.besideTables = s.besideTables
  startDue : i ≠ .vehicleWrite → ∀ index bytes s, (judge index bytes s).startDue = false
  beyond : ∀ index bytes s, range ≤ index → judge index bytes s = { state := s, status := .outOfRange }
  writable : table ∈ writableTables

theorem isWriteOf_vehicle : IsWriteOf .vehicleWrite 1 16 64 judgeVehicle where
  exec_eq _ := rfl
  beside index bytes s := by rw [judgeVehicle_frame]; rfl
  startDue h := absurd rfl h
  beyond _ _ _ h := dif_neg (Nat.not_lt.mpr h)
  writable := by decide

theorem isWriteOf_binding : IsWriteOf .bindingWrite 0 12 32 judgeBinding where
  exec_eq _ := rfl
  beside index bytes s := by rw [judgeBinding_frame]; rfl
  startDue _ index bytes s := (judgeOthers_startDue index bytes s).1
  beyond _ _ _ h := dif_neg (Nat.not_lt.mpr h)
  writable := by decide

theorem isWriteOf_zone : IsWriteOf .zoneWrite 3 11 32 judgeZone where
  exec_eq _ := rfl
  beside index bytes s := by rw [judgeZone_frame]; rfl
  startDue _ index bytes s := (judgeOthers_startDue index bytes s).2.1
  beyond _ _ _ h := dif_neg (Nat.not_lt.mpr h)
  writable := by decide

theorem isWriteOf_limits : IsWriteOf .limitsWrite 6 13 1 judgeLimits where
  exec_eq _ := rfl
  beside index bytes s := by rw [judgeLimits_frame]; rfl
  startDue _ index bytes s := (judgeOthers_startDue index bytes s).2.2
  beyond _ _ _ h := if_neg (Nat.one_le_iff_ne_zero.mp h)
  writable := by decide

section Write

variable {i : Instr} {table : Byte} {size range : Nat} {judge : EntryJudge} (hwrite : IsWriteOf i table size range judge)
  {s : State} {source tag : Byte} {rest : List MgmtEntry}
include hwrite

theorem writeEntries_beside (index : Nat) (entries : List (List Byte)) :
    (writeEntries judge index entries s).state.besideTables = s.besideTables :=
  writeEntries_keeps State.besideTables judge hwrite.beside index entries s

/-- The entries of a WRITE change no fault, no output frame and no choice counter, and only VEHICLE's make a start due. -/
theorem writeEntries_leave (index : Nat) (entries : List (List Byte)) :
    (writeEntries judge index entries s).state.fault = s.fault ∧ (writeEntries judge index entries s).state.link = s.link ∧
      (writeEntries judge index entries s).state.freeCount = s.freeCount ∧
      ((writeEntries judge index entries s).startDue = true → i = .vehicleWrite) := by
  have hbeside := writeEntries_beside hwrite (s := s) index entries
  simp only [State.besideTables, Prod.mk.injEq] at hbeside
  obtain ⟨hfault, hlink, -, hcount⟩ := hbeside
  refine ⟨hfault, hlink, hcount, fun hdue => by_contra fun hother => ?_⟩
  rw [writeEntries_startDue judge (hwrite.startDue hother)] at hdue
  exact Bool.false_ne_true hdue

/-- A WRITE of one to four whole entries: they are taken in order, a start is judged where one of them makes it due, and the
reply follows (R143, R166, R171). -/
theorem exec_write_entries {first n : Byte} {entries : List (List Byte)}
    (hhead : s.hasHead source 3 tag (table :: first :: n :: entries.flatten) rest) (hn : n.toNat = entries.length)
    (hpos : 1 ≤ n.toNat) (hmax : n.toNat ≤ 4) (hsize : ∀ e ∈ entries, e.length = size) :
    Leads (exec i s) fun t => ∃ j ls,
      ((writeEntries judge first.toNat entries s).startDue = true →
        (writeEntries judge first.toNat entries s).state.startJudged j ls) ∧
      ((writeEntries judge first.toNat entries s).startDue = false →
        j = (writeEntries judge first.toNat entries s).state ∧ ls = []) ∧
      j.settledWith t source rest
        ([3, tag, (writeAnswer (writeEntries judge first.toNat entries s).statuses).status.code,
          (writeAnswer (writeEntries judge first.toNat entries s).statuses).reason.code] ++
            (writeAnswer (writeEntries judge first.toNat entries s).statuses).data) [ls] := by
  have hmgmt : (writeEntries judge first.toNat entries s).state.mgmt = s.mgmt :=
    congrArg (fun b => b.2.2.1) (writeEntries_beside hwrite first.toNat entries)
  obtain ⟨hdue, hquiet⟩ := ended_judged (writeEntries judge first.toNat entries s)
  refine ⟨_, hwrite.exec_eq s, _, _, hdue, fun h => Prod.ext_iff.mp (hquiet h), ?_⟩
  exact writeStep_settledWith hhead (writeIsFor_own table _) (writeForm_entries hn hpos hmax hsize) hmgmt

theorem exec_write_malformed {args : List Byte} (hhead : s.hasHead source 3 tag args rest)
    (hfor : writeIsFor table args = true) (hform : writeForm table size args = none) :
    exec i s = .next (s.answered source rest [3, tag, 5, 0]) :=
  (hwrite.exec_eq s).trans (writeStep_malformed judge hhead hfor hform)

theorem exec_write_short {args : List Byte} (hhead : s.hasHead source 3 tag args rest) (hlen : args.length < 3)
    (htable : args = [] ∨ args.head? = some table) : exec i s = .next (s.answered source rest [3, tag, 5, 0]) := by
  refine exec_write_malformed hwrite hhead ?_ (writeForm_short hlen)
  rcases htable with rfl | htable
  · rfl
  · obtain ⟨bytes, rfl⟩ := List.head?_eq_some_iff.mp htable
    exact writeIsFor_own table bytes

theorem exec_write_unwritable {t : Byte} {bytes : List Byte} (hhead : s.hasHead source 3 tag (t :: bytes) rest)
    (ht : t ∉ writableTables) : exec i s = .next (s.answered source rest [3, tag, 5, 0]) := by
  refine exec_write_malformed hwrite hhead (writeIsFor_unwritable ht) (writeForm_other ?_)
  rintro rfl
  exact ht hwrite.writable

/-- An entry to an index beyond the table changes nothing (R169). -/
theorem exec_write_beyond {first : Byte} {bytes : List Byte}
    (hhead : s.hasHead source 3 tag (table :: first :: 1 :: bytes) rest) (hlen : bytes.length = size)
    (hindex : range ≤ first.toNat) : exec i s = .next (s.answered source rest [3, tag, 2, 1, 2, 0]) :=
  (hwrite.exec_eq s).trans (writeStep_quiet size judge hhead hlen (hwrite.beyond _ bytes s hindex) rfl)

end Write

/-! ### The reply from the entry statuses (R168, R171) -/

theorem entryAccepted_iff (st : EntryStatus) : st.accepted = true ↔ st = .ok ∨ st = .clamped := by
  cases st <;> simp [EntryStatus.accepted]

theorem entryNotAccepted_iff (st : EntryStatus) : st.accepted = false ↔ st ≠ .ok ∧ st ≠ .clamped := by
  rw [← Bool.not_eq_true, entryAccepted_iff, not_or]

theorem writeAnswer_data (sts : List EntryStatus) :
    (writeAnswer sts).data = sts.flatMap (fun st => match st with
      | .ok => [0, 0]
      | .clamped => [1, 0]
      | .outOfRange => [2, 0]
      | .refused r => [3, r.code]) := by
  refine congrArg (fun f => sts.flatMap f) (funext fun st => ?_)
  cases st <;> rfl

theorem writeAnswer_ok {sts : List EntryStatus} (hne : sts ≠ []) (h : ∀ st ∈ sts, st.accepted = true) :
    (writeAnswer sts).status = .ok ∧ (writeAnswer sts).reason = .none := by
  have hall : sts.all EntryStatus.accepted = true := List.all_eq_true.mpr h
  obtain ⟨st, hst⟩ := List.exists_mem_of_ne_nil sts hne
  have hany : sts.any EntryStatus.accepted = true := List.any_eq_true.mpr ⟨st, hst, h st hst⟩
  simp only [writeAnswer, hall, hany, if_true, and_self]

theorem writeAnswer_partial {sts : List EntryStatus} (hsome : ∃ st ∈ sts, st.accepted = true)
    (hother : ∃ st ∈ sts, st.accepted = false) :
    (writeAnswer sts).status = .part ∧ (writeAnswer sts).reason = .none := by
  have hall : sts.all EntryStatus.accepted = false := List.all_eq_false.mpr (by simpa using hother)
  have hany : sts.any EntryStatus.accepted = true := List.any_eq_true.mpr hsome
  simp only [writeAnswer, hall, hany, Bool.false_eq_true, if_true, if_false, and_self]

theorem writeAnswer_refused {sts : List EntryStatus} (hne : sts ≠ []) (h : ∀ st ∈ sts, st.accepted = false) :
    (writeAnswer sts).status = .refused ∧ (writeAnswer sts).reason = firstReason sts := by
  obtain ⟨st, hst⟩ := List.exists_mem_of_ne_nil sts hne
  have hall : sts.all EntryStatus.accepted = false := List.all_eq_false.mpr ⟨st, hst, by simp [h st hst]⟩
  have hany : sts.any EntryStatus.accepted = false := List.any_eq_false.mpr fun st hst => by simp [h st hst]
  simp only [writeAnswer, hall, hany, Bool.false_eq_true, if_false, and_self]

/-- Entries that are out of range are passed over in the search for a reason. -/
theorem firstReason_replicate (n : Nat) (sts : List EntryStatus) :
    firstReason (List.replicate n .outOfRange ++ sts) = firstReason sts := by
  induction n with
  | zero => rfl
  | succ n ih => rw [List.replicate_succ, List.cons_append, firstReason, ih]; simp

theorem firstReason_outOfRange {sts : List EntryStatus} (h : ∀ st ∈ sts, st = .outOfRange) :
    firstReason sts = .outOfRange := by
  have hsts : sts = List.replicate sts.length .outOfRange ++ [] := by
    rw [List.append_nil]
    exact List.eq_replicate_of_mem h
  rw [hsts, firstReason_replicate]
  rfl

theorem writeAnswer_refused_reason {sts : List EntryStatus} (hne : sts ≠ []) (h : ∀ st ∈ sts, st ≠ .ok ∧ st ≠ .clamped) :
    (writeAnswer sts).status.code = 2 ∧
      ((∀ st ∈ sts, st = .outOfRange) → (writeAnswer sts).reason.code = 1) ∧
      (∀ (n : Nat) (r : Reason) (post : List EntryStatus), sts = List.replicate n .outOfRange ++ .refused r :: post →
        (writeAnswer sts).reason = r) := by
  obtain ⟨hstatus, hreason⟩ := writeAnswer_refused hne fun st hst => (entryNotAccepted_iff st).mpr (h st hst)
  rw [hstatus, hreason]
  refine ⟨rfl, fun hout => ?_, fun n r post hsts => ?_⟩
  · rw [firstReason_outOfRange hout]
    rfl
  · rw [hsts, firstReason_replicate]
    rfl

/-- Settles O13: each table's WRITE by its form, with its entries by their judge; and the reply by which entries are
accepted. -/
theorem writeReplyFollowsEntryStatuses : Obligations.WriteReplyFollowsEntryStatuses := by
  refine ⟨fun p hp => ?_, fun _ _ _ => rfl, fun _ _ _ _ _ => rfl, judgeVehicle_startDue, fun sts hne =>
    ⟨writeAnswer_data sts, fun h => ?_, fun hsome hother => ?_, writeAnswer_refused_reason hne, rfl⟩⟩
  · have hwrite : IsWriteOf p.1 p.2.1 p.2.2.1 p.2.2.2.1 p.2.2.2.2 := by
      simp only [List.mem_cons, List.not_mem_nil, or_false] at hp
      obtain rfl | rfl | rfl | rfl := hp
      · exact isWriteOf_vehicle
      · exact isWriteOf_binding
      · exact isWriteOf_zone
      · exact isWriteOf_limits
    exact ⟨fun _ _ first _ entries _ _ hhead hn hpos hmax hsize =>
        ⟨exec_write_entries hwrite hhead hn hpos hmax hsize, writeEntries_leave hwrite first.toNat entries⟩,
      fun _ _ _ _ _ _ _ hhead h => exec_write_malformed hwrite hhead (writeIsFor_own _ _) (writeForm_counts h),
      fun _ _ _ _ _ hhead hlen htable => exec_write_short hwrite hhead hlen htable,
      fun _ _ _ _ _ _ hhead ht => exec_write_unwritable hwrite hhead ht,
      fun _ _ _ _ _ _ hhead hlen hindex => exec_write_beyond hwrite hhead hlen hindex⟩
  · obtain ⟨hstatus, hreason⟩ := writeAnswer_ok hne fun st hst => (entryAccepted_iff st).mpr (h st hst)
    rw [hstatus, hreason]
    exact ⟨rfl, rfl⟩
  · simp only [← entryAccepted_iff] at hsome
    simp only [← entryNotAccepted_iff] at hother
    obtain ⟨hstatus, hreason⟩ := writeAnswer_partial hsome hother
    rw [hstatus, hreason]
    exact ⟨rfl, rfl⟩

end Sys2Proof.Machine

/-! SUPPORT. One latch in the Fault Unit and its alert (R151 to R155), FAULT_READ (R157) and FAULT_CLEAR (R158). -/

namespace Sys2Proof.Machine

/-! ### One latch (R153, R154) -/

theorem passes_iff (filter : CaptureFilter) (k : FaultClass) :
    filter.passes k = true ↔ filter = .all ∨ k.severe = true := by
  cases filter <;> simp [CaptureFilter.passes]

section Take

variable {u : FaultUnit} {filter : CaptureFilter} {l : Latch}

/-- An unlocked record captures a class that passes the filter (R154). -/
theorem take_captured (hu : u.record = none) (hp : filter.passes l.cls = true) :
    (u.take filter l).record = some ⟨l, u.time⟩ ∧ (u.take filter l).multiple = u.multiple := by
  simp [FaultUnit.take, hu, hp]

/-- An unlocked record stays blank at a class that the filter holds back (R154). -/
theorem take_filtered (hu : u.record = none) (hp : filter.passes l.cls = false) :
    (u.take filter l).record = none ∧ (u.take filter l).multiple = u.multiple := by
  simp [FaultUnit.take, hu, hp]

/-- A locked record is kept, and the multiple flag becomes set (R154). -/
theorem take_locked {r : FaultRecord} (hu : u.record = some r) :
    (u.take filter l).record = some r ∧ (u.take filter l).multiple = true := by
  simp [FaultUnit.take, hu]

end Take

theorem severe_iff (k : FaultClass) :
    k.severe = true ↔
      k ∈ [FaultClass.vehicleLost, .trailMiss, .channelUnlock, .selftestFail, .supplyLow, .estop] := by
  cases k <;> decide

/-! ### The alert of a latch (R153, R155) -/

theorem alertDue_iff (s : State) (k : FaultClass) :
    s.alertDue k = true ↔
      s.fault.flag k = false ∧ s.limits.alertEnable.getLsbD k.number.val = true ∧ s.limits.alertNode ≠ 0 := by
  simp [State.alertDue, and_assoc]

theorem alertFrame_eq (s : State) (l : Latch) :
    s.alertFrame l =
      { destination := BitVec.ofNat 8 s.limits.alertNode, source := s.link.address, cls := 5
        payload := [BitVec.ofNat 8 l.cls.number.val] ++ l.subject.bytes ++
          [BitVec.ofNat 8 ((s.fault.take s.limits.filter l).summary.toNat / 256),
            BitVec.ofNat 8 (s.fault.take s.limits.filter l).summary.toNat] } := by
  rw [← summaryBytes_eq]
  rfl

/-- Settles O45: the record by whether it is locked and by the filter, the alert by its three conditions, and the codes. -/
theorem latchIsCapturedAndAlerted : Obligations.LatchIsCapturedAndAlerted := by
  refine ⟨fun u filter l => ⟨take_flag u filter l, fun hu hp => take_captured hu ((passes_iff _ _).mpr hp),
      fun hu hfilter hmild => take_filtered hu ?_, fun r hu => take_locked hu, rfl, severe_iff⟩,
    fun s l => ⟨alertDue_iff s l.cls, alertFrame_eq s l⟩, rfl, fun _ _ => rfl, rfl, fun _ => rfl, fun _ => rfl, fun _ => rfl,
    fun _ => rfl, fun _ => rfl, rfl⟩
  subst hfilter
  exact hmild

/-! ### FAULT_READ (R157, R179) -/

theorem readData_blank {u : FaultUnit} (hu : u.record = none) :
    u.readData =
      [BitVec.ofNat 8 (u.summary.toNat / 256), BitVec.ofNat 8 u.summary.toNat] ++ [0, 0, 0, 0, 255, 255, 0, 0] ++
        [if u.multiple then 1 else 0, BitVec.ofNat 8 (u.time.toNat / 256), BitVec.ofNat 8 u.time.toNat] := by
  simp only [FaultUnit.readData, hu, summaryBytes_eq, twoBytes_eq, flagByte, List.append_assoc, List.singleton_append]

theorem readData_locked {u : FaultUnit} {r : FaultRecord} (hu : u.record = some r) :
    u.readData =
      [BitVec.ofNat 8 (u.summary.toNat / 256), BitVec.ofNat 8 u.summary.toNat] ++
        ([1, BitVec.ofNat 8 r.latch.cls.number.val] ++ r.latch.subject.bytes ++ segmentBytes r.latch.segment ++
          [BitVec.ofNat 8 (r.time.toNat / 256), BitVec.ofNat 8 r.time.toNat]) ++
        [if u.multiple then 1 else 0, BitVec.ofNat 8 (u.time.toNat / 256), BitVec.ofNat 8 u.time.toNat] := by
  simp only [FaultUnit.readData, hu, summaryBytes_eq, twoBytes_eq, flagByte, byteOf, List.append_assoc,
    List.singleton_append]

/-! ### FAULT_CLEAR (R158) -/

/-- A two-byte set of classes names no number above 13 where it is below 2 to the 14. -/
theorem setNamesNoClass_iff (high low : Byte) :
    ((halfOf high low).getLsbD 14 || (halfOf high low).getLsbD 15) = true ↔ 64 ≤ high.toNat := by
  have hhigh := high.isLt
  have hlow := low.isLt
  rw [halfOf_bit _ _ _ (by decide), halfOf_bit _ _ _ (by decide), ← not_iff_not, Bool.not_eq_true, Bool.or_eq_false_iff,
    Nat.not_le]
  refine ⟨fun ⟨h14, h15⟩ => ?_, fun h => ?_⟩
  · have hset : high.toNat * 256 + low.toNat < 2 ^ 14 := by
      refine Nat.lt_pow_two_of_testBit _ fun i hi => ?_
      obtain rfl | rfl | hi : i = 14 ∨ i = 15 ∨ 16 ≤ i := by omega
      · exact h14
      · exact h15
      · exact Nat.testBit_lt_two_pow ((by omega : _ < 2 ^ 16).trans_le (Nat.pow_le_pow_right (by decide) hi))
    omega
  · exact ⟨Nat.testBit_lt_two_pow (by omega), Nat.testBit_lt_two_pow (by omega)⟩

/-- The classes of a set are those whose bit is in its two bytes (R178). -/
theorem classSet_bit (high low : Byte) (k : FaultClass) :
    ((halfOf high low).setWidth 14).getLsbD k.number.val = (high.toNat * 256 + low.toNat).testBit k.number.val := by
  have hk := k.number.isLt
  rw [BitVec.getLsbD_setWidth, halfOf_bit _ _ _ (by omega), decide_eq_true hk, Bool.true_and]

section Clear

variable (u : FaultUnit) (classes : BitVec 14)

theorem clear_flag (k : FaultClass) : (u.clear classes).flag k = (u.flag k && !classes.getLsbD k.number.val) := by
  have hk := k.number.isLt
  simp [FaultUnit.clear, FaultUnit.flag, hk]

theorem clear_blank (hu : u.record = none) :
    (u.clear classes).record = none ∧ (u.clear classes).multiple = u.multiple := by
  simp [FaultUnit.clear, hu]

/-- A record of a class in the set is unlocked, and the multiple flag goes with it. -/
theorem clear_named {r : FaultRecord} (hu : u.record = some r) (hr : classes.getLsbD r.latch.cls.number.val = true) :
    (u.clear classes).record = none ∧ (u.clear classes).multiple = false := by
  simp [FaultUnit.clear, hu, hr]

/-- A record of a class outside the set is kept, and the multiple flag with it. -/
theorem clear_unnamed {r : FaultRecord} (hu : u.record = some r)
    (hr : classes.getLsbD r.latch.cls.number.val = false) :
    (u.clear classes).record = some r ∧ (u.clear classes).multiple = u.multiple := by
  simp only [FaultUnit.clear, hu, hr, Bool.false_eq_true, if_false, and_self]

end Clear

section Commands

variable {source tag : Byte} {rest : List MgmtEntry} {s : State}

theorem exec_faultRead (hhead : s.hasHead source 48 tag [] rest) :
    exec .faultRead s = .next (s.answered source rest ([48, tag, 0, 0] ++ s.fault.readData)) :=
  next_ok hhead runFaultRead rfl rfl

theorem exec_faultClear_refused {high low : Byte} (hhead : s.hasHead source 49 tag [high, low] rest)
    (hset : 64 ≤ high.toNat) : exec .faultClear s = .next (s.answered source rest [49, tag, 2, 7]) :=
  next_refused hhead runFaultClear .badValue (if_pos ((setNamesNoClass_iff high low).mpr hset))

theorem exec_faultClear {high low : Byte} (hhead : s.hasHead source 49 tag [high, low] rest) (hset : high.toNat < 64) :
    exec .faultClear s =
      .next (State.answered { s with fault := s.fault.clear ((halfOf high low).setWidth 14) } source rest [49, tag, 0, 0]) :=
  next_ok hhead runFaultClear (if_neg fun h => Nat.not_le.mpr hset ((setNamesNoClass_iff high low).mp h)) rfl

end Commands

/-- Settles O14: FAULT_READ by whether the record is locked; FAULT_CLEAR by whether the set is one of classes, and then by
whether it names the record's class. -/
theorem faultReadAndClear : Obligations.FaultReadAndClear := by
  refine ⟨fun source tag rest s hhead => ?_, fun source tag high low rest s hhead =>
    ⟨exec_faultClear_refused hhead, fun hset => ⟨_, exec_faultClear hhead hset, rfl, fun k => ?_, rfl, clear_blank _ _,
      fun r hr => ?_⟩⟩⟩
  · rw [exec_faultRead hhead]
    cases hrecord : s.fault.record with
    | none => rw [readData_blank hrecord]; rfl
    | some r => rw [readData_locked hrecord, segmentBytes_eq]; rfl
  · rw [← classSet_bit]
    exact clear_flag _ _ k
  · rw [← classSet_bit]
    split
    · rename_i hnamed
      exact clear_named _ _ hr hnamed
    · rename_i hother
      exact clear_unnamed _ _ hr (Bool.eq_false_iff.mpr hother)

end Sys2Proof.Machine

/-! SUPPORT. Which operations leave the Fault Unit alone. -/

namespace Sys2Proof.Machine

/-! ### Blocks of the router (R16, R27, R94, R144) -/

@[simp] theorem answerInFlight_fault (s : State) (code : Byte) (a : Answer) :
    (s.answerInFlight code a).state.fault = s.fault := by
  unfold State.answerInFlight
  split
  · split <;> rfl
  · rfl

theorem answerRestart_fault (s : State) (c : Channel) (status : ReplyStatus) :
    (s.answerRestart c status).state.fault = s.fault := by
  unfold State.answerRestart
  split
  · exact answerInFlight_fault s _ _
  · rfl

theorem fault_of_polls {s t : State} (h : OnlyPolls s t) : t.fault = s.fault := by
  rw [h.1]

@[simp] theorem pollReport_fault (s : State) (c : Channel) (replies : List Byte) (garbled : Bool) :
    (s.pollReport c replies garbled).1.fault = s.fault := by
  rw [(pollReport_spec s c replies garbled).1.1]

theorem loseMembers_fault (s : State) (lost : List VehicleId) : (s.loseMembers lost).fault = s.fault := by
  obtain ⟨n, ks, h, -⟩ := loseMembers_spec s lost
  rw [h]

@[simp] theorem vehiclesLoseChannel_fault (s : State) (c : Channel) (leaves : Bool) :
    (s.vehiclesLoseChannel c leaves).fault = s.fault := by
  rw [vehiclesLoseChannel_frame]

@[simp] theorem endVehicleSlot_fault (s : State) (f : Option SlotFlight) : (s.endVehicleSlot f).fault = s.fault := by
  rw [endVehicleSlot_frame]

/-! ### Channel events -/

/-- What the end of a channel's service latches is left to the end of the event (R27). -/
theorem leaveServing_fault (s : State) (c : Channel) (old : ChannelUnit) : (s.leaveServing c old).state.fault = s.fault := by
  rw [leaveServing_eq s _ c old rfl]
  dsimp only
  split <;> split <;> simp

theorem lockReport_fault (s : State) (c : Channel) : (s.lockReport c).fault = s.fault := by
  unfold State.lockReport
  split <;> rfl

theorem enterFailed_fault (s : State) (c : Channel) (u : ChannelUnit) (ls : List Latch) :
    ((s.setChannel c u).enterFailed c ls).state.fault = s.fault :=
  answerRestart_fault (s.setChannel c u) c .failed

theorem passTest_fault (s : State) (c : Channel) : (s.passTest c).state.fault = s.fault :=
  answerRestart_fault ((s.setChannel c _).beginCycle c 0) c .ok

theorem lockLostInTest_fault (s : State) (c : Channel) (returned : List Byte) :
    (s.lockLostInTest c returned).state.fault = s.fault := by
  have hpick : (s.pick 8).2.fault = s.fault := by rw [pick_state]
  unfold State.lockLostInTest
  dsimp only
  split
  · exact enterFailed_fault s c _ _
  · split
    · exact enterFailed_fault s c _ _
    · exact (enterFailed_fault _ c _ _).trans hpick

theorem lockLostReport_fault (s : State) (c : Channel) (returned : List Byte) :
    (s.lockLostReport c returned).state.fault = s.fault := by
  unfold State.lockLostReport
  split
  · exact leaveServing_fault (s.setChannel c _) c _
  · exact lockLostInTest_fault s c returned
  all_goals rfl

theorem restartChannel_fault (s : State) (c : Channel) : (s.restartChannel c).state.fault = s.fault := by
  unfold State.restartChannel
  dsimp only
  split
  · exact leaveServing_fault ((s.enterLocking c).setChannel c _) c _
  · dsimp only
    rw [vehiclesLoseChannel_fault]
    rfl

/-! ### Acks and misses -/

theorem validAck_fault (s : State) (v : VehicleId) (a : Ack) : (s.validAck v a).state.fault = s.fault := by
  unfold State.validAck
  dsimp only
  rw [(couplerAck_spec _ v _).1.1, (laneAck_spec _ v).1, (convoyAck_spec _ v _).1]
  rfl

theorem miss_fault (s : State) (v : VehicleId) : (s.miss v).state.fault = s.fault := by
  unfold State.miss
  dsimp only
  split
  · dsimp only
    rw [loseMembers_fault]
    rfl
  · rfl

theorem slotOutcome_fault (s : State) (v : VehicleId) (ack : Option Ack) : (s.slotOutcome v ack).state.fault = s.fault := by
  unfold State.slotOutcome
  split
  · split
    · exact validAck_fault s v _
    · exact miss_fault s v
  · rfl

/-! ### Commands answered at once -/

/-- The command's own effect leaves the Fault Unit alone: what it latches, if anything, is taken at the end of the event. -/
def LeavesFault (run : List Byte → State → Done) : Prop := ∀ args s, (run args s).state.fault = s.fault

theorem runNop_leavesFault : LeavesFault runNop := fun args s => by rw [(runNop_state args s).1]

theorem runStatus_leavesFault : LeavesFault runStatus := fun args s => by
  unfold runStatus
  split <;> rfl

theorem runRead_leavesFault : LeavesFault runRead := fun args s => by
  unfold runRead
  split <;> rfl

theorem runFaultRead_leavesFault : LeavesFault runFaultRead := fun args s => by
  unfold runFaultRead
  split <;> rfl

theorem runStopAll_leavesFault : LeavesFault runStopAll := fun args s => by
  unfold runStopAll
  split <;> rfl

theorem runRestart_leavesFault : LeavesFault runRestart := fun args s => by
  unfold runRestart
  split <;> rfl

theorem removeMember_fault (s : State) (c : ConvoyId) (v : VehicleId) : (s.removeMember c v).fault = s.fault := by
  unfold State.removeMember
  dsimp only
  split <;> rfl

theorem runConvoyForm_leavesFault : LeavesFault runConvoyForm := fun args s => by
  unfold runConvoyForm
  repeat' split
  all_goals rfl

theorem runConvoyAdd_leavesFault : LeavesFault runConvoyAdd := fun args s => by
  unfold runConvoyAdd
  dsimp only
  repeat' split
  all_goals rfl

theorem runConvoyRemove_leavesFault : LeavesFault runConvoyRemove := fun args s => by
  unfold runConvoyRemove
  dsimp only
  repeat' split
  any_goals rfl
  exact removeMember_fault s _ _

theorem runConvoyHold_leavesFault : LeavesFault runConvoyHold := fun args s => by
  unfold runConvoyHold
  repeat' split
  all_goals rfl

theorem runConvoyResume_leavesFault : LeavesFault runConvoyResume := fun args s => by
  unfold runConvoyResume
  repeat' split
  all_goals rfl

theorem runConvoyDisband_leavesFault : LeavesFault runConvoyDisband := fun args s => by
  unfold runConvoyDisband
  repeat' split
  all_goals rfl

theorem runZoneRelease_leavesFault : LeavesFault runZoneRelease := fun args s => by
  unfold runZoneRelease
  repeat' split
  all_goals rfl

/-- A decision on an attachment, and the start that it makes due (R148, R143). -/
theorem runDecision_leavesFault {decide : VehicleId → VehicleId → State → State}
    (h : ∀ x w s, (decide x w s).fault = s.fault) : LeavesFault (runDecision decide) := fun args s => by
  unfold runDecision
  dsimp only
  repeat' split
  any_goals rfl
  exact (fault_of_polls (judgeStart_spec _).1).trans (h _ _ s)

end Sys2Proof.Machine

/-! SUPPORT. Every step but a power-on reset, FAULT_CLEAR and the tick changes the Fault Unit by latches alone (R151), and
every step keeps the Fault Unit sound (R153, R154, R158). -/

namespace Sys2Proof.Machine

/-! ### Soundness of the Fault Unit -/

/-- A latch locks the record with its class's flag set, and sets the multiple flag only where the record is locked. -/
theorem sound_take {u : FaultUnit} (hu : u.sound) (filter : CaptureFilter) (l : Latch) : (u.take filter l).sound := by
  obtain ⟨hmultiple, hflag⟩ := hu
  cases hrecord : u.record with
  | some r =>
    obtain ⟨hkept, -⟩ := take_locked (filter := filter) (l := l) hrecord
    refine ⟨fun _ => by rw [hkept]; rfl, fun q hq => ?_⟩
    obtain rfl := Option.some.inj (hkept.symm.trans hq)
    rw [take_flag, hflag r hrecord, Bool.true_or]
  | none =>
    have hsingle : u.multiple = false := Bool.eq_false_iff.mpr fun h => by simpa [hrecord] using hmultiple h
    cases hp : filter.passes l.cls with
    | true =>
      obtain ⟨hcaptured, -⟩ := take_captured hrecord hp
      refine ⟨fun _ => by rw [hcaptured]; rfl, fun q hq => ?_⟩
      obtain rfl := Option.some.inj (hcaptured.symm.trans hq)
      rw [take_flag, decide_eq_true rfl, Bool.or_true]
    | false =>
      obtain ⟨hblank, hkept⟩ := take_filtered hrecord hp
      exact ⟨fun h => by simp [hkept, hsingle] at h, fun q hq => by simp [hblank] at hq⟩

theorem sound_takeAll (filter : CaptureFilter) (ls : List Latch) {u : FaultUnit} (hu : u.sound) :
    (ls.foldl (fun u l => u.take filter l) u).sound := by
  induction ls generalizing u with
  | nil => exact hu
  | cons l ls ih => exact ih (sound_take hu filter l)

/-- A record that a clear leaves locked is of a class whose flag it leaves set. -/
theorem sound_clear {u : FaultUnit} (hu : u.sound) (classes : BitVec 14) : (u.clear classes).sound := by
  obtain ⟨hmultiple, hflag⟩ := hu
  cases hrecord : u.record with
  | none =>
    obtain ⟨hblank, hkept⟩ := clear_blank u classes hrecord
    exact ⟨fun h => by simpa [hrecord] using hmultiple (hkept ▸ h), fun q hq => by simp [hblank] at hq⟩
  | some r =>
    cases hnamed : classes.getLsbD r.latch.cls.number.val with
    | true =>
      obtain ⟨hblank, hsingle⟩ := clear_named u classes hrecord hnamed
      exact ⟨fun h => by simp [hsingle] at h, fun q hq => by simp [hblank] at hq⟩
    | false =>
      obtain ⟨hkept, -⟩ := clear_unnamed u classes hrecord hnamed
      refine ⟨fun _ => by rw [hkept]; rfl, fun q hq => ?_⟩
      obtain rfl := Option.some.inj (hkept.symm.trans hq)
      rw [clear_flag, hflag r hrecord, hnamed]
      rfl

theorem sound_blank : FaultUnit.blank.sound := by simp [FaultUnit.sound, FaultUnit.blank]

/-! ### Events that only latch -/

/-- The second state's Fault Unit is that of the first after some latches, or none. -/
def State.TakesLatches (s t : State) : Prop :=
  ∃ (filter : CaptureFilter) (ls : List Latch), t.fault = ls.foldl (fun u l => u.take filter l) s.fault

theorem State.TakesLatches.sound {s t : State} (h : s.TakesLatches t) (hs : s.fault.sound) : t.fault.sound := by
  obtain ⟨filter, ls, ht⟩ := h
  exact ht ▸ sound_takeAll filter ls hs

theorem takesLatches_of_fault {s t : State} (h : t.fault = s.fault) : s.TakesLatches t := ⟨.all, [], h⟩

theorem takesLatches_settle {s : State} {w : Work} (h : w.state.fault = s.fault) : s.TakesLatches w.settle := by
  obtain ⟨ls, -, hw⟩ := settle_fault w
  exact ⟨_, ls, h ▸ hw⟩

/-- The outcome is a state that differs in the Fault Unit by latches alone. -/
def State.OnlyLatches (s : State) (o : Result) : Prop := Leads o s.TakesLatches

section Commands

variable {s : State}

theorem onlyLatches_next {t : State} (h : s.TakesLatches t) : s.OnlyLatches (.next t) := leads_next h

theorem onlyLatches_same {t : State} (h : t.fault = s.fault := by rfl) : s.OnlyLatches (.next t) :=
  onlyLatches_next (takesLatches_of_fault h)

theorem onlyLatches_refl : s.OnlyLatches (.next s) := onlyLatches_same

theorem onlyLatches_settle {w : Work} (h : w.state.fault = s.fault := by rfl) : s.OnlyLatches (.next w.settle) :=
  onlyLatches_next (takesLatches_settle h)

theorem onlyLatches_atOnce {code : Byte} {run : List Byte → State → Done}
    (h : LeavesFault run) : s.OnlyLatches (.next (atOnce code run s)) := by
  unfold atOnce
  split
  · exact onlyLatches_settle (h _ s)
  · exact onlyLatches_refl

/-! ### Link frames -/

theorem unbound_takesLatches (source : Byte) (group : Nat) (cls : Byte) : s.TakesLatches (s.unbound source group cls) := by
  unfold State.unbound
  split
  · exact takesLatches_of_fault rfl
  · exact takesLatches_settle (by rw [offerFrame_eq])

theorem receiveDrive_takesLatches (destination source : Byte) (payload : List Byte) :
    s.TakesLatches (s.receiveDrive destination source payload) := by
  unfold State.receiveDrive
  split
  · split
    · split
      · exact takesLatches_of_fault rfl
      · exact unbound_takesLatches _ _ _
    · exact takesLatches_of_fault rfl
  · exact takesLatches_of_fault rfl

theorem receiveAux_takesLatches (destination source : Byte) (payload : List Byte) :
    s.TakesLatches (s.receiveAux destination source payload) := by
  unfold State.receiveAux
  split
  · split
    · split
      · exact takesLatches_of_fault rfl
      · exact unbound_takesLatches _ _ _
    · exact takesLatches_of_fault rfl
  · exact takesLatches_of_fault rfl

theorem receiveMgmt_fault (destination source : Byte) (payload : List Byte) :
    (s.receiveMgmt destination source payload).fault = s.fault := by
  unfold State.receiveMgmt
  dsimp only
  repeat' split
  any_goals rfl
  rw [offerFrame_eq]

/-- A frame received on the link, whatever its class (R50, R162, R163). -/
theorem linkFrame_onlyLatches (header : LinkHeader) (payload : List Byte) (check : Half) :
    s.OnlyLatches (execDrive header payload check s) ∧ s.OnlyLatches (execAux header payload check s) ∧
      s.OnlyLatches (execMgmt header payload check s) := by
  unfold execDrive execAux execMgmt
  refine ⟨?drive, ?aux, ?mgmt⟩
  case drive =>
    split
    · exact onlyLatches_next (receiveDrive_takesLatches _ _ _)
    · exact onlyLatches_refl
  case aux =>
    split
    · exact onlyLatches_next (receiveAux_takesLatches _ _ _)
    · exact onlyLatches_refl
  case mgmt =>
    split
    · exact onlyLatches_same (receiveMgmt_fault _ _ _)
    · exact onlyLatches_refl

theorem frameCheckFailure_onlyLatches (bytes : List Byte) : s.OnlyLatches (execFrameCheckFailure bytes s) := by
  unfold execFrameCheckFailure
  split
  · exact onlyLatches_settle
  · exact onlyLatches_refl

theorem outputFrameSend_onlyLatches : s.OnlyLatches (execOutputFrameSend s) := by
  unfold execOutputFrameSend
  split <;> exact onlyLatches_same

/-! ### Management commands -/

theorem unknownCommand_onlyLatches : s.OnlyLatches (execUnknownCommand s) := by
  unfold execUnknownCommand
  repeat' split
  any_goals exact onlyLatches_refl
  all_goals exact onlyLatches_settle

/-- A WRITE's entries latch nothing, and the start judged at its end latches with the event (R143, R171). -/
theorem write_onlyLatches {i : Instr} {table : Byte} {size range : Nat} {judge : EntryJudge}
    (hwrite : IsWriteOf i table size range judge) : s.OnlyLatches (exec i s) := by
  have hrun (args : List Byte) : (runWrite table size judge args s).state.fault = s.fault := by
    unfold runWrite
    split
    · obtain ⟨hfault, -⟩ := writeEntries_leave hwrite (s := s) _ _
      exact (fault_of_polls (ended_spec _).1).trans hfault
    · rfl
  rw [hwrite.exec_eq]
  unfold writeStep
  repeat' split
  any_goals exact onlyLatches_refl
  exact onlyLatches_settle (hrun _)

theorem directSend_onlyLatches : s.OnlyLatches (execDirectSend s) := by
  unfold execDirectSend
  split
  · split
    · split
      · exact onlyLatches_same
      · exact onlyLatches_settle
    · exact onlyLatches_settle
  · exact onlyLatches_refl

theorem channelRestart_onlyLatches : s.OnlyLatches (execChannelRestart s) := by
  unfold execChannelRestart
  split
  · split
    · split
      · exact onlyLatches_settle (restartChannel_fault s.headGoesInFlight _)
      · exact onlyLatches_settle
    · exact onlyLatches_settle
  · exact onlyLatches_refl

/-! ### Channel events and slots -/

/-- The limits of lock and relock (R23, R26). -/
theorem limits_onlyLatch (c : Channel) :
    s.OnlyLatches (execLockLimitExpiry c s) ∧ s.OnlyLatches (execRelockLimitExpiry c s) := by
  unfold execLockLimitExpiry execRelockLimitExpiry
  constructor
  all_goals
    dsimp only
    split
    · exact onlyLatches_settle (enterFailed_fault s c _ _)
    · exact onlyLatches_refl

theorem loopbackWindowEnd_onlyLatches (c : Channel) (returned : List Byte) :
    s.OnlyLatches (execLoopbackWindowEnd c returned s) := by
  unfold execLoopbackWindowEnd
  dsimp only
  repeat' split
  · exact onlyLatches_settle (enterFailed_fault s c _ _)
  · exact onlyLatches_settle (passTest_fault s c)
  · exact onlyLatches_same
  · exact onlyLatches_refl

theorem cycleStart_onlyLatches (c : Channel) : s.OnlyLatches (execCycleStart c s) := by
  unfold execCycleStart
  dsimp only
  split <;> exact onlyLatches_same

theorem frameBuild_onlyLatches (c : Channel) (slot : SlotNo) : s.OnlyLatches (execFrameBuild c slot s) := by
  unfold execFrameBuild
  dsimp only
  split
  · split <;> exact onlyLatches_same
  · exact onlyLatches_refl

theorem radioFrameReceive_onlyLatches (c : Channel) (bytes : List Byte) :
    s.OnlyLatches (execRadioFrameReceive c bytes s) := by
  unfold execRadioFrameReceive
  split <;> exact onlyLatches_same

theorem responseWindowEnd_onlyLatches (c : Channel) : s.OnlyLatches (execResponseWindowEnd c s) := by
  unfold execResponseWindowEnd
  split
  · exact onlyLatches_settle (slotOutcome_fault (s.endSlot c) _ _)
  · exact onlyLatches_refl

theorem housekeepingWindowEnd_onlyLatches (c : Channel) : s.OnlyLatches (execHousekeepingWindowEnd c s) := by
  unfold execHousekeepingWindowEnd
  split
  · split
    · exact onlyLatches_settle (pollReport_fault (s.endSlot c) c _ _)
    · exact onlyLatches_same
  · split
    · exact onlyLatches_settle (answerInFlight_fault (s.endSlot c) _ _)
    · exact onlyLatches_same
  · exact onlyLatches_refl

theorem sendLimitExpiry_onlyLatches (c : Channel) : s.OnlyLatches (execSendLimitExpiry c s) := by
  unfold execSendLimitExpiry
  dsimp only
  split
  · exact onlyLatches_settle (answerInFlight_fault (s.setChannel c _) _ _)
  · exact onlyLatches_refl

/-! ### Timers and inputs -/

theorem silenceExpiry_onlyLatches (b : BindingId) : s.OnlyLatches (execSilenceExpiry b s) := by
  unfold execSilenceExpiry
  dsimp only
  split
  · exact onlyLatches_settle
  · exact onlyLatches_refl

/-- The assertion edges of the two inputs (R55, R156). -/
theorem assertionEdges_onlyLatch :
    s.OnlyLatches (execEstopAssertionEdge s) ∧ s.OnlyLatches (execSupplyMonitorAssertionEdge s) := by
  unfold execEstopAssertionEdge execSupplyMonitorAssertionEdge
  constructor
  all_goals
    split
    · exact onlyLatches_refl
    · exact onlyLatches_settle

end Commands

/-! ### Every command -/

/-- The commands that act on the Fault Unit otherwise than by a latch: resets, FAULT_CLEAR and the tick of its counter. -/
def setsFaultUnit : Instr → Bool
  | .powerOnReset _ | .faultClear | .timeCounterTick => true
  | _ => false

/-- Every other command changes the Fault Unit by latches alone. -/
theorem exec_onlyLatches {i : Instr} (hi : setsFaultUnit i = false) (s : State) : s.OnlyLatches (exec i s) := by
  cases i with
  | powerOnReset | faultClear | timeCounterTick => cases hi
  | frameCheckFailure bytes => exact frameCheckFailure_onlyLatches bytes
  | drive header payload check => exact (linkFrame_onlyLatches header payload check).1
  | aux header payload check => exact (linkFrame_onlyLatches header payload check).2.1
  | mgmt header payload check => exact (linkFrame_onlyLatches header payload check).2.2
  | outputFrameSend => exact outputFrameSend_onlyLatches
  | unknownCommand => exact unknownCommand_onlyLatches
  | nop => exact onlyLatches_atOnce runNop_leavesFault
  | status => exact onlyLatches_atOnce runStatus_leavesFault
  | read => exact onlyLatches_atOnce runRead_leavesFault
  | faultRead => exact onlyLatches_atOnce runFaultRead_leavesFault
  | stopAll => exact onlyLatches_atOnce runStopAll_leavesFault
  | restart => exact onlyLatches_atOnce runRestart_leavesFault
  | vehicleWrite => exact write_onlyLatches isWriteOf_vehicle
  | bindingWrite => exact write_onlyLatches isWriteOf_binding
  | zoneWrite => exact write_onlyLatches isWriteOf_zone
  | limitsWrite => exact write_onlyLatches isWriteOf_limits
  | convoyForm => exact onlyLatches_atOnce runConvoyForm_leavesFault
  | convoyAdd => exact onlyLatches_atOnce runConvoyAdd_leavesFault
  | convoyRemove => exact onlyLatches_atOnce runConvoyRemove_leavesFault
  | convoyHold => exact onlyLatches_atOnce runConvoyHold_leavesFault
  | convoyResume => exact onlyLatches_atOnce runConvoyResume_leavesFault
  | convoyDisband => exact onlyLatches_atOnce runConvoyDisband_leavesFault
  | zoneRelease => exact onlyLatches_atOnce runZoneRelease_leavesFault
  | coupleConfirm | coupleReject => exact onlyLatches_atOnce (runDecision_leavesFault fun _ _ _ => rfl)
  | directSend => exact directSend_onlyLatches
  | channelRestart => exact channelRestart_onlyLatches
  | lockAchieved c | relock c => exact onlyLatches_same (lockReport_fault s c)
  | lockLimitExpiry c => exact (limits_onlyLatch c).1
  | relockLimitExpiry c => exact (limits_onlyLatch c).2
  | loopbackWindowEnd c returned => exact loopbackWindowEnd_onlyLatches c returned
  | lockLost c returned => exact onlyLatches_settle (lockLostReport_fault s c returned)
  | cycleStart c => exact cycleStart_onlyLatches c
  | frameBuild c slot => exact frameBuild_onlyLatches c slot
  | radioFrameReceive c bytes => exact radioFrameReceive_onlyLatches c bytes
  | responseWindowEnd c => exact responseWindowEnd_onlyLatches c
  | housekeepingWindowEnd c => exact housekeepingWindowEnd_onlyLatches c
  | sendLimitExpiry c => exact sendLimitExpiry_onlyLatches c
  | silenceExpiry b => exact silenceExpiry_onlyLatches b
  | estopAssertionEdge => exact assertionEdges_onlyLatch.1
  | supplyMonitorAssertionEdge => exact assertionEdges_onlyLatch.2
  | estopRelease | supplyMonitorRelease => exact onlyLatches_same

/-- FAULT_CLEAR, whatever its arguments, clears a set of classes or leaves the Fault Unit alone (R158). -/
theorem sound_faultClear {s : State} (hs : s.fault.sound) : (atOnce codeFaultClear runFaultClear s).fault.sound := by
  have hrun (args : List Byte) : (runFaultClear args s).state.fault.sound := by
    unfold runFaultClear
    dsimp only
    split
    · split
      · exact hs
      · exact sound_clear hs _
    · exact hs
  unfold atOnce
  split
  · rename_i e args _
    obtain ⟨ls, -, hfault⟩ := settle_fault ((runFaultClear args s).finish e)
    exact hfault ▸ sound_takeAll _ ls (hrun args)
  · exact hs

/-- A power-on reset leaves a blank Fault Unit with the latches of the inputs found asserted (R156, R159). -/
theorem sound_powerOn (pins : Pins) (s : State) : (powerOnWork pins s).settle.fault.sound := by
  obtain ⟨ls, -, hfault⟩ := settle_fault (powerOnWork pins s)
  exact hfault ▸ sound_takeAll _ ls sound_blank

theorem exec_faultSound (i : Instr) {s : State} (hs : s.fault.sound) : Leads (exec i s) fun t => t.fault.sound := by
  cases hi : setsFaultUnit i with
  | false =>
    obtain ⟨t, ht, htakes⟩ := exec_onlyLatches hi s
    exact ⟨t, ht, htakes.sound hs⟩
  | true =>
    cases i with
    | powerOnReset pins => exact leads_next (sound_powerOn pins s)
    | faultClear => exact leads_next (sound_faultClear hs)
    | timeCounterTick => exact leads_next hs
    | _ => cases hi

/-- Settles O59: a latch and a clear keep the Fault Unit sound, a reset blanks it, and the tick touches neither the flags nor
the record. -/
theorem faultRecordStaysSound : Obligations.FaultRecordStaysSound := by
  intro s t hs h
  unfold step at h
  split at h
  · exact Host.Outcome.next.inj h ▸ hs
  · rename_i c rest _
    obtain ⟨u, hu, hsound⟩ := exec_faultSound c (s := { s with pending := rest }) hs
    exact Host.Outcome.next.inj (hu.symm.trans h) ▸ hsound

end Sys2Proof.Machine

/-! SUPPORT. The link frames as bytes (R179), those that fail their frame check (R162), and the oldest frame of the output queue
(R164). -/

namespace Sys2Proof.Machine

/-! ### Reading received bytes (R162) -/

/-- Bytes that a header and a check fit into: the four bytes of the header, the payload, and the two of the check. -/
theorem linkBytes_short_or_whole (bytes : List Byte) :
    bytes.length < 6 ∨ ∃ d s c n payload high low, bytes = d :: s :: c :: n :: (payload ++ [high, low]) := by
  rcases bytes with _ | ⟨d, _ | ⟨s, _ | ⟨c, _ | ⟨n, rest⟩⟩⟩⟩
  · exact .inl (by simp)
  · exact .inl (by simp)
  · exact .inl (by simp)
  · exact .inl (by simp)
  · by_cases hlen : rest.length < 2
    · exact .inl (by simp only [List.length_cons]; omega)
    · obtain ⟨high, low, hcheck⟩ := List.length_eq_two.mp (show (rest.drop (rest.length - 2)).length = 2 by
        rw [List.length_drop]; omega)
      exact .inr ⟨d, s, c, n, rest.take (rest.length - 2), high, low, by rw [← hcheck, List.take_append_drop]⟩

theorem LinkFrame.parse_short {bytes : List Byte} (h : bytes.length < 6) : LinkFrame.parse bytes = none := by
  rcases bytes with _ | ⟨d, _ | ⟨s, _ | ⟨c, _ | ⟨n, rest⟩⟩⟩⟩
  · rfl
  · rfl
  · rfl
  · rfl
  · exact if_pos (.inl (by simp only [List.length_cons] at h; omega))

/-- Bytes of a header, a payload and a check are read as a frame where the length, its bound and the check agree. -/
theorem LinkFrame.parse_whole (d s c n high low : Byte) (payload : List Byte) :
    LinkFrame.parse (d :: s :: c :: n :: (payload ++ [high, low])) =
      if payload.length = n.toNat ∧ n.toNat ≤ 128 ∧ [high, low] = twoBytes (linkCheck (d :: s :: c :: n :: payload)) then
        some ⟨d, s, c, payload⟩
      else none := by
  have hlen : (payload ++ [high, low]).length - 2 = payload.length := by simp
  have hlong : ¬(payload ++ [high, low]).length < 2 := by simp
  simp only [LinkFrame.parse, hlen, hlong, List.take_left, List.drop_left, false_or]
  by_cases hform : payload.length = n.toNat ∧ n.toNat ≤ 128
  · obtain ⟨hn, hmax⟩ := hform
    simp only [hn, Nat.not_lt.mpr hmax, hmax, ne_eq, not_true_eq_false, or_self, if_false, true_and]
  · rw [if_pos (by omega), if_neg fun ⟨hn, hmax, _⟩ => hform ⟨hn, hmax⟩]

/-- Bytes are read as a frame exactly where they are the frame's own, with a payload of at most 128 bytes. -/
theorem LinkFrame.parse_some {bytes : List Byte} {f : LinkFrame} :
    LinkFrame.parse bytes = some f ↔ bytes = f.encode ∧ f.payload.length ≤ 128 := by
  constructor
  · intro h
    obtain hshort | ⟨d, s, c, n, payload, high, low, rfl⟩ := linkBytes_short_or_whole bytes
    · rw [LinkFrame.parse_short hshort] at h
      cases h
    · rw [LinkFrame.parse_whole, Option.ite_none_right_eq_some] at h
      obtain ⟨⟨hn, hmax, hcheck⟩, hf⟩ := h
      obtain rfl := Option.some.inj hf
      have hlength : byteOf payload.length = n := byteOf_of_length hn
      refine ⟨?_, hn.trans_le hmax⟩
      simp only [LinkFrame.encode, LinkFrame.body, hlength, List.cons_append, List.nil_append, ← hcheck]
  · rintro ⟨rfl, hmax⟩
    have hlength : (byteOf f.payload.length).toNat = f.payload.length := byteOf_toNat _ (by omega)
    refine (LinkFrame.parse_whole f.destination f.source f.cls (byteOf f.payload.length) _ _ f.payload).trans (if_pos ?_)
    exact ⟨hlength.symm, hlength.trans_le hmax, rfl⟩

/-! ### Frames that fail their frame check (R162) -/

/-- The four cases in which bytes fail their frame check. -/
theorem LinkFrame.parse_none (bytes : List Byte) :
    LinkFrame.parse bytes = none ↔
      (bytes.length < 6 ∨ (bytes.getD 3 0).toNat ≠ bytes.length - 6 ∨ 128 < (bytes.getD 3 0).toNat ∨
        bytes.drop (bytes.length - 2) ≠ twoBytes (linkCheck (bytes.take (bytes.length - 2)))) := by
  obtain hshort | ⟨d, s, c, n, payload, high, low, rfl⟩ := linkBytes_short_or_whole bytes
  · exact iff_of_true (LinkFrame.parse_short hshort) (.inl hshort)
  · have hparts : d :: s :: c :: n :: (payload ++ [high, low]) = (d :: s :: c :: n :: payload) ++ [high, low] := rfl
    have hlen : (d :: s :: c :: n :: (payload ++ [high, low])).length = payload.length + 6 := by simp
    have hfront : payload.length + 6 - 2 = (d :: s :: c :: n :: payload).length := rfl
    have hn : (d :: s :: c :: n :: (payload ++ [high, low])).getD 3 0 = n := rfl
    rw [hlen, hn, hfront, LinkFrame.parse_whole, hparts, List.take_left, List.drop_left, ite_eq_right_iff]
    simp only [reduceCtorEq, imp_false, not_and_or, Nat.not_le, Nat.add_sub_cancel, Nat.not_lt.mpr (Nat.le_add_left 6 _),
      false_or, ne_eq, eq_comm (a := payload.length)]

/-- The subject of a LINK_CHECK latch, by the header's length and its source field. -/
theorem linkCheckSubject_eq (bytes : List Byte) :
    linkCheckSubject bytes =
      if 4 ≤ bytes.length ∧ (bytes.getD 1 0).toNat ≤ 63 then .node (bytes.getD 1 0) else .none := by
  rcases bytes with _ | ⟨d, _ | ⟨s, _ | ⟨c, _ | ⟨n, rest⟩⟩⟩⟩
  · rfl
  · rfl
  · rfl
  · rfl
  · simp [linkCheckSubject]

theorem exec_frameCheckFailure_failed {bytes : List Byte} (h : LinkFrame.parse bytes = none) (s : State) :
    exec (.frameCheckFailure bytes) s = .next (s.latched ⟨.linkCheck, linkCheckSubject bytes, none⟩) := by
  show execFrameCheckFailure bytes s = _
  rw [execFrameCheckFailure, h]
  exact congrArg _ (settle_latched s _)

/-- Settles O4: the four cases of the frame check, and the latch of a frame that fails it. -/
theorem failedFrameCheckIsDiscardedAndLatched : Obligations.FailedFrameCheckIsDiscardedAndLatched :=
  ⟨LinkFrame.parse_none, fun bytes s h => by rw [exec_frameCheckFailure_failed h, linkCheckSubject_eq]⟩

/-! ### The bytes that go out (R179) -/

theorem linkCheckBit_eq (check : Half) (bit : Bool) :
    linkCheckBit check bit = if check.getLsbD 15 ≠ bit then (check <<< 1) ^^^ 4129 else check <<< 1 := by
  rw [linkCheckBit, BitVec.msb_eq_getLsbD_last]

/-- Settles O51: bytes are read as a frame exactly where they are its own; the check goes on byte by byte. -/
theorem linkFrameRoundTrip : Obligations.LinkFrameRoundTrip := by
  refine ⟨fun f hmax => LinkFrame.parse_some.mpr ⟨rfl, hmax⟩, fun bytes f h => LinkFrame.parse_some.mp h,
    fun header payload check => ?_, rfl, fun bytes b => ?_, fun f => ?_⟩
  · rw [linkBytes, twoBytes_eq]
  · rw [linkCheck, List.foldl_append]
    simp only [← linkCheckBit_eq]
    rfl
  · rw [LinkFrame.encode, twoBytes_eq]
    rfl

/-- Settles O8: the oldest frame leaves the queue, and its own bytes are sent. -/
theorem oldestOutputFrameIsSent : Obligations.OldestOutputFrameIsSent := by
  intro f rest s
  show execOutputFrameSend { s with link := { s.link with queue := f :: rest } } = _
  rw [execOutputFrameSend]
  rfl

end Sys2Proof.Machine

/-! SUPPORT. Management commands as they are received (R163, R165), and heads that are answered with no effect or wait (R164,
R166, R167). -/

namespace Sys2Proof.Machine

/-! ### MGMT frames (R163, R165) -/

theorem isController_iff (source : Byte) : isController source = true ↔ 1 ≤ source.toNat ∧ source.toNat ≤ 7 := by
  simp [isController]

theorem claims_iff (s : State) (destination : Byte) :
    s.claims destination = true ↔ destination = 0 ∨ destination = s.link.address := by
  simp [State.claims]

theorem mayBroadcast_iff (payload : List Byte) :
    mayBroadcast payload = true ↔ payload.head? = some 62 ∨ payload.head? = some 0 := by
  cases payload with
  | nil => simp [mayBroadcast]
  | cons c args =>
    simp only [mayBroadcast, Bool.or_eq_true, decide_eq_true_eq, List.head?_cons, Option.some.injEq]
    rfl

section Received

variable {s : State} {destination source : Byte} {payload : List Byte}

/-- What is not claimed, or comes from no controller, is not taken. -/
theorem receiveMgmt_other
    (h : (destination ≠ 0 ∧ destination ≠ s.link.address) ∨ source.toNat < 1 ∨ 7 < source.toNat) :
    s.receiveMgmt destination source payload = s := by
  refine if_neg fun htaken => ?_
  rw [Bool.and_eq_true, claims_iff, isController_iff] at htaken
  obtain ⟨hclaimed, hmin, hmax⟩ := htaken
  rcases h with ⟨h0, ha⟩ | h | h
  · exact hclaimed.elim h0 ha
  · omega
  · omega

section Taken

variable (hmin : 1 ≤ source.toNat) (hmax : source.toNat ≤ 7)
include hmin hmax

theorem receiveMgmt_broadcast :
    s.receiveMgmt 0 source payload =
      if s.mgmt.entries.length < 4 ∧ (payload.head? = some 62 ∨ payload.head? = some 0) then
        { s with mgmt := { s.mgmt with entries := s.mgmt.entries ++ [⟨source, payload, true⟩] } }
      else s := by
  have htaken : (s.claims 0 && isController source) = true :=
    Bool.and_eq_true_iff.mpr ⟨(claims_iff s 0).mpr (.inl rfl), (isController_iff source).mpr ⟨hmin, hmax⟩⟩
  rw [State.receiveMgmt, if_pos htaken, if_pos rfl]
  simp only [Bool.and_eq_true, decide_eq_true_eq, mayBroadcast_iff]
  rfl

theorem receiveMgmt_own (ha : destination = s.link.address) (h0 : destination ≠ 0) :
    s.receiveMgmt destination source payload =
      if s.mgmt.entries.length < 4 then s.queueCommand ⟨source, payload, false⟩
      else
        { s with
          link :=
            { s.link with
              queue := s.link.queue ++
                if s.outCount < 8 then [s.replyTo source payload { status := .retry }] else [] } } := by
  have htaken : (s.claims destination && isController source) = true :=
    Bool.and_eq_true_iff.mpr ⟨(claims_iff s destination).mpr (.inr ha), (isController_iff source).mpr ⟨hmin, hmax⟩⟩
  rw [State.receiveMgmt, if_pos htaken, if_neg h0, offerFrame_eq]
  rfl

end Taken

end Received

/-- A payload of fewer than two bytes holds no whole code and tag (R167). -/
theorem tagOf_short {payload : List Byte} (h : payload.length < 2) : tagOf payload = 0 := by
  rcases payload with _ | ⟨c, _ | ⟨t, args⟩⟩
  · rfl
  · rfl
  · simp only [List.length_cons] at h
    omega

theorem replyTo_short (s : State) (source : Byte) {payload : List Byte} (h : payload.length < 2) (a : Answer) :
    s.replyTo source payload a =
      ⟨source, s.link.address, 4, [payload.headD 0, 0, a.status.code, a.reason.code] ++ a.data⟩ := by
  rw [State.replyTo, tagOf_short h]
  rfl

/-- Settles O7: by who the frame is for and from, and by the room in the queue. -/
theorem mgmtFrameIsQueuedOrRefused : Obligations.MgmtFrameIsQueuedOrRefused := by
  refine ⟨fun header received check destination source payload s hp => ?_, fun header received check f s hp hc =>
    (exec_notReceived header received check s).2.2 (ofClass_other hp hc)⟩
  rw [(exec_received s hp).2.2 rfl]
  refine ⟨fun ha h0 hmin hmax hroom => ?_, fun ha h0 hmin hmax hfull => ?_, fun ha h0 hmin hmax hfull hshort => ?_,
    fun h0 hmin hmax => ?_, fun h => ?_⟩
  · rw [receiveMgmt_own hmin hmax ha h0, if_pos hroom]
    rfl
  · rintro code tag args rfl
    rw [receiveMgmt_own hmin hmax ha h0, if_neg (Nat.not_lt.mpr hfull)]
    rfl
  · rw [receiveMgmt_own hmin hmax ha h0, if_neg (Nat.not_lt.mpr hfull), replyTo_short s source hshort]
    rfl
  · rw [h0, receiveMgmt_broadcast hmin hmax]
  · rw [receiveMgmt_other h]

end Sys2Proof.Machine
/-! SUPPORT. Heads of the Management Queue that are answered with no effect, or wait (R164, R166, R167). -/

namespace Sys2Proof.Machine

/-! ### UNKNOWN_COMMAND (R167) -/

section Unknown

variable {s : State} {source : Byte} {rest : List MgmtEntry}

theorem ready_head {payload : List Byte} (he : s.mgmt.entries = ⟨source, payload, false⟩ :: rest)
    (hf : s.mgmt.inFlight = false) (hq : s.link.queue.length < 8) : s.ready = some ⟨source, payload, false⟩ := by
  simp [State.ready, State.outCount, State.reserved, he, hf, hq]

theorem exec_unknownCommand_short {payload : List Byte} (he : s.mgmt.entries = ⟨source, payload, false⟩ :: rest)
    (hf : s.mgmt.inFlight = false) (hq : s.link.queue.length < 8) (hlen : payload.length < 2) :
    exec .unknownCommand s = .next (s.answered source rest [payload.headD 0, 0, 5, 0]) := by
  show execUnknownCommand s = _
  rw [execUnknownCommand, ready_head he hf hq]
  dsimp only
  rw [if_pos hlen, finish_settle _ _ rfl rfl]
  dsimp only [Done.malformed]
  rw [replyTo_short s source hlen]
  simp [State.popHead, State.appendFrame, he, hf, ReplyStatus.code, Reason.code]

theorem exec_unknownCommand_code {code tag : Byte} {args : List Byte} (hhead : s.hasHead source code tag args rest)
    (hcode : code ∉ commandCodes) : exec .unknownCommand s = .next (s.answered source rest [code, tag, 4, 0]) := by
  have hcontains : ¬commandCodes.contains (codeOf (code :: tag :: args)) = true := fun h => hcode (List.contains_iff_mem.mp h)
  have hlong : ¬(code :: tag :: args).length < 2 := by simp
  show execUnknownCommand s = _
  rw [execUnknownCommand, ready_head hhead.1 hhead.2.1 hhead.2.2]
  dsimp only
  rw [if_neg hlong, if_neg hcontains, finish_settle _ _ rfl rfl]
  exact congrArg _ (pop_answered s s hhead rfl _)

end Unknown

/-! ### Commands with a fixed number of argument bytes (R167, R179) -/

/-- Any other number of argument bytes is MALFORMED and has no effect. -/
def TakesArgs (run : List Byte → State → Done) (n : Nat) : Prop :=
  ∀ args s, args.length ≠ n → run args s = Done.malformed s

theorem takesArgs_none {run : List Byte → State → Done} (h : ∀ args s, args ≠ [] → run args s = Done.malformed s) :
    TakesArgs run 0 := fun args s hlen => h args s fun hnil => hlen (List.length_eq_zero_iff.mpr hnil)

theorem takesArgs_status : TakesArgs runStatus 0 := takesArgs_none fun _ _ h => if_neg h

theorem takesArgs_faultRead : TakesArgs runFaultRead 0 := takesArgs_none fun _ _ h => if_neg h

theorem takesArgs_stopAll : TakesArgs runStopAll 0 := takesArgs_none fun _ _ h => if_neg h

theorem takesArgs_restart : TakesArgs runRestart 0 := takesArgs_none fun _ _ h => if_neg h

theorem readData_length {args : List Byte} (s : State) (h : args.length ≠ 3) : s.readData args = none := by
  unfold State.readData
  split
  · exact absurd rfl h
  · rfl

theorem takesArgs_read : TakesArgs runRead 3 := fun args s h => by
  rw [runRead, readData_length s h]

theorem takesArgs_convoyForm : TakesArgs runConvoyForm 2 := fun args s h => by
  unfold runConvoyForm; split; exacts [absurd rfl h, rfl]

theorem takesArgs_convoyAdd : TakesArgs runConvoyAdd 4 := fun args s h => by
  unfold runConvoyAdd; split; exacts [absurd rfl h, rfl]

theorem takesArgs_convoyRemove : TakesArgs runConvoyRemove 1 := fun args s h => by
  unfold runConvoyRemove; split; exacts [absurd rfl h, rfl]

theorem takesArgs_convoyHold : TakesArgs runConvoyHold 2 := fun args s h => by
  unfold runConvoyHold; split; exacts [absurd rfl h, rfl]

theorem takesArgs_convoyResume : TakesArgs runConvoyResume 1 := fun args s h => by
  unfold runConvoyResume; split; exacts [absurd rfl h, rfl]

theorem takesArgs_convoyDisband : TakesArgs runConvoyDisband 1 := fun args s h => by
  unfold runConvoyDisband; split; exacts [absurd rfl h, rfl]

theorem takesArgs_zoneRelease : TakesArgs runZoneRelease 3 := fun args s h => by
  unfold runZoneRelease; split; exacts [absurd rfl h, rfl]

theorem takesArgs_decision (decision : VehicleId → VehicleId → State → State) : TakesArgs (runDecision decision) 1 :=
  fun args s h => by unfold runDecision; split; exacts [absurd rfl h, rfl]

theorem takesArgs_faultClear : TakesArgs runFaultClear 2 := fun args s h => by
  unfold runFaultClear; split; exacts [absurd rfl h, rfl]

/-- At the head with another number of argument bytes, the command is answered MALFORMED and changes nothing. -/
def FixedLength (i : Instr) (code : Byte) (n : Nat) : Prop :=
  ∀ (source tag : Byte) (args : List Byte) (rest : List MgmtEntry) (s : State),
    s.hasHead source code tag args rest → args.length ≠ n → exec i s = .next (s.answered source rest [code, tag, 5, 0])

/-- A command answered at once, from what it takes. -/
theorem TakesArgs.fixedLength {i : Instr} {code : Byte} {run : List Byte → State → Done} {n : Nat} (hrun : TakesArgs run n)
    (hexec : ∀ s, exec i s = .next (atOnce code run s)) : FixedLength i code n := fun _ _ args _ s hhead hlen =>
  (hexec s).trans (next_malformed hhead run (hrun args s hlen))

theorem fixedLength_channelRestart : FixedLength .channelRestart 33 1 := by
  intro source tag args rest s hhead hlen
  show execChannelRestart s = _
  rw [execChannelRestart, hasHead_ready (code := codeChannelRestart) hhead]
  dsimp only
  split
  · exact absurd rfl hlen
  · rw [finish_settle _ _ rfl rfl]
    exact congrArg _ (pop_answered s s hhead rfl _)

/-! ### A head that waits (R164, R166) -/

section Waiting

variable {s : State}

theorem ready_none (h : s.mgmt.inFlight = true ∨ (8 ≤ s.outCount ∧ ∀ e ∈ s.mgmt.entries.head?, e.broadcast = false)) :
    s.ready = none := by
  cases hready : s.ready with
  | none => rfl
  | some e =>
    obtain ⟨hhead, hidle, hroom⟩ := ready_some hready
    rcases h with hfly | ⟨hfull, hreply⟩
    · exact absurd (hfly.symm.trans hidle) (by decide)
    · rcases hroom with hroom | hroom
      · exact absurd hfull (Nat.not_le.mpr hroom)
      · exact absurd ((hreply e hhead).symm.trans hroom) (by decide)

theorem readyFor_none (h : s.ready = none) (code : Byte) : s.readyFor code = none := by
  rw [State.readyFor, h]

/-- Every command that acts on the head leaves a head that waits. -/
theorem exec_waiting (h : s.ready = none) :
    ∀ i ∈ [Instr.unknownCommand, .nop, .status, .read, .vehicleWrite, .bindingWrite, .zoneWrite, .limitsWrite, .convoyForm,
        .convoyAdd, .convoyRemove, .convoyHold, .convoyResume, .convoyDisband, .zoneRelease, .coupleConfirm, .coupleReject,
        .directSend, .channelRestart, .faultRead, .faultClear, .stopAll, .restart], exec i s = .next s := by
  have hunknown : exec .unknownCommand s = .next s := by
    show execUnknownCommand s = _
    rw [execUnknownCommand, h]
  have hatOnce (code : Byte) (run : List Byte → State → Done) : (.next (atOnce code run s) : Result) = .next s :=
    congrArg _ (atOnce_none code run s (readyFor_none h code))
  have hwrite (table : Byte) (size : Nat) (judge : EntryJudge) : (.next (writeStep table size judge s) : Result) = .next s := by
    rw [writeStep, readyFor_none h]
  have hsend : exec .directSend s = .next s := by
    show execDirectSend s = _
    rw [execDirectSend, readyFor_none h]
  have hrestart : exec .channelRestart s = .next s := by
    show execChannelRestart s = _
    rw [execChannelRestart, readyFor_none h]
  simp only [List.forall_mem_cons, List.not_mem_nil, false_imp_iff, implies_true, and_true]
  exact ⟨hunknown, hatOnce _ _, hatOnce _ _, hatOnce _ _, hwrite _ _ _, hwrite _ _ _, hwrite _ _ _, hwrite _ _ _,
    hatOnce _ _, hatOnce _ _, hatOnce _ _, hatOnce _ _, hatOnce _ _, hatOnce _ _, hatOnce _ _, hatOnce _ _, hatOnce _ _,
    hsend, hrestart, hatOnce _ _, hatOnce _ _, hatOnce _ _, hatOnce _ _⟩

end Waiting

/-- Settles O9: the two heads that UNKNOWN_COMMAND answers, the commands of a fixed length, and a head that waits. -/
theorem malformedOrUnknownCommandIsAnswered : Obligations.MalformedOrUnknownCommandIsAnswered := by
  refine ⟨⟨fun source code tag args rest s hhead hcode => exec_unknownCommand_code hhead hcode,
    fun source payload rest s he hf hq hlen => exec_unknownCommand_short he hf hq hlen⟩, ?fixed,
    fun i hi s h => exec_waiting (ready_none h) i hi⟩
  case fixed =>
    simp only [List.forall_mem_cons, List.not_mem_nil, false_imp_iff, implies_true, and_true]
    exact ⟨takesArgs_status.fixedLength fun _ => rfl, takesArgs_read.fixedLength fun _ => rfl,
      takesArgs_convoyForm.fixedLength fun _ => rfl, takesArgs_convoyAdd.fixedLength fun _ => rfl,
      takesArgs_convoyRemove.fixedLength fun _ => rfl, takesArgs_convoyHold.fixedLength fun _ => rfl,
      takesArgs_convoyResume.fixedLength fun _ => rfl, takesArgs_convoyDisband.fixedLength fun _ => rfl,
      takesArgs_zoneRelease.fixedLength fun _ => rfl, (takesArgs_decision _).fixedLength fun _ => rfl,
      (takesArgs_decision _).fixedLength fun _ => rfl, fixedLength_channelRestart,
      takesArgs_faultRead.fixedLength fun _ => rfl, takesArgs_faultClear.fixedLength fun _ => rfl,
      takesArgs_stopAll.fixedLength fun _ => rfl, takesArgs_restart.fixedLength fun _ => rfl⟩

/-! ### NOP and STATUS (R174, R175) -/

theorem exec_nop {s : State} {source tag : Byte} {args : List Byte} {rest : List MgmtEntry}
    (hhead : s.hasHead source 0 tag args rest) :
    (args.length ≤ 64 → exec .nop s = .next (s.answered source rest ([0, tag, 0, 0] ++ args))) ∧
      (64 < args.length → exec .nop s = .next (s.answered source rest [0, tag, 5, 0])) :=
  ⟨fun h => next_ok hhead runNop (if_pos h) rfl, fun h => next_malformed hhead runNop (if_neg (Nat.not_le.mpr h))⟩

/-- The Channel Units in index order. -/
theorem channels_toList (s : State) : s.channels.toList = [s.channel .A, s.channel .B, s.channel .C, s.channel .D] := by
  refine List.ext_getElem (by simp) fun i h _ => ?_
  have hi : i < 4 := by simpa using h
  interval_cases i <;> rfl

/-- The bytes of STATUS while its command is the only one that may reserve a place (R174, R164). -/
theorem statusData_eq {s : State} {e : MgmtEntry} {rest : List MgmtEntry} (he : s.mgmt.entries = e :: rest)
    (hf : s.mgmt.inFlight = false) :
    s.statusData =
      [s.link.address, if s.link.mode = .last then 1 else 0, (s.channel .A).state.code, (s.channel .B).state.code,
        (s.channel .C).state.code, (s.channel .D).state.code,
        BitVec.ofNat 8 (s.vehicles.toList.countP (fun x => x.valid)),
        BitVec.ofNat 8 (s.vehicles.toList.countP (fun x => x.valid && x.link = .online)),
        BitVec.ofNat 8 (s.vehicles.toList.countP (fun x => x.valid && x.link = .lost)),
        BitVec.ofNat 8 (s.convoys.toList.countP (fun c => c.state ≠ .free)),
        (if s.pins.estop then 1 else 0) + (if s.pins.supply then 2 else 0),
        BitVec.ofNat 8 (rest.length + 1), BitVec.ofNat 8 s.link.queue.length,
        BitVec.ofNat 8 (s.fault.summary.toNat / 256), BitVec.ofNat 8 s.fault.summary.toNat] := by
  have hmode : s.link.mode.code = if s.link.mode = .last then 1 else 0 := by cases s.link.mode <;> rfl
  have hinputs : packFlags [s.pins.estop, s.pins.supply] =
      (if s.pins.estop then 1 else 0) + (if s.pins.supply then 2 else 0) := by
    cases s.pins.estop <;> cases s.pins.supply <;> rfl
  have hqueue : s.outCount = s.link.queue.length := by simp [State.outCount, State.reserved, hf]
  rw [State.statusData, channels_toList, hmode, hinputs, hqueue, he, summaryBytes_eq]
  rfl

/-- Settles O10: NOP by the length of its payload, STATUS by its bytes. -/
theorem nopAndStatusAnswer : Obligations.NopAndStatusAnswer := by
  refine ⟨fun source tag args rest s hhead => exec_nop hhead, fun source tag rest s hhead => ?_, rfl⟩
  rw [← statusData_eq hhead.1 hhead.2.1]
  exact next_ok hhead runStatus rfl rfl

end Sys2Proof.Machine
/-! SUPPORT. The LIMITS entry: its bytes, and what is stored (R172). -/

namespace Sys2Proof.Machine

/-! ### The bytes of a LIMITS entry (R172, R180) -/

section Entry

variable {a b c d sh sl k f n node eh el filter : Byte}

theorem limitsOf_bad (h : 2 ≤ filter.toNat) : limitsOf [a, b, c, d, sh, sl, k, f, n, node, eh, el, filter] = none := by
  obtain ⟨h0, h1⟩ := byte_ne_of_two_le h
  simp only [limitsOf, if_neg h0, if_neg h1]

/-- Two bytes as a set of classes: bits 14 and 15 name none (R172). -/
theorem halfOf_classes (h l : Byte) : (halfOf h l).setWidth 14 = BitVec.ofNat 14 (h.toNat * 256 + l.toNat) := by
  rw [halfOf_eq, BitVec.setWidth_ofNat_of_le (by decide)]

/-- The fields of an accepted entry, each clamped into its range, and whether one has changed so. -/
theorem limitsOf_good (h : filter.toNat < 2) {stored silence : Nat} (hsilence : silence = sh.toNat * 256 + sl.toNat)
    (hstored : stored = max 100 (min 2000 silence) / 50 * 50) :
    limitsOf [a, b, c, d, sh, sl, k, f, n, node, eh, el, filter] = some
      ({ reverseCap := min 127 a.toNat, crawlCap := min 127 b.toNat, unknownCap := min 127 c.toNat,
         openCap := min 127 d.toNat, silence := stored, lostThreshold := max 2 (min 15 k.toNat),
         batteryFloor := f.toNat, neutralBand := min 16 n.toNat, alertNode := min 63 node.toNat,
         alertEnable := BitVec.ofNat 14 (eh.toNat * 256 + el.toNat),
         filter := if filter = 0 then .all else .severe },
        decide (127 < a.toNat ∨ 127 < b.toNat ∨ 127 < c.toNat ∨ 127 < d.toNat ∨ stored ≠ silence ∨ k.toNat < 2 ∨
          15 < k.toNat ∨ 16 < n.toNat ∨ 63 < node.toNat)) := by
  have hround : storedSilence silence = stored := hstored.symm
  have hclamped : (decide (127 < a.toNat) || decide (127 < b.toNat) || decide (127 < c.toNat) || decide (127 < d.toNat) ||
      decide (stored ≠ silence) || decide (clampNat 2 15 k.toNat ≠ k.toNat) || decide (16 < n.toNat) ||
      decide (63 < node.toNat)) =
      decide (127 < a.toNat ∨ 127 < b.toNat ∨ 127 < c.toNat ∨ 127 < d.toNat ∨ stored ≠ silence ∨ k.toNat < 2 ∨
        15 < k.toNat ∨ 16 < n.toNat ∨ 63 < node.toNat) := by
    simp only [clampNat_ne (by decide : 2 ≤ 15), ← Bool.decide_or, or_assoc]
  simp only [limitsOf, halfOf_toNat, ← hsilence, hround, halfOf_classes, ← hclamped]
  by_cases h0 : filter = 0
  · simp only [if_pos h0]
    rfl
  · simp only [if_neg h0, if_pos (byte_one_of_lt_two h h0)]
    rfl

end Entry

/-! ### One LIMITS entry, judged and stored (R172) -/

section Command

variable {s : State} {source tag : Byte} {bytes : List Byte} {rest : List MgmtEntry}
  (hhead : s.hasHead source 3 tag (6 :: 0 :: 1 :: bytes) rest) (hlen : bytes.length = 13)
include hhead hlen

theorem exec_limitsWrite_refused (h : limitsOf bytes = none) :
    exec .limitsWrite s = .next (s.answered source rest [3, tag, 2, 7, 3, 7]) := by
  have hjudge : judgeLimits (0 : Byte).toNat bytes s = { state := s, status := .refused .badValue } := by
    rw [judgeLimits, if_pos (by rfl), h]
  exact writeStep_quiet 13 judgeLimits hhead hlen hjudge rfl

theorem exec_limitsWrite_stored {l : Limits} {clamped : Bool} (h : limitsOf bytes = some (l, clamped)) :
    exec .limitsWrite s =
      .next (State.answered { s with limits := l } source rest [3, tag, 0, 0, if clamped then 1 else 0, 0]) := by
  have hjudge : judgeLimits (0 : Byte).toNat bytes s = { state := { s with limits := l }, status := acceptedStatus clamped } := by
    rw [judgeLimits, if_pos (by rfl), h]
  have hstep := writeStep_quiet 13 judgeLimits hhead hlen hjudge rfl
  cases clamped <;> exact hstep

end Command

/-- Settles O19: by the filter code, and then field by field. -/
theorem limitsEntryIsClampedAndStored : Obligations.LimitsEntryIsClampedAndStored := by
  intro source tag a b c d sh sl k f n node eh el filter rest s hhead silence stored
  refine ⟨fun h => ?_, fun h => exec_limitsWrite_refused hhead rfl (limitsOf_bad h)⟩
  rw [exec_limitsWrite_stored hhead rfl (limitsOf_good h (stored := stored) (silence := silence) rfl rfl)]
  simp only [decide_eq_true_eq]

end Sys2Proof.Machine
/-! SUPPORT. READ (R170), and the sizes and bytes of the tables' entries (R169, R180). -/

namespace Sys2Proof.Machine

/-! ### READ (R170) -/

section Read

variable {s : State} {source tag table first count : Byte} {rest : List MgmtEntry}
  (hhead : s.hasHead source 2 tag [table, first, count] rest)
include hhead

theorem exec_read_table {t : TableView} (ht : s.table table = some t) (hcount : count ≠ 0) :
    exec .read s = .next (s.answered source rest
      ([2, tag, 0, 0, table, first, BitVec.ofNat 8 (min count.toNat t.largestCount)] ++
        (List.range (min count.toNat t.largestCount)).flatMap (fun k => t.readEntry (first.toNat + k)))) := by
  have hdata : s.readData [table, first, count] = some
      ([table, first, BitVec.ofNat 8 (min count.toNat t.largestCount)] ++
        (List.range (min count.toNat t.largestCount)).flatMap (fun k => t.readEntry (first.toNat + k))) := by
    simp only [State.readData, ht, if_neg hcount]
    rfl
  exact next_ok hhead runRead (by rw [runRead, hdata]; rfl) rfl

theorem exec_read_malformed (h : s.table table = none ∨ count = 0) :
    exec .read s = .next (s.answered source rest [2, tag, 5, 0]) := by
  have hdata : s.readData [table, first, count] = none := by
    rcases h with h | h
    · simp only [State.readData, h]
    · simp only [State.readData, if_pos h]
      split <;> rfl
  exact next_malformed hhead runRead (by rw [runRead, hdata])

end Read

/-! ### The sizes of the entries (R169, R180) -/

theorem padBytes_length {n : Nat} {bytes : List Byte} (h : bytes.length ≤ n) : (padBytes n bytes).length = n := by
  simp only [padBytes, List.length_append, List.length_replicate]
  omega

/-- Places of one size, in order. -/
theorem flatMap_length {α : Type} {f : α → List Byte} {k : Nat} (h : ∀ x, (f x).length = k) (l : List α) :
    (l.flatMap f).length = l.length * k := by
  simp [List.length_flatMap, h]

theorem assignmentBytes_length (a : Assignment) : (assignmentBytes a).length = 6 := rfl

theorem timerBytes_length (s : State) (t : Option Time) : (s.timerBytes t).length = 2 := by
  cases t <;> rfl

theorem bindingEntry_length (s : State) (b : Binding) : (s.bindingEntry b).length = 12 := by
  simp only [State.bindingEntry, List.length_append, timerBytes_length, twoBytes_length]
  cases b.tie <;> rfl

theorem vehicleEntry_length (x : Vehicle) : (vehicleEntry x).length = 40 := by
  have hconfig : (vehicleConfigBytes x).length = 16 := rfl
  simp only [vehicleEntry, hconfig, vehicleStateBytes, List.length_append, segmentBytes_length]
  cases x.staged <;> rfl

theorem memberBytes_length (m : Option Member) : (memberBytes m).length = 5 := by
  cases m <;> rfl

theorem trailBytes_length (e : Option TrailEntry) : (trailBytes e).length = 3 := by
  cases e <;> rfl

theorem causeBytes_length (c : Option BreakCause) : (causeBytes c).length = 2 := by
  rcases c with _ | (_ | _) <;> rfl

theorem convoyEntry_length (c : Convoy) : (convoyEntry c).length = 95 := by
  simp only [convoyEntry, List.length_append, segmentBytes_length, causeBytes_length,
    flatMap_length fun i => memberBytes_length c.members[i]?, flatMap_length fun i => trailBytes_length c.trail[i]?,
    List.length_range, List.length_cons, List.length_nil]

theorem zoneEntry_length (z : Range) : (zoneEntry z).length = 11 := rfl

/-- A LANE entry has room for four holders and eight waiting units. -/
theorem laneEntry_length {l : Lane} (hholders : l.holders.length ≤ 4) (hwaiting : l.waiting.length ≤ 8) :
    (laneEntry l).length = 26 := by
  have hunits (u : MoveUnit) (e : Bool) : (unitBytes u e).length = 2 := rfl
  have hheld : (l.holders.flatMap (fun h => unitBytes h.unit h.entered)).length ≤ 8 := by
    rw [flatMap_length (k := 2) fun h => hunits _ _]
    omega
  have hasked : (l.waiting.flatMap (fun u => unitBytes u false)).length ≤ 16 := by
    rw [flatMap_length (k := 2) fun u => hunits _ _]
    omega
  simp only [laneEntry, List.length_append, padBytes_length hheld, padBytes_length hasked, List.length_cons, List.length_nil]

theorem directBytes_length {d : DirectEntry} (h : d.payload.length ≤ 8) : (directBytes d).length = 11 := by
  simp only [directBytes, List.length_append, padBytes_length h, List.length_cons, List.length_nil]

theorem directList_length {l : List DirectEntry} (h : ∀ d ∈ l, d.payload.length ≤ 8) :
    (l.flatMap directBytes).length = l.length * 11 := by
  induction l with
  | nil => rfl
  | cons d ds ih =>
    obtain ⟨hd, hds⟩ := List.forall_mem_cons.mp h
    rw [List.flatMap_cons, List.length_append, directBytes_length hd, ih hds, List.length_cons]
    omega

/-- A CHANNEL entry has room for two direct frames of up to eight bytes. -/
theorem channelEntry_length {u : ChannelUnit} (hdirect : u.direct.length ≤ 2)
    (hpayload : ∀ d ∈ u.direct, d.payload.length ≤ 8) : (channelEntry u).length = 35 := by
  have hlist : (u.direct.flatMap directBytes).length ≤ 22 := by
    rw [directList_length hpayload]
    omega
  simp only [channelEntry, List.length_append, padBytes_length hlist]
  cases u.detail <;> cases u.pendingPoll <;> rfl

theorem limitsEntry_length (l : Limits) : (limitsEntry l).length = 13 := rfl

/-! ### The seven tables (R169) -/

/-- A table's number of entries and the size of each, the blank one among them. -/
def TableView.HasShape (t : TableView) (count size : Nat) : Prop :=
  t.entries.length = count ∧ t.size = size ∧ t.blank.length = size ∧ ∀ e ∈ t.entries, e.length = size

/-- A table of n records, each shown by its own bytes. -/
theorem hasShape_map {α : Type} {n size : Nat} (records : Vector α n) {entry : α → List Byte} {blank : List Byte}
    (hentry : ∀ i (h : i < n), (entry records[i]).length = size) (hblank : blank.length = size) :
    TableView.HasShape ⟨size, records.toList.map entry, blank⟩ n size := by
  refine ⟨by simp, rfl, hblank, fun e he => ?_⟩
  obtain ⟨x, hx, rfl⟩ := List.mem_map.mp he
  obtain ⟨i, hi, rfl⟩ := Vector.mem_iff_getElem.mp (Vector.mem_toList_iff.mp hx)
  exact hentry i hi

theorem table_shape {s : State} (hs : s.withinCapacity) :
    ∀ p ∈ [((0 : Byte), 32, 12), (1, 64, 40), (2, 12, 95), (3, 32, 11), (4, 32, 26), (5, 4, 35), (6, 1, 13)],
      ∃ t, s.table p.1 = some t ∧ t.HasShape p.2.1 p.2.2 := by
  obtain ⟨-, -, -, -, hdirect, hlane, -, -, -⟩ := hs
  simp only [List.forall_mem_cons, List.not_mem_nil, false_imp_iff, implies_true, and_true]
  refine ⟨⟨_, rfl, hasShape_map s.bindings (fun _ _ => bindingEntry_length s _) rfl⟩,
    ⟨_, rfl, hasShape_map s.vehicles (fun _ _ => vehicleEntry_length _) rfl⟩,
    ⟨_, rfl, hasShape_map s.convoys (fun _ _ => convoyEntry_length _) rfl⟩,
    ⟨_, rfl, hasShape_map s.zones (fun _ _ => zoneEntry_length _) rfl⟩,
    ⟨_, rfl, hasShape_map s.lanes (fun i h => ?lane) rfl⟩,
    ⟨_, rfl, hasShape_map s.channels (fun i h => ?channel) rfl⟩,
    ⟨_, rfl, rfl, rfl, rfl, fun e he => ?limits⟩⟩
  case lane => exact laneEntry_length (hlane ⟨i, h⟩).1 (hlane ⟨i, h⟩).2
  case channel =>
    obtain ⟨c, rfl⟩ : ∃ c : Channel, (channelIndex c).val = i := by
      interval_cases i
      exacts [⟨.A, rfl⟩, ⟨.B, rfl⟩, ⟨.C, rfl⟩, ⟨.D, rfl⟩]
    obtain ⟨hlen, hpayload⟩ := hdirect c
    exact channelEntry_length hlen fun d hd => (hpayload d hd).2
  case limits =>
    obtain rfl := List.mem_singleton.mp he
    exact limitsEntry_length _

theorem table_none (s : State) {code : Byte} (h : 6 < code.toNat) : s.table code = none := by
  have hne (k : Byte) (hk : k.toNat ≤ 6) : code ≠ k := by
    rintro rfl
    omega
  simp only [State.table, if_neg (hne tableBinding (by decide)), if_neg (hne tableVehicle (by decide)),
    if_neg (hne tableConvoy (by decide)), if_neg (hne tableZone (by decide)), if_neg (hne tableLane (by decide)),
    if_neg (hne tableChannel (by decide)), if_neg (hne tableLimits (by decide))]

/-! ### The bytes of the entries (R178, R180) -/

/-- A flag in bit 0 beside others shifted up by one. -/
theorem flagByte_or_shift (b : Bool) (n : Nat) :
    flagByte b ||| BitVec.ofNat 8 n <<< 1 = BitVec.ofNat 8 ((if b then 2 ^ 0 else 0) + 2 * n) := by
  have hapart : flagByte b &&& BitVec.ofNat 8 n <<< 1 = 0 := by
    cases b with
    | false => exact BitVec.zero_and
    | true =>
      ext i hi
      cases i with
      | zero => simp
      | succ i => simp [flagByte, BitVec.getElem_one]
  rw [← BitVec.add_eq_or_of_and_eq_zero _ _ hapart]
  apply BitVec.eq_of_toNat_eq
  cases b <;> simp [flagByte, Nat.shiftLeft_eq] <;> omega

/-- Packed flags as a number: flag k counts 2 to the k. -/
theorem packFlags_eq (l : List Bool) :
    packFlags l = BitVec.ofNat 8 ((l.zipIdx.map (fun p => if p.1 then 2 ^ p.2 else 0)).sum) := by
  induction l with
  | nil => rfl
  | cons b bs ih =>
    have hshift : ((bs.zipIdx 1).map (fun p => if p.1 then 2 ^ p.2 else 0)).sum =
        2 * ((bs.zipIdx.map (fun p => if p.1 then 2 ^ p.2 else 0)).sum) := by
      rw [List.zipIdx_succ, List.map_map, ← List.sum_map_mul_left]
      refine congrArg List.sum (List.map_congr_left fun p _ => ?_)
      simp only [Function.comp_apply, Nat.pow_succ', mul_ite, mul_zero]
    rw [packFlags, ih, flagByte_or_shift, List.zipIdx_cons, List.map_cons, List.sum_cons, hshift]

theorem twoBytesOf_eq (n : Nat) : twoBytesOf n = [BitVec.ofNat 8 (n / 256), BitVec.ofNat 8 n] := by
  have hhigh : BitVec.ofNat 8 (n % 2 ^ 16 / 256) = BitVec.ofNat 8 (n / 256) := by
    apply BitVec.eq_of_toNat_eq
    simp only [BitVec.toNat_ofNat]
    omega
  have hlow : BitVec.ofNat 8 (n % 2 ^ 16) = BitVec.ofNat 8 n := by
    apply BitVec.eq_of_toNat_eq
    simp only [BitVec.toNat_ofNat]
    omega
  rw [twoBytesOf, twoBytes_eq, BitVec.toNat_ofNat, hhigh, hlow]

theorem unitBytes_convoy (c : ConvoyId) (entered : Bool) :
    unitBytes (.convoy c) entered = [if entered then 2 else 0, BitVec.ofNat 8 c.val] := by
  cases entered <;> simp [unitBytes, MoveUnit.kindCode, flagByte, MoveUnit.indexByte, byteOf]

theorem unitBytes_vehicle (v : VehicleId) (entered : Bool) :
    unitBytes (.vehicle v) entered = [if entered then 3 else 1, BitVec.ofNat 8 v.val] := by
  cases entered <;> simp [unitBytes, MoveUnit.kindCode, flagByte, MoveUnit.indexByte, byteOf]

/-- A unit that has not entered is shown as a target is. -/
theorem unitBytes_standing (u : MoveUnit) : unitBytes u false = [u.kindCode, u.indexByte] := by
  simp [unitBytes, flagByte]

/-- The running time of a silence timer in milliseconds (assumption 16). -/
theorem timerBytes_running (s : State) (t : Time) :
    s.timerBytes (some t) =
      twoBytesOf (if (s.fault.time - t).toNat < 32768 then 1 else max 1 (min 2000 (t - s.fault.time).toNat)) := by
  simp only [State.timerBytes, State.reached, decide_eq_true_eq, clampNat]

/-- The parts of a VEHICLE entry in their order (R180). -/
theorem vehicleEntry_parts (x : Vehicle) :
    vehicleEntry x =
      [flagByte x.valid, x.kind.code, channelCode x.active.channel, x.address, byteOf x.active.period] ++
        twoBytes x.active.pattern ++
        [byteOf x.active.divisor, byteOf x.active.phase, byteOf x.accelUp, byteOf x.accelDown, byteOf x.dwell] ++
        twoBytesOf x.span ++
        [signedByte x.trim, byteOf x.loadClass, x.link.code, byteOf x.misses, flagByte x.inTransit, presenceByte x] ++
        (x.staged.map assignmentBytes).getD (List.replicate 6 0) ++ segmentBytes x.current ++ segmentBytes x.ahead ++
        [x.battery.getD 0, packFlags [x.fifthWheel, x.kingpin, x.rearHitch], signedByte x.speed, x.direction.code,
          byteOf x.zeroFrames, x.lastTurn.code, (x.stopReason.map StopReason.code).getD 0] ++
        [(x.attachedBehind.map (fun a => byteOf a.1.val)).getD 0, (x.attachedBehind.map (fun a => a.2.code)).getD 0] ++
        [(x.convoy.map (fun c => byteOf c.val)).getD 0] := by
  rw [vehicleEntry, vehicleConfigBytes, vehicleStateBytes]
  cases x.staged <;> simp

theorem append_congr {front front' back back' : List Byte} (hfront : front = front') (hback : back = back') :
    front ++ back = front' ++ back' := by
  rw [hfront, hback]

/-- Two tables of the same records are shown alike where each record's bytes agree. -/
theorem tableView_congr {α : Type} (size : Nat) (records : List α) {entry other : α → List Byte} (blank : List Byte)
    (h : ∀ x, entry x = other x) :
    some (TableView.mk size (records.map entry) blank) = some ⟨size, records.map other, blank⟩ := by
  rw [funext h]

/-- Settles O12: READ by its arguments, the shapes of the seven tables, and the bytes of their entries, each built from the
byte forms that the statement names. -/
theorem readReturnsEntries : Obligations.ReadReturnsEntries := by
  refine ⟨fun source tag table first count rest s hhead =>
    ⟨fun t ht hcount => exec_read_table hhead ht hcount, exec_read_malformed hhead⟩,
    fun s hs => ⟨table_shape hs, fun code hcode => table_none s hcode⟩, fun s => ?bytes⟩
  intro byte two yes bits segment turn channel unit filled assignment member entry
  have hhalf (h : Half) : twoBytes h = two h.toNat := twoBytes_eq h
  have hclasses (x : BitVec 14) : twoBytes (x.setWidth 16) = two x.toNat := summaryBytes_eq x
  have htwo (n : Nat) : twoBytesOf n = two n := twoBytesOf_eq n
  have hbits (l : List Bool) : packFlags l = bits l := packFlags_eq l
  have hchannel (c : Channel) : channelCode c = channel c := by cases c <;> rfl
  have hsegment (g : Option Segment) : segmentBytes g = segment g := by
    cases g with
    | none => rfl
    | some g => exact htwo g.val
  have hunit (u : MoveUnit) (e : Bool) : unitBytes u e = unit u e := by
    cases u with
    | convoy c => exact unitBytes_convoy c e
    | vehicle v => exact unitBytes_vehicle v e
  have hassignment (a : Assignment) : assignmentBytes a = assignment a := by
    rw [assignmentBytes, hchannel, hhalf]
    rfl
  have hmember (m : Option Member) : memberBytes m = member m := by cases m <;> rfl
  have hentry (e : Option TrailEntry) : trailBytes e = entry e := by
    cases e with
    | none => rfl
    | some e =>
      rw [trailBytes, hsegment]
      rfl
  refine ⟨tableView_congr 12 _ _ fun b => ?_, tableView_congr 40 _ _ fun x => ?_, tableView_congr 95 _ _ fun c => ?_,
    tableView_congr 11 _ _ fun z => ?_, tableView_congr 26 _ _ fun l => ?_, tableView_congr 35 _ _ fun u => ?_, ?_⟩
  -- BINDING: the tie and the timer may be absent.
  · rw [State.bindingEntry, hhalf]
    refine append_congr (append_congr (append_congr ?_ rfl) rfl) ?_
    · cases b.tie with
      | none => rfl
      | some t =>
        show [b.state.code] ++ ([t.node, byteOf t.group, t.cls.code] ++ [t.target.kindCode, t.target.indexByte]) = _
        rw [← unitBytes_standing, hunit]
        rfl
    · cases b.timer with
      | none => rfl
      | some expiry => rw [timerBytes_running, htwo]
  -- VEHICLE: the staged assignment, the battery, the stop reason, the attachment and the convoy may be absent.
  · rw [vehicleEntry_parts, hhalf, htwo, hchannel, hbits, presenceByte, hbits, hsegment, hsegment]
    refine append_congr (append_congr (append_congr (append_congr (append_congr (append_congr rfl ?_) rfl) rfl) ?_) ?_) ?_
    · cases x.staged with
      | none => rfl
      | some a => exact hassignment a
    · rcases x.stopReason with _ | (_ | _ | _ | _ | _ | _) <;> cases x.battery <;> rfl
    · rcases x.attachedBehind with _ | ⟨f, _ | _⟩ <;> rfl
    · cases x.convoy <;> rfl
  -- CONVOY
  · simp only [convoyEntry, hmember, hentry, hsegment]
    refine append_congr rfl ?_
    rcases c.cause with _ | (_ | _) <;> rfl
  -- ZONE
  · rw [zoneEntry, hsegment, hsegment]
    rfl
  -- LANE
  · simp only [laneEntry, hunit]
    rfl
  -- CHANNEL: bit 0 of the first detail byte is set with a detail, bit 1 with a received byte.
  · have hdirect : directBytes = fun e =>
        [e.address, byte e.payload.length] ++ filled 8 e.payload ++ [bits [e.expectReply, e.owned]] := by
      funext e
      rw [directBytes, hbits]
      rfl
    rw [channelEntry, hdirect]
    refine append_congr (append_congr (append_congr (append_congr rfl ?_) rfl) rfl) ?_
    · rcases u.detail with _ | ⟨frame, index, expected, _ | r⟩
      · rfl
      · exact congrArg (· :: [byteOf frame, byteOf index, expected, 0]) (show packFlags [true, false] = 1 by decide)
      · exact congrArg (· :: [byteOf frame, byteOf index, expected, r]) (show packFlags [true, true] = 3 by decide)
    · cases u.pendingPoll with
      | none => rfl
      | some p => simp only [hchannel]
  -- LIMITS
  · show some (TableView.mk 13 [limitsEntry s.limits] _) = _
    rw [limitsEntry, htwo, hclasses]
    rfl

end Sys2Proof.Machine

/-! SUPPORT. No operation of the block touches the commands that wait: `pending` is the model's own field, which a step alone
reads (assumptions 3 and 20). -/

namespace Sys2Proof.Machine

/-! ### The end of an event -/

@[simp] theorem settle_pending (w : Work) : w.settle.pending = w.state.pending := by
  obtain ⟨u, q, n, h, -⟩ := settle_spec w
  rw [h]

@[simp] theorem offerFrame_pending (n : Nat) (s : State) (f : LinkFrame) : (s.offerFrame n f).pending = s.pending := by
  rw [offerFrame_eq]

@[simp] theorem answerInFlight_pending (s : State) (code : Byte) (a : Answer) :
    (s.answerInFlight code a).state.pending = s.pending := by
  unfold State.answerInFlight
  split
  · split <;> rfl
  · rfl

@[simp] theorem answerRestart_pending (s : State) (c : Channel) (status : ReplyStatus) :
    (s.answerRestart c status).state.pending = s.pending := by
  unfold State.answerRestart
  split
  · exact answerInFlight_pending s _ _
  · rfl

/-! ### Blocks of the router (R16, R94, R126, R139, R144) -/

@[simp] theorem pick_pending (s : State) (n : Nat) : (s.pick n).2.pending = s.pending := by
  rw [pick_state]

@[simp] theorem judgeStart_pending (s : State) : s.judgeStart.1.pending = s.pending := by
  rw [(judgeStart_spec s).1.1]

@[simp] theorem pollReport_pending (s : State) (c : Channel) (replies : List Byte) (garbled : Bool) :
    (s.pollReport c replies garbled).1.pending = s.pending := by
  rw [(pollReport_spec s c replies garbled).1.1]

@[simp] theorem couplerAck_pending (s : State) (x : VehicleId) (before : Vehicle) :
    (s.couplerAck x before).1.pending = s.pending := by
  rw [(couplerAck_spec s x before).1.1]

@[simp] theorem convoyAck_pending (s : State) (v : VehicleId) (before : Option Segment) :
    (s.convoyAck v before).1.pending = s.pending := by
  rw [(convoyAck_spec s v before).1]

@[simp] theorem laneAck_pending (s : State) (v : VehicleId) : (s.laneAck v).1.pending = s.pending := by
  rw [(laneAck_spec s v).1]

@[simp] theorem loseMembers_pending (s : State) (lost : List VehicleId) : (s.loseMembers lost).pending = s.pending := by
  obtain ⟨n, ks, h, -⟩ := loseMembers_spec s lost
  rw [h]

@[simp] theorem endVehicleSlot_pending (s : State) (f : Option SlotFlight) : (s.endVehicleSlot f).pending = s.pending := by
  rw [endVehicleSlot_frame]

@[simp] theorem vehiclesLoseChannel_pending (s : State) (c : Channel) (leaves : Bool) :
    (s.vehiclesLoseChannel c leaves).pending = s.pending := by
  rw [vehiclesLoseChannel_frame]

/-! ### Channel events (R23 to R29) -/

@[simp] theorem enterLocking_pending (s : State) (c : Channel) : (s.enterLocking c).pending = s.pending := rfl

@[simp] theorem enterFailed_pending (s : State) (c : Channel) (ls : List Latch) :
    (s.enterFailed c ls).state.pending = s.pending := answerRestart_pending s c .failed

@[simp] theorem failTest_pending (s : State) (c : Channel) (d : TestDetail) : (s.failTest c d).state.pending = s.pending :=
  enterFailed_pending _ c _

@[simp] theorem passTest_pending (s : State) (c : Channel) : (s.passTest c).state.pending = s.pending :=
  answerRestart_pending _ c .ok

@[simp] theorem leaveServing_pending (s : State) (c : Channel) (old : ChannelUnit) :
    (s.leaveServing c old).state.pending = s.pending := by
  rw [leaveServing_eq s _ c old rfl]
  dsimp only
  split <;> split <;> simp

@[simp] theorem lockReport_pending (s : State) (c : Channel) : (s.lockReport c).pending = s.pending := by
  unfold State.lockReport
  split <;> rfl

@[simp] theorem lockLostReport_pending (s : State) (c : Channel) (returned : List Byte) :
    (s.lockLostReport c returned).state.pending = s.pending := by
  unfold State.lockLostReport
  split
  case h_1 => exact leaveServing_pending (s.setChannel c _) c _
  case h_2 =>
    unfold State.lockLostInTest
    dsimp only
    split
    · exact failTest_pending s c _
    · split <;> simp
  all_goals rfl

@[simp] theorem restartChannel_pending (s : State) (c : Channel) : (s.restartChannel c).state.pending = s.pending := by
  unfold State.restartChannel
  dsimp only
  split <;> simp

/-! ### Acks and misses (R16, R17) -/

@[simp] theorem slotOutcome_pending (s : State) (v : VehicleId) (ack : Option Ack) :
    (s.slotOutcome v ack).state.pending = s.pending := by
  unfold State.slotOutcome
  split
  · split
    · simp [State.validAck]
    · unfold State.miss
      dsimp only
      split <;> simp
  · rfl

/-! ### Frames received on the link (R163, R165) -/

@[simp] theorem unbound_pending (s : State) (source : Byte) (group : Nat) (cls : Byte) :
    (s.unbound source group cls).pending = s.pending := by
  unfold State.unbound
  split <;> simp

@[simp] theorem receiveDrive_pending (s : State) (destination source : Byte) (payload : List Byte) :
    (s.receiveDrive destination source payload).pending = s.pending := by
  unfold State.receiveDrive
  repeat' split
  all_goals simp

@[simp] theorem receiveAux_pending (s : State) (destination source : Byte) (payload : List Byte) :
    (s.receiveAux destination source payload).pending = s.pending := by
  unfold State.receiveAux
  repeat' split
  all_goals simp

@[simp] theorem receiveMgmt_pending (s : State) (destination source : Byte) (payload : List Byte) :
    (s.receiveMgmt destination source payload).pending = s.pending := by
  unfold State.receiveMgmt
  dsimp only
  repeat' split
  all_goals simp [State.queueCommand]

/-! ### Commands answered at once (R166) -/

/-- What a management command does leaves the waiting commands alone. -/
def LeavesPending (run : List Byte → State → Done) : Prop := ∀ args s, (run args s).state.pending = s.pending

theorem atOnce_pending {run : List Byte → State → Done} (h : LeavesPending run) (code : Byte) (s : State) :
    (atOnce code run s).pending = s.pending := by
  unfold atOnce
  split
  · exact (settle_pending _).trans (h _ s)
  · rfl

/-- The commands that only report (R157, R170, R174, R175). -/
theorem reports_leavePending :
    LeavesPending runNop ∧ LeavesPending runStatus ∧ LeavesPending runRead ∧ LeavesPending runFaultRead := by
  unfold runNop runStatus runRead runFaultRead
  refine ⟨?_, ?_, ?_, ?_⟩
  all_goals
    intro args s
    dsimp only
    split <;> rfl

theorem runFaultClear_leavesPending : LeavesPending runFaultClear := fun args s => by
  unfold runFaultClear
  dsimp only
  repeat' split
  all_goals rfl

/-- The two commands that reach every block (R56, R176). -/
theorem stops_leavePending : LeavesPending runStopAll ∧ LeavesPending runRestart := by
  unfold runStopAll runRestart
  refine ⟨fun args s => ?_, fun args s => ?_⟩
  all_goals
    dsimp only
    split <;> rfl

theorem removeMember_pending (s : State) (c : ConvoyId) (v : VehicleId) : (s.removeMember c v).pending = s.pending := by
  unfold State.removeMember
  dsimp only
  split <;> rfl

/-- A convoy's members (R84 to R86). -/
theorem memberCommands_leavePending :
    LeavesPending runConvoyForm ∧ LeavesPending runConvoyAdd ∧ LeavesPending runConvoyRemove := by
  unfold runConvoyForm runConvoyAdd runConvoyRemove
  refine ⟨fun args s => ?_, fun args s => ?_, fun args s => ?remove⟩
  case remove =>
    dsimp only
    repeat' split
    any_goals rfl
    exact removeMember_pending s _ _
  all_goals
    dsimp only
    repeat' split
    all_goals rfl

/-- A whole convoy (R88 to R90), and a place in a lane list (R135). -/
theorem convoyCommands_leavePending :
    LeavesPending runConvoyHold ∧ LeavesPending runConvoyResume ∧ LeavesPending runConvoyDisband ∧
      LeavesPending runZoneRelease := by
  unfold runConvoyHold runConvoyResume runConvoyDisband runZoneRelease
  refine ⟨?_, ?_, ?_, ?_⟩
  all_goals
    intro args s
    dsimp only
    repeat' split
    all_goals rfl

/-- A decision on an attachment, and the start that it makes due (R148, R143). -/
theorem runDecision_leavesPending {decide : VehicleId → VehicleId → State → State}
    (h : ∀ x w s, (decide x w s).pending = s.pending) : LeavesPending (runDecision decide) := fun args s => by
  unfold runDecision
  dsimp only
  repeat' split
  any_goals rfl
  exact (judgeStart_pending _).trans (h _ _ s)

/-- A WRITE whose entries leave the waiting commands alone (R171). -/
theorem writeStep_pending {judge : EntryJudge} (h : ∀ index bytes s, (judge index bytes s).state.pending = s.pending)
    (table : Byte) (size : Nat) (s : State) : (writeStep table size judge s).pending = s.pending := by
  have hrun (args : List Byte) : (runWrite table size judge args s).state.pending = s.pending := by
    unfold runWrite
    split
    · have hended (w : Written) : w.ended.1.pending = w.state.pending := by rw [(ended_spec w).1.1]
      exact (hended _).trans (writeEntries_keeps State.pending judge h _ _ s)
    · rfl
  unfold writeStep
  repeat' split
  any_goals rfl
  exact (settle_pending _).trans (hrun _)

end Sys2Proof.Machine

/-! SUPPORT. A step takes the command at the front; every command of every family goes on to a next state. -/

namespace Sys2Proof.Machine

/-- Settles O1: both clauses are the two cases of the queue. -/
theorem stepRunsFrontCommand : Obligations.StepRunsFrontCommand := by
  refine ⟨fun c rest s => rfl, fun s hidle => ?_⟩
  unfold step
  rw [hidle]

/-- The command answers a next state, with the waiting commands it was given. -/
def State.GoesOn (s : State) (o : Result) : Prop := Leads o fun t => t.pending = s.pending

section Families

variable {s : State}

theorem goesOn_next {t : State} (h : t.pending = s.pending) : s.GoesOn (.next t) := leads_next h

theorem goesOn_settle {w : Work} (h : w.state.pending = s.pending) : s.GoesOn (.next w.settle) :=
  goesOn_next ((settle_pending w).trans h)

theorem goesOn_atOnce {code : Byte} {run : List Byte → State → Done} (h : LeavesPending run) :
    s.GoesOn (.next (atOnce code run s)) := goesOn_next (atOnce_pending h code s)

theorem goesOn_write {table : Byte} {size : Nat} {judge : EntryJudge}
    (h : ∀ index bytes s, (judge index bytes s).state.pending = s.pending) : s.GoesOn (.next (writeStep table size judge s)) :=
  goesOn_next (writeStep_pending h table size s)

/-! ### The Link Port (R162 to R165) -/

theorem frameCheckFailure_goesOn (bytes : List Byte) : s.GoesOn (execFrameCheckFailure bytes s) := by
  unfold execFrameCheckFailure
  split
  · exact goesOn_settle rfl
  · exact goesOn_next rfl

theorem drive_goesOn (header : LinkHeader) (payload : List Byte) (check : Half) :
    s.GoesOn (execDrive header payload check s) := by
  unfold execDrive
  split
  · exact goesOn_next (receiveDrive_pending s _ _ _)
  · exact goesOn_next rfl

theorem aux_goesOn (header : LinkHeader) (payload : List Byte) (check : Half) :
    s.GoesOn (execAux header payload check s) := by
  unfold execAux
  split
  · exact goesOn_next (receiveAux_pending s _ _ _)
  · exact goesOn_next rfl

theorem mgmt_goesOn (header : LinkHeader) (payload : List Byte) (check : Half) :
    s.GoesOn (execMgmt header payload check s) := by
  unfold execMgmt
  split
  · exact goesOn_next (receiveMgmt_pending s _ _ _)
  · exact goesOn_next rfl

theorem outputFrameSend_goesOn : s.GoesOn (execOutputFrameSend s) := by
  unfold execOutputFrameSend
  split <;> exact goesOn_next rfl

/-! ### Heads that name no command, and those that go in flight (R28, R40, R167) -/

theorem unknownCommand_goesOn : s.GoesOn (execUnknownCommand s) := by
  unfold execUnknownCommand
  split
  · split
    · exact goesOn_settle rfl
    · split
      · exact goesOn_next rfl
      · exact goesOn_settle rfl
  · exact goesOn_next rfl

theorem directSend_goesOn : s.GoesOn (execDirectSend s) := by
  unfold execDirectSend
  split
  · split
    · split
      · exact goesOn_next rfl
      · exact goesOn_settle rfl
    · exact goesOn_settle rfl
  · exact goesOn_next rfl

theorem channelRestart_goesOn : s.GoesOn (execChannelRestart s) := by
  unfold execChannelRestart
  split
  · split
    · split
      · exact goesOn_settle (restartChannel_pending s.headGoesInFlight _)
      · exact goesOn_settle rfl
    · exact goesOn_settle rfl
  · exact goesOn_next rfl

/-! ### The module's events (R23 to R26) -/

theorem lockLimitExpiry_goesOn (c : Channel) : s.GoesOn (execLockLimitExpiry c s) := by
  unfold execLockLimitExpiry
  dsimp only
  split
  · exact goesOn_settle (enterFailed_pending (s.setChannel c _) c _)
  · exact goesOn_next rfl

theorem relockLimitExpiry_goesOn (c : Channel) : s.GoesOn (execRelockLimitExpiry c s) := by
  unfold execRelockLimitExpiry
  dsimp only
  split
  · exact goesOn_settle (enterFailed_pending (s.setChannel c _) c _)
  · exact goesOn_next rfl

theorem loopbackWindowEnd_goesOn (c : Channel) (returned : List Byte) : s.GoesOn (execLoopbackWindowEnd c returned s) := by
  unfold execLoopbackWindowEnd
  dsimp only
  split
  · split
    · exact goesOn_settle (failTest_pending s c _)
    · split
      · exact goesOn_settle (passTest_pending s c)
      · exact goesOn_next rfl
  · exact goesOn_next rfl

/-! ### The refresh cycle (R29, R32, R34, R35, R39, R41, R42) -/

theorem cycleStart_goesOn (c : Channel) : s.GoesOn (execCycleStart c s) := by
  unfold execCycleStart
  dsimp only
  split <;> exact goesOn_next rfl

theorem frameBuild_goesOn (c : Channel) (slot : SlotNo) : s.GoesOn (execFrameBuild c slot s) := by
  unfold execFrameBuild
  dsimp only
  split
  · split <;> exact goesOn_next rfl
  · exact goesOn_next rfl

theorem radioFrameReceive_goesOn (c : Channel) (bytes : List Byte) : s.GoesOn (execRadioFrameReceive c bytes s) := by
  unfold execRadioFrameReceive
  split <;> exact goesOn_next rfl

theorem responseWindowEnd_goesOn (c : Channel) : s.GoesOn (execResponseWindowEnd c s) := by
  unfold execResponseWindowEnd
  split
  · exact goesOn_settle (slotOutcome_pending (s.endSlot c) _ _)
  · exact goesOn_next rfl

theorem housekeepingWindowEnd_goesOn (c : Channel) : s.GoesOn (execHousekeepingWindowEnd c s) := by
  unfold execHousekeepingWindowEnd
  split
  · split
    · exact goesOn_settle (pollReport_pending (s.endSlot c) c _ _)
    · exact goesOn_next rfl
  · split
    · exact goesOn_settle (answerInFlight_pending (s.endSlot c) _ _)
    · exact goesOn_next rfl
  · exact goesOn_next rfl

theorem sendLimitExpiry_goesOn (c : Channel) : s.GoesOn (execSendLimitExpiry c s) := by
  unfold execSendLimitExpiry
  dsimp only
  split
  · exact goesOn_settle (answerInFlight_pending (s.setChannel c _) _ _)
  · exact goesOn_next rfl

/-! ### Timers and inputs (R54 to R56, R156) -/

theorem silenceExpiry_goesOn (b : BindingId) : s.GoesOn (execSilenceExpiry b s) := by
  unfold execSilenceExpiry
  dsimp only
  split
  · exact goesOn_settle rfl
  · exact goesOn_next rfl

theorem estopAssertionEdge_goesOn : s.GoesOn (execEstopAssertionEdge s) := by
  unfold execEstopAssertionEdge
  split
  · exact goesOn_next rfl
  · exact goesOn_settle rfl

theorem supplyMonitorAssertionEdge_goesOn : s.GoesOn (execSupplyMonitorAssertionEdge s) := by
  unfold execSupplyMonitorAssertionEdge
  split
  · exact goesOn_next rfl
  · exact goesOn_settle rfl

end Families

/-- Settles O2: each family's commands answer a next state, reached by operations that leave the waiting commands alone. -/
theorem everyCommandGoesOn : Obligations.EveryCommandGoesOn := by
  obtain ⟨hnop, hstatus, hread, hfaultRead⟩ := reports_leavePending
  obtain ⟨hstopAll, hrestart⟩ := stops_leavePending
  obtain ⟨hform, hadd, hremove⟩ := memberCommands_leavePending
  obtain ⟨hhold, hresume, hdisband, hrelease⟩ := convoyCommands_leavePending
  intro c s
  show s.GoesOn (exec c s)
  cases c with
  | powerOnReset pins => exact goesOn_settle (w := powerOnWork pins s) rfl
  | frameCheckFailure bytes => exact frameCheckFailure_goesOn bytes
  | drive header payload check => exact drive_goesOn header payload check
  | aux header payload check => exact aux_goesOn header payload check
  | mgmt header payload check => exact mgmt_goesOn header payload check
  | outputFrameSend => exact outputFrameSend_goesOn
  | unknownCommand => exact unknownCommand_goesOn
  | nop => exact goesOn_atOnce hnop
  | status => exact goesOn_atOnce hstatus
  | read => exact goesOn_atOnce hread
  | vehicleWrite => exact goesOn_write fun i b s => by rw [judgeVehicle_frame]
  | bindingWrite => exact goesOn_write fun i b s => by rw [judgeBinding_frame]
  | zoneWrite => exact goesOn_write fun i b s => by rw [judgeZone_frame]
  | limitsWrite => exact goesOn_write fun i b s => by rw [judgeLimits_frame]
  | convoyForm => exact goesOn_atOnce hform
  | convoyAdd => exact goesOn_atOnce hadd
  | convoyRemove => exact goesOn_atOnce hremove
  | convoyHold => exact goesOn_atOnce hhold
  | convoyResume => exact goesOn_atOnce hresume
  | convoyDisband => exact goesOn_atOnce hdisband
  | zoneRelease => exact goesOn_atOnce hrelease
  | coupleConfirm | coupleReject => exact goesOn_atOnce (runDecision_leavesPending fun _ _ _ => rfl)
  | directSend => exact directSend_goesOn
  | channelRestart => exact channelRestart_goesOn
  | faultRead => exact goesOn_atOnce hfaultRead
  | faultClear => exact goesOn_atOnce runFaultClear_leavesPending
  | stopAll => exact goesOn_atOnce hstopAll
  | restart => exact goesOn_atOnce hrestart
  | lockAchieved c | relock c => exact goesOn_next (lockReport_pending s c)
  | lockLimitExpiry c => exact lockLimitExpiry_goesOn c
  | loopbackWindowEnd c returned => exact loopbackWindowEnd_goesOn c returned
  | lockLost c returned => exact goesOn_settle (lockLostReport_pending s c returned)
  | relockLimitExpiry c => exact relockLimitExpiry_goesOn c
  | cycleStart c => exact cycleStart_goesOn c
  | frameBuild c slot => exact frameBuild_goesOn c slot
  | radioFrameReceive c bytes => exact radioFrameReceive_goesOn c bytes
  | responseWindowEnd c => exact responseWindowEnd_goesOn c
  | housekeepingWindowEnd c => exact housekeepingWindowEnd_goesOn c
  | sendLimitExpiry c => exact sendLimitExpiry_goesOn c
  | silenceExpiry b => exact silenceExpiry_goesOn b
  | estopAssertionEdge => exact estopAssertionEdge_goesOn
  | supplyMonitorAssertionEdge => exact supplyMonitorAssertionEdge_goesOn
  | estopRelease | supplyMonitorRelease | timeCounterTick => exact goesOn_next rfl

end Sys2Proof.Machine
